-- ==== Sys2Proof/Word.lean ====
section
/-! DEFINITION. The word types of the CX4 and their plainest arithmetic (spec 00 R7, R9). -/

namespace Sys2Proof

/-- A 64-bit register, address or doubleword. -/
abbrev Word := BitVec 64

/-- One byte of memory. -/
abbrev Byte := BitVec 8

/-- The 512 bits of one vector register (spec 11). -/
abbrev Vec := BitVec 512

/-- A c-register number (spec 09 R194). -/
abbrev CReg := Fin 16

/-- A v-register number. -/
abbrev VReg := Fin 32

/-- A q-register number. -/
abbrev QReg := Fin 8

/-- Bits [hi:lo] of a natural number (spec 00 R9). -/
def bits (x hi lo : Nat) : Nat := (x >>> lo) % 2 ^ (hi + 1 - lo)

/-- Bit n of a natural number as 0 or 1. -/
def bit (x n : Nat) : Nat := (x >>> n) % 2

/-- The value of a w-bit field read as a two's complement number. -/
def toSigned (w x : Nat) : Int := if x % 2 ^ w < 2 ^ (w - 1) then (x % 2 ^ w : Nat) else (x % 2 ^ w : Nat) - (2 ^ w : Nat)

/-- An integer reduced modulo 2^w, as a natural number. -/
def wrap (w : Nat) (x : Int) : Nat := (x % (2 ^ w : Nat)).toNat

/-- 1 for true, 0 for false. -/
def b2n (b : Bool) : Nat := if b then 1 else 0

/-- An unsigned number as a word, modulo 2^64. -/
def w64 (x : Nat) : Word := BitVec.ofNat 64 x

/-- The smallest multiple of m at or above x. -/
def roundUp (x m : Nat) : Nat := (x + m - 1) / m * m

/-- The largest multiple of m at or below x. -/
def roundDown (x m : Nat) : Nat := x / m * m

/-- Quotient rounded up. -/
def ceilDiv (x m : Nat) : Nat := (x + m - 1) / m

/-- The index of the highest set bit of x, found by at most n halvings; 0 for x = 0. -/
def log2Below : Nat → Nat → Nat
  | 0, _ => 0
  | n + 1, x => if x < 2 then 0 else 1 + log2Below n (x / 2)

end Sys2Proof
end

