-- ==== Sys2Proof/Config.lean ====
section
/-! DEFINITION. What the spec leaves open: free values, constants without a body, so that nothing can be proved of a value of
theirs. Each is applied to the counter of the state (tick) or to the operands it depends on (log 6 and the entries named). -/

namespace Sys2Proof.Config

/-- The EBT that trap entry writes with DS = 0 (16 R376; log 6). -/
opaque freeEbt : Nat → Word

/-- The address of the first branch for a slot re-executed after ERET (09 R205, R206; log 6). -/
opaque freeBranch : Nat → Word

/-- The reading of a load or an engine from a byte of a task queue, by count, moment and location (08 R184; log 11). -/
opaque freeQueueByte : Nat → Nat → Nat → Byte

/-- A field of a task record in a queue whose bytes were written by a privileged path, by moment and field (08 R184; log 11). -/
opaque freeTask : Nat → Nat → Nat

/-- The fingerprint of the core of a pair whose stream went wrong (16 R394, R395; log 22). -/
opaque freeFingerprint : Nat → BitVec 32

/-- The result of PAIR.ON inside a paired stream (14 R347 names no case; log 6). -/
opaque freePairOn : Nat → Word

/-- A remote atomic that timed out was performed at its target (02 R60: unknown; log 6). -/
opaque freePerformed : Nat → Bool

/-- A byte of a save image whose contents R366 does not lay out, by image and offset (15 R366; log 35). -/
opaque freeImageByte : Nat → Nat → Byte

/-- A byte of the Garnet log that R386 does not lay out: of its header, or the packing of SITE and SUB in a suspect's entry (16 R386;
log 70). -/
opaque freeGarnetByte : Nat → Byte

/-- SHA-384 (18 R416, R417; log 26). -/
opaque sha384 : List Nat → Nat

/-- What the boot ROM finds in the bytes of a firmware image (18 R416; log 26): 0 and 1 whether its two signatures verify, 2 and 3 the
digests of the keys, 4 its version, and from 16 on its energy table (17 R399). -/
opaque firmware : Nat → List Nat → Nat

/-- A signature of the boot ROM's attestation keys over a transcript (18 R417; log 26). -/
opaque signature : Nat → Nat → Nat

/-- The body of an SPDM response other than the signatures and the measurements (18 R417; log 26). -/
opaque spdmBody : Nat → Nat → Nat

end Sys2Proof.Config
end

