-- ==== Sys2Proof/Syntax.lean ====
section
/-! DEFINITION. The instructions of the CX4 (spec 09 to 14) and the events of its units: one constructor per row of
spec/opcode_table.json. The field names are those of the encodings: s is the stall count of the head (R194), a and b are
the head's A and B fields, and the tail fields carry the names of R208 to R213, R224, R235, R237, R266, R270, R276, R280,
R311, R317 and R318. The operands of an event name the unit or the item it is about. -/

namespace Sys2Proof

/-- The vector tail of R211 with the head fields S and B; A is the sub-function. -/
structure VOp where
  s : Fin 4
  b : CReg
  rnd : Fin 4
  fmt : Fin 32
  ag : Bool
  me : Bool
  msk : Fin 8
  vc : VReg
  vb : VReg
  va : VReg
  vd : VReg
deriving DecidableEq, Repr

/-- The operands of CP.COPY and CP.MCAST (R212); the multicast bit is the constructor. -/
structure CopyOp where
  s : Fin 4
  a : CReg
  b : CReg
  metaReg : CReg
  fac : Bool
  xf : Fin 4
  dim : Fin 4
  dh : Fin 1024
  len : CReg
deriving DecidableEq, Repr

/-- The operands of MX.MMA (R213). -/
structure MmaOp where
  s : Fin 4
  a : CReg
  b : CReg
  kpReassoc : Bool
  kpRound : Bool
  tok : Bool
  sp : Bool
  fc : Bool
  acc : Bool
  tb : Bool
  ta : Bool
  up : Fin 16
  bfmt : Fin 32
  afmt : Fin 32
  kc : Fin 256
  nc : Fin 64
  mc : Fin 64
  bh : Fin 1024
  ah : Fin 1024
deriving DecidableEq, Repr

/-- What an access does, for translation (R33, R34). -/
inductive AccKind where
  | load | store | fetch
deriving DecidableEq, Repr

/-- One operation of an L1 bank (R46, R53, R56). -/
inductive BankOp where
  | load
  | store (data : Nat)
  | amo (code v : Nat)
  | cas (expect new : Nat)
  | capLoad
  | capStore (data : BitVec 128) (tag : Bool)
deriving DecidableEq, Repr

/-- A request for a bank (R48): input number, L1 offset, size in bytes and operation. One that has still to come down from the block
switch, the quadrant stage or the root lists in `up` the inputs of their arbiters that it stands at or is to pass, from the block switch
upward. `hart` is the core whose instruction the request serves, if any; inputs 0 to 7 say it themselves. -/
structure BankReq where
  input : Nat
  off : Nat
  n : Nat
  op : BankOp
  up : List Nat := []
  hart : Option Nat := none
deriving DecidableEq, Repr

/-- A memory access of the host or of a peer device (R58, R414): the target is byte `off` of Hearth `hearth`'s L1, or,
for hearth 4 and above, physical address `off`. -/
structure PeerReq where
  host : Bool
  hearth : Nat
  off : Nat
  n : Nat
  op : BankOp
deriving DecidableEq, Repr

/-- What a storage code reports (R379, R382). -/
structure ErrEvent where
  uncorrectable : Bool
  site : Nat
  sub : Nat
  addr : Nat
  syn : Nat
deriving DecidableEq, Repr

/-- A CCP frame as it arrives at a host port (R410, R411): context and sequence number, the other fields of its header, the port, and
whether MACsec protected it. -/
structure Frame where
  ctx : Nat
  seq : Nat
  ver : Nat := 1
  flags : Nat := 0
  stamp : Nat := 0
  len : Nat := 0
  zero : Nat := 0
  port : Nat := 0
  secured : Bool := true
deriving DecidableEq, Repr

/-- A code object as LOAD carries it (R418): its bytes, and the line extents (first line, lines) of its functions. -/
structure CodeImage where
  bytes : List Byte
  fns : List (Nat × Nat)
deriving DecidableEq, Repr

/-- A firmware image presented to the boot ROM (R416): whether each signature verifies, the digests of the two public keys that it was
checked with, its security version, its digest and the energy table that it loads (R399). -/
structure BootImage where
  rsaOk : Bool
  slhOk : Bool
  version : Nat
  digest : Nat
  rsaKey : Nat := 0
  slhKey : Nat := 0
  energy : List Nat := []
deriving DecidableEq, Repr

/-- One constructor per row of spec/opcode_table.json. -/
inductive Instr where
  /-- ADD_COMPACT (R219): Two-address add: c[A] := Untagged(c[A] + c[B]). -/
  | addCompact (s : Fin 4) (a b : CReg)
  /-- SUB_COMPACT (R219): Two-address subtract: c[A] := Untagged(c[A] - c[B]). -/
  | subCompact (s : Fin 4) (a b : CReg)
  /-- AND_COMPACT (R219): Two-address bitwise AND of c[A] and c[B] into c[A]. -/
  | andCompact (s : Fin 4) (a b : CReg)
  /-- OR_COMPACT (R219): Two-address bitwise OR of c[A] and c[B] into c[A]. -/
  | orCompact (s : Fin 4) (a b : CReg)
  /-- XOR_COMPACT (R219): Two-address bitwise XOR of c[A] and c[B] into c[A]. -/
  | xorCompact (s : Fin 4) (a b : CReg)
  /-- MOV (R219): Copies the 64-bit value of c[B] into c[A], untagged. -/
  | mov (s : Fin 4) (a b : CReg)
  /-- MUL_COMPACT (R219): Two-address multiply keeping the low 64 bits, multiply latency class. -/
  | mulCompact (s : Fin 4) (a b : CReg)
  /-- SHL_COMPACT (R219): Two-address shift left of c[A] by c[B] mod 64. -/
  | shlCompact (s : Fin 4) (a b : CReg)
  /-- ADD (R220): Three-address add c[A] := c[B] + c[C], untagged. -/
  | add (s : Fin 4) (a b c : CReg)
  /-- SUB (R220): Three-address subtract c[A] := c[B] - c[C]. -/
  | sub (s : Fin 4) (a b c : CReg)
  /-- AND (R220): Three-address bitwise AND. -/
  | and (s : Fin 4) (a b c : CReg)
  /-- OR (R220): Three-address bitwise OR. -/
  | or (s : Fin 4) (a b c : CReg)
  /-- XOR (R220): Three-address bitwise XOR. -/
  | xor (s : Fin 4) (a b c : CReg)
  /-- ANDN (R220): Three-address x AND NOT y. -/
  | andn (s : Fin 4) (a b c : CReg)
  /-- SHL (R220): Three-address shift left by y mod 64. -/
  | shl (s : Fin 4) (a b c : CReg)
  /-- SHR (R220): Three-address logical shift right by y mod 64. -/
  | shr (s : Fin 4) (a b c : CReg)
  /-- SAR (R220): Three-address arithmetic shift right by y mod 64. -/
  | sar (s : Fin 4) (a b c : CReg)
  /-- ROR (R220): Three-address rotate right by y mod 64. -/
  | ror (s : Fin 4) (a b c : CReg)
  /-- MUL (R220): Three-address multiply, low 64 bits. -/
  | mul (s : Fin 4) (a b c : CReg)
  /-- MULH (R220): High 64 bits of the signed 128-bit product. -/
  | mulh (s : Fin 4) (a b c : CReg)
  /-- MULHU (R220): High 64 bits of the unsigned product. -/
  | mulhu (s : Fin 4) (a b c : CReg)
  /-- MULHSU (R220): High 64 bits of signed x times unsigned y. -/
  | mulhsu (s : Fin 4) (a b c : CReg)
  /-- DIV (R221): Signed division truncating toward zero; never traps. -/
  | div (s : Fin 4) (a b c : CReg)
  /-- DIVU (R221): Unsigned division; divide by zero gives all ones. -/
  | divu (s : Fin 4) (a b c : CReg)
  /-- REM (R221): Signed remainder with the sign of the dividend. -/
  | rem (s : Fin 4) (a b c : CReg)
  /-- REMU (R221): Unsigned remainder. -/
  | remu (s : Fin 4) (a b c : CReg)
  /-- MIN (R220): Signed minimum of two registers. -/
  | min (s : Fin 4) (a b c : CReg)
  /-- MAX (R220): Signed maximum of two registers. -/
  | max (s : Fin 4) (a b c : CReg)
  /-- MINU (R220): Unsigned minimum of two registers. -/
  | minu (s : Fin 4) (a b c : CReg)
  /-- MAXU (R220): Unsigned maximum of two registers. -/
  | maxu (s : Fin 4) (a b c : CReg)
  /-- SEQ (R220): Sets 1 if x = y, else 0. -/
  | seq (s : Fin 4) (a b c : CReg)
  /-- SNE (R220): Sets 1 if x differs from y, else 0. -/
  | sne (s : Fin 4) (a b c : CReg)
  /-- SLT (R220): Sets 1 if x < y signed, else 0. -/
  | slt (s : Fin 4) (a b c : CReg)
  /-- SLTU (R220): Sets 1 if x < y unsigned, else 0. -/
  | sltu (s : Fin 4) (a b c : CReg)
  /-- SELNZ (R220): Selects x when y is nonzero, else keeps c[A], writing untagged. -/
  | selnz (s : Fin 4) (a b c : CReg)
  /-- SELZ (R220): Selects x when y is zero, else keeps c[A], writing untagged. -/
  | selz (s : Fin 4) (a b c : CReg)
  /-- CLZ (R220): Counts leading zero bits of x. -/
  | clz (s : Fin 4) (a b : CReg)
  /-- CTZ (R220): Counts trailing zero bits of x. -/
  | ctz (s : Fin 4) (a b : CReg)
  /-- POPC (R220): Counts one bits of x. -/
  | popc (s : Fin 4) (a b : CReg)
  /-- BSWAP (R220): Reverses the eight bytes of x. -/
  | bswap (s : Fin 4) (a b : CReg)
  /-- LI_16 (R222): Loads a sign-extended 16-bit immediate. -/
  | li16 (s : Fin 4) (a : CReg) (imm : BitVec 16)
  /-- LI_32 (R222): Loads a sign-extended 32-bit immediate. -/
  | li32 (s : Fin 4) (a : CReg) (imm : BitVec 32)
  /-- LI_64 (R222): Loads a 64-bit immediate. -/
  | li64 (s : Fin 4) (a : CReg) (imm : BitVec 64)
  /-- ADDI_16 (R222): Adds a sign-extended 16-bit immediate to c[B]. -/
  | addi16 (s : Fin 4) (a b : CReg) (imm : BitVec 16)
  /-- ADDI_32 (R222): Adds a sign-extended 32-bit immediate to c[B]. -/
  | addi32 (s : Fin 4) (a b : CReg) (imm : BitVec 32)
  /-- CADD_REG (R223): Moves a capability's address by c[C], keeping the tag only while representable. -/
  | caddReg (s : Fin 4) (a b c : CReg)
  /-- CADD_16 (R223): Moves a capability's address by a 16-bit signed immediate. -/
  | cadd16 (s : Fin 4) (a b : CReg) (imm : BitVec 16)
  /-- CADD_32 (R223): Moves a capability's address by a 32-bit signed immediate. -/
  | cadd32 (s : Fin 4) (a b : CReg) (imm : BitVec 32)
  /-- LD (R231): Checked scalar or capability load, optionally acquire. -/
  | ld (s : Fin 4) (a b : CReg) (ord : Bool) (sz : Fin 8) (off : BitVec 12)
  /-- ST (R232): Checked scalar or capability store into the store buffer, optionally release. -/
  | st (s : Fin 4) (a b : CReg) (ord : Bool) (sz : Fin 8) (off : BitVec 12)
  /-- LD_FAR (R233): Load with the remote hint: no L2 allocation outside the aperture span. -/
  | ldFar (s : Fin 4) (a b : CReg) (ord : Bool) (sz : Fin 8) (off : BitVec 12)
  /-- ST_FAR (R233): Store with the remote hint: no L2 allocation outside the aperture span. -/
  | stFar (s : Fin 4) (a b : CReg) (ord : Bool) (sz : Fin 8) (off : BitVec 12)
  /-- AMO_ADD (R236): Atomic add at the home, returning the old value. -/
  | amoAdd (s : Fin 4) (a b : CReg) (w : Bool) (c : CReg)
  /-- AMO_AND (R236): Atomic AND, returning the old value. -/
  | amoAnd (s : Fin 4) (a b : CReg) (w : Bool) (c : CReg)
  /-- AMO_OR (R236): Atomic OR, returning the old value. -/
  | amoOr (s : Fin 4) (a b : CReg) (w : Bool) (c : CReg)
  /-- AMO_XOR (R236): Atomic XOR, returning the old value. -/
  | amoXor (s : Fin 4) (a b : CReg) (w : Bool) (c : CReg)
  /-- AMO_SMIN (R236): Atomic signed minimum, returning the old value. -/
  | amoSmin (s : Fin 4) (a b : CReg) (w : Bool) (c : CReg)
  /-- AMO_SMAX (R236): Atomic signed maximum, returning the old value. -/
  | amoSmax (s : Fin 4) (a b : CReg) (w : Bool) (c : CReg)
  /-- AMO_UMIN (R236): Atomic unsigned minimum, returning the old value. -/
  | amoUmin (s : Fin 4) (a b : CReg) (w : Bool) (c : CReg)
  /-- AMO_UMAX (R236): Atomic unsigned maximum, returning the old value. -/
  | amoUmax (s : Fin 4) (a b : CReg) (w : Bool) (c : CReg)
  /-- AMO_SWAP (R236): Atomic swap, returning the old value. -/
  | amoSwap (s : Fin 4) (a b : CReg) (w : Bool) (c : CReg)
  /-- AMO_CADD (R54): Atomic CI16 complex add per element, returning the old value. -/
  | amoCadd (s : Fin 4) (a b : CReg) (w : Bool) (c : CReg)
  /-- AMO_BADD (R54): Atomic BF16 add per lane rounded to nearest-even, returning the old value. -/
  | amoBadd (s : Fin 4) (a b : CReg) (w : Bool) (c : CReg)
  /-- CAS (R236): Compare-and-swap at the home, always returning the old value, acting as release and acquire. -/
  | cas (s : Fin 4) (a b : CReg) (w : Bool) (c : CReg)
  /-- FENCE (R97): Orders earlier accesses of the masked kinds before later ones at the given scope. -/
  | fence (s : Fin 4) (mask : Fin 16) (scope : Fin 4)
  /-- FENCE_E (R103): Holds later accesses until every earlier engine operation of the hart is final. -/
  | fenceE (s : Fin 4)
  /-- FENCE_I (R238): Drains the store buffer and discards fetched lines and fetch micro-TLB entries. -/
  | fenceI (s : Fin 4)
  /-- BEQ (R239): Branches after its delay slot if c[A].ADDR = c[B].ADDR. -/
  | beq (s : Fin 4) (a b : CReg) (idx : Fin 32) (disp : BitVec 11)
  /-- BNE (R239): Branches if the addresses differ. -/
  | bne (s : Fin 4) (a b : CReg) (idx : Fin 32) (disp : BitVec 11)
  /-- BLT (R239): Branches if c[A] < c[B] signed. -/
  | blt (s : Fin 4) (a b : CReg) (idx : Fin 32) (disp : BitVec 11)
  /-- BGE (R239): Branches if c[A] >= c[B] signed. -/
  | bge (s : Fin 4) (a b : CReg) (idx : Fin 32) (disp : BitVec 11)
  /-- BLTU (R239): Branches if c[A] < c[B] unsigned. -/
  | bltu (s : Fin 4) (a b : CReg) (idx : Fin 32) (disp : BitVec 11)
  /-- BGEU (R239): Branches if c[A] >= c[B] unsigned. -/
  | bgeu (s : Fin 4) (a b : CReg) (idx : Fin 32) (disp : BitVec 11)
  /-- JAL (R240): Jumps after its slot, writing a link capability to c[A] (J when A = 0). -/
  | jal (s : Fin 4) (a : CReg) (disp : BitVec 27) (idx : Fin 32)
  /-- JR (R241): Capability-checked jump to c[B].ADDR after its slot, with an optional link. -/
  | jr (s : Fin 4) (a b : CReg)
  /-- BR_TOK (R242): Pops a matrix token from qB and branches to the PC it carries, waiting while empty. -/
  | brTok (s : Fin 4) (q : QReg)
  /-- CNARROW (R225): Narrows a capability's bounds to [address, address + length), rounding outward. -/
  | cnarrow (s : Fin 4) (a b c : CReg)
  /-- CNARROW_X (R225): Narrows bounds only when exactly representable, else traps. -/
  | cnarrowX (s : Fin 4) (a b c : CReg)
  /-- CDROP (R226): Removes the permissions named by the mask in c[C]. -/
  | cdrop (s : Fin 4) (a b c : CReg)
  /-- CFMT (R226): Sets a capability's FMT and BLOG from the tail. -/
  | cfmt (s : Fin 4) (a b : CReg) (blog : Fin 8) (fmt : Fin 32)
  /-- CREAD_BASE (R227): Reads the decoded base of a capability. -/
  | creadBase (s : Fin 4) (a b : CReg)
  /-- CREAD_TOP (R227): Reads the decoded top of a capability. -/
  | creadTop (s : Fin 4) (a b : CReg)
  /-- CREAD_LEN (R227): Reads the length of a capability. -/
  | creadLen (s : Fin 4) (a b : CReg)
  /-- CREAD_PERM (R227): Reads the permission field. -/
  | creadPerm (s : Fin 4) (a b : CReg)
  /-- CREAD_FMT (R227): Reads the format field. -/
  | creadFmt (s : Fin 4) (a b : CReg)
  /-- CREAD_BLOG (R227): Reads the block-length log. -/
  | creadBlog (s : Fin 4) (a b : CReg)
  /-- CREAD_TAG (R227): Reads the tag. -/
  | creadTag (s : Fin 4) (a b : CReg)
  /-- CREAD_SHUT (R227): Reads the SEAL bit. -/
  | creadShut (s : Fin 4) (a b : CReg)
  /-- CREAD_META (R227): Reads bits [127:64] of a capability. -/
  | creadMeta (s : Fin 4) (a b : CReg)
  /-- CSHUT (R226): Seals a capability. -/
  | cshut (s : Fin 4) (a b : CReg)
  /-- COPEN (R226): Unseals a capability at level K or F. -/
  | copen (s : Fin 4) (a b : CReg)
  /-- CMINT (R229): Mints the context root capability at c[B]'s address, above level U. -/
  | cmint (s : Fin 4) (a b : CReg)
  /-- CCLONE (R229): Copies a capability whole, with its tag. -/
  | cclone (s : Fin 4) (a b : CReg)
  /-- CWITHIN (R229): Tests whether c[C] lies within c[B] in bounds and permissions. -/
  | cwithin (s : Fin 4) (a b c : CReg)
  /-- VADD (R248): Vector integer add, wrapping. -/
  | vadd (o : VOp)
  /-- VSUB (R248): Vector integer subtract, wrapping. -/
  | vsub (o : VOp)
  /-- VMUL (R248): Vector integer multiply, low bits. -/
  | vmul (o : VOp)
  /-- VMULH (R248): Vector integer multiply, high bits. -/
  | vmulh (o : VOp)
  /-- VMIN (R248): Vector integer minimum. -/
  | vmin (o : VOp)
  /-- VMAX (R248): Vector integer maximum. -/
  | vmax (o : VOp)
  /-- VABS (R248): Vector integer absolute value, wrapping. -/
  | vabs (o : VOp)
  /-- VNEG (R248): Vector integer negate. -/
  | vneg (o : VOp)
  /-- VADD_SAT (R248): Vector saturating add, setting SAT on clip. -/
  | vaddSat (o : VOp)
  /-- VSUB_SAT (R248): Vector saturating subtract. -/
  | vsubSat (o : VOp)
  /-- VABS_SAT (R248): Vector saturating absolute value. -/
  | vabsSat (o : VOp)
  /-- VAND (R249): Vector bitwise AND. -/
  | vand (o : VOp)
  /-- VOR (R249): Vector bitwise OR. -/
  | vor (o : VOp)
  /-- VXOR (R249): Vector bitwise XOR. -/
  | vxor (o : VOp)
  /-- VANDN (R249): Vector a AND NOT b. -/
  | vandn (o : VOp)
  /-- VSHL (R249): Vector per-element shift left by register. -/
  | vshl (o : VOp)
  /-- VSHR (R249): Vector logical shift right by register. -/
  | vshr (o : VOp)
  /-- VSAR (R249): Vector arithmetic shift right by register. -/
  | vsar (o : VOp)
  /-- VSHLI (R249): Vector shift left by immediate. -/
  | vshli (o : VOp)
  /-- VSHRI (R249): Vector logical shift right by immediate. -/
  | vshri (o : VOp)
  /-- VSARI (R249): Vector arithmetic shift right by immediate. -/
  | vsari (o : VOp)
  /-- VFADD (R250): Vector float add, rounded once. -/
  | vfadd (o : VOp)
  /-- VFSUB (R250): Vector float subtract. -/
  | vfsub (o : VOp)
  /-- VFMUL (R250): Vector float multiply. -/
  | vfmul (o : VOp)
  /-- VFMIN (R250): Vector float minimum under the NaN rules. -/
  | vfmin (o : VOp)
  /-- VFMAX (R250): Vector float maximum under the NaN rules. -/
  | vfmax (o : VOp)
  /-- VFABS (R250): Clears the sign bit of each element. -/
  | vfabs (o : VOp)
  /-- VFNEG (R250): Inverts the sign bit of each element. -/
  | vfneg (o : VOp)
  /-- VFDIV (R250): Vector float divide. -/
  | vfdiv (o : VOp)
  /-- VFSQRT (R250): Vector float square root. -/
  | vfsqrt (o : VOp)
  /-- VFMA (R250): Vector fused a × b + c. -/
  | vfma (o : VOp)
  /-- VFMS (R250): Vector fused a × b − c. -/
  | vfms (o : VOp)
  /-- VFNMA (R250): Vector fused c − a × b. -/
  | vfnma (o : VOp)
  /-- VCMUL (R252): Vector complex multiply. -/
  | vcmul (o : VOp)
  /-- VCMAC (R252): Vector complex multiply-accumulate. -/
  | vcmac (o : VOp)
  /-- VCMULJ (R252): Vector complex multiply by the conjugate. -/
  | vcmulj (o : VOp)
  /-- VCMACJ (R252): Vector complex multiply-accumulate by the conjugate. -/
  | vcmacj (o : VOp)
  /-- VCCONJ (R251): Vector complex conjugate. -/
  | vcconj (o : VOp)
  /-- VCMP_EQ (R253): Vector compare equal into a mask. -/
  | vcmpEq (o : VOp)
  /-- VCMP_NE (R253): Vector compare not equal into a mask. -/
  | vcmpNe (o : VOp)
  /-- VCMP_LT (R253): Vector compare less than into a mask. -/
  | vcmpLt (o : VOp)
  /-- VCMP_LE (R253): Vector compare less or equal into a mask. -/
  | vcmpLe (o : VOp)
  /-- VSEL (R253): Selects per element by a mask register. -/
  | vsel (o : VOp)
  /-- VMOV (R254): Vector register move. -/
  | vmov (o : VOp)
  /-- VSPLAT (R254): Broadcasts c[B] into every element. -/
  | vsplat (o : VOp)
  /-- VEXT (R254): Extracts element k into a c-register. -/
  | vext (o : VOp)
  /-- VINS (R254): Inserts a c-register value at element k. -/
  | vins (o : VOp)
  /-- VPERM (R254): Permutes elements by an index vector. -/
  | vperm (o : VOp)
  /-- VSHUF (R254): Shuffles from two vectors by an index vector. -/
  | vshuf (o : VOp)
  /-- VSLIDE (R254): Slides elements across two vectors by c[B]. -/
  | vslide (o : VOp)
  /-- VMPOPC (R254): Counts active set mask bits into a c-register. -/
  | vmpopc (o : VOp)
  /-- VMFIRST (R254): Finds the first active set mask bit. -/
  | vmfirst (o : VOp)
  /-- VREDSUM (R255): Integer sum reduction by the pairwise tree. -/
  | vredsum (o : VOp)
  /-- VREDMIN (R255): Integer minimum reduction. -/
  | vredmin (o : VOp)
  /-- VREDMAX (R255): Integer maximum reduction. -/
  | vredmax (o : VOp)
  /-- VREDAND (R255): AND reduction. -/
  | vredand (o : VOp)
  /-- VREDOR (R255): OR reduction. -/
  | vredor (o : VOp)
  /-- VREDXOR (R255): XOR reduction. -/
  | vredxor (o : VOp)
  /-- VFREDSUM (R150): Float sum reduction with FP32 nodes rounded each. -/
  | vfredsum (o : VOp)
  /-- VFREDMIN (R255): Float minimum reduction. -/
  | vfredmin (o : VOp)
  /-- VFREDMAX (R255): Float maximum reduction. -/
  | vfredmax (o : VOp)
  /-- VCVT (R256): Converts elements between formats, widening or narrowing into part P. -/
  | vcvt (o : VOp)
  /-- VLD (R258): Unit-stride vector load. -/
  | vld (o : VOp)
  /-- VST (R259): Unit-stride vector store through store-buffer entries. -/
  | vst (o : VOp)
  /-- VLDS (R258): Strided vector load. -/
  | vlds (o : VOp)
  /-- VSTS (R259): Strided vector store. -/
  | vsts (o : VOp)
  /-- VLDX (R258): Indexed vector load. -/
  | vldx (o : VOp)
  /-- VSTX (R259): Indexed vector store. -/
  | vstx (o : VOp)
  /-- VLD_DEC (R260): Loads 16 elements of a blocked array decoded to FP32. -/
  | vldDec (o : VOp)
  /-- VST_ENC (R260): Encodes 16 FP32 values into blocked format and stores them. -/
  | vstEnc (o : VOp)
  /-- CP_COPY (R272): Checks and queues a landing copy on the hart's copy queue. -/
  | cpCopy (o : CopyOp)
  /-- CP_MCAST (R126): Checks and queues a multicast landing into a replicated ring of every Tray of a domain. -/
  | cpMcast (o : CopyOp)
  /-- CP_WM (R274): Returns a handle's watermark word with acquire. -/
  | cpWm (s : Fin 4) (a b : CReg)
  /-- CP_RESUME (R275): Unfreezes a frozen operation named by OPN. -/
  | cpResume (s : Fin 4) (b : CReg)
  /-- CP_ABORT (R275): Aborts a frozen operation, removing its entries and freeing its slot. -/
  | cpAbort (s : Fin 4) (b : CReg)
  /-- BT_ALLOC (R121): Allocates a ring or tracking handle in a Hearth's buffer table. -/
  | btAlloc (s : Fin 4) (a b : CReg) (hrt : Fin 4)
  /-- BT_FREE (R277): Frees a handle whose slots are all FREE. -/
  | btFree (s : Fin 4) (b : CReg)
  /-- BT_WAITF (R277): Waits for a FULL head slot and moves it to DRAINING. -/
  | btWaitf (s : Fin 4) (a b : CReg)
  /-- BT_REL (R277): Releases the oldest DRAINING slot to FREE. -/
  | btRel (s : Fin 4) (b : CReg)
  /-- BT_STAT (R125): Returns a handle's status word. -/
  | btStat (s : Fin 4) (a b : CReg)
  /-- TILE_DECL (R153): Declares a tile and generates its facet records. -/
  | tileDecl (s : Fin 4) (a b : CReg)
  /-- TILE_UNDECL (R278): Removes a declared tile and frees its records. -/
  | tileUndecl (s : Fin 4) (b : CReg)
  /-- TILE_CHK (R156): Checks a tile against its facets, correcting one element or refusing. -/
  | tileChk (s : Fin 4) (b : CReg)
  /-- TILE_FIX (R278): Regenerates every facet record of a tile from its data. -/
  | tileFix (s : Fin 4) (b : CReg)
  /-- MX_MMA (R285): Checks and accepts a matrix multiply-accumulate command into the matrix queues. -/
  | mxMma (o : MmaOp)
  /-- MX_TRN (R291): Accepts a transpose command from a ring slot. -/
  | mxTrn (s : Fin 4) (a : CReg) (ah dh : Fin 1024) (mc nc : Fin 64) (fmt : Fin 32)
  /-- MX_SCALE (R292): Accepts a command that scales a tile in place. -/
  | mxScale (s : Fin 4) (a b : CReg) (mc nc : Fin 64)
  /-- MX_UPROG (R293): Validates and queues a microprogram image for a slot of the unit. -/
  | mxUprog (s : Fin 4) (b : CReg) (up : Fin 16)
  /-- MX_WAIT (R294): Waits until every earlier matrix command has ended, with acquire. -/
  | mxWait (s : Fin 4) (a : CReg)
  /-- MX_STAT (R295): Returns MXSTAT, optionally clearing its sticky bits. -/
  | mxStat (s : Fin 4) (a : CReg) (clr : Bool)
  /-- KN_LOAD (R312): Validates a rule image and loads it into the Tray's Kneader rule table. -/
  | knLoad (s : Fin 4) (b : CReg)
  /-- KN_CTL_RMASK (R313): Flushes the windows and sets the rule-enable mask. -/
  | knCtlRmask (s : Fin 4) (b : CReg)
  /-- KN_CTL_CMASK (R313): Flushes the windows and sets the core-window enable mask. -/
  | knCtlCmask (s : Fin 4) (b : CReg)
  /-- KN_CTL_CLR (R313): Flushes the windows and clears the Tray's Kneader counters. -/
  | knCtlClr (s : Fin 4)
  /-- KN_STAT_CORE (R314): Returns the core's rewrite and flush counts. -/
  | knStatCore (s : Fin 4) (a : CReg)
  /-- KN_STAT_RULE (R314): Returns the hit count and class of one rule. -/
  | knStatRule (s : Fin 4) (a b : CReg)
  /-- KN_STAT_CLASS (R314): Returns the core's applications per class and refusals. -/
  | knStatClass (s : Fin 4) (a : CReg)
  /-- BAR_ARRIVE (R320): Releases and arrives at the current generation of a domain barrier. -/
  | barArrive (s : Fin 4) (a : CReg) (lvl : Fin 8)
  /-- BAR_WAIT (R320): Waits for a barrier generation to complete, then acquires. -/
  | barWait (s : Fin 4) (b : CReg) (lvl : Fin 8)
  /-- BAR_SYNC (R320): Arrives and waits on the generation just arrived at. -/
  | barSync (s : Fin 4) (lvl : Fin 8)
  /-- BAR_TEST (R320): Tests without waiting whether a generation has completed. -/
  | barTest (s : Fin 4) (a b : CReg) (lvl : Fin 8)
  /-- WAKE (R327): Releases and ORs a mask into another hart's WAKEREG. -/
  | wake (s : Fin 4) (a b : CReg)
  /-- WFW (R327): Waits for masked WAKEREG bits, returns and clears them. -/
  | wfw (s : Fin 4) (a b : CReg)
  /-- DOM_SET (R323): Arrives at a gang-wide change of a domain level's membership. -/
  | domSet (s : Fin 4) (b : CReg) (lvl : Fin 8)
  /-- PHASE (R324): Reads a level's phase and binds or unbinds a slot table. -/
  | phase (s : Fin 4) (a b : CReg) (lvl : Fin 8)
  /-- SEND (R181): Checks a slot-scheduled send and transmits a vector payload in its slot. -/
  | send (s : Fin 4) (b : CReg) (vr : VReg) (lvl : Fin 4)
  /-- RECV (R326): Pops the oldest received payload, waiting while empty. -/
  | recv (s : Fin 4) (a : CReg) (vr : VReg)
  /-- TASK_SPAWN (R185): Adds a task record to a task queue, returning OK, SPILLED or FULL. -/
  | taskSpawn (s : Fin 4) (a b : CReg) (hrt : Fin 4) (own : Bool)
  /-- TASK_TAKE (R329): Waits for a dispensed task record or termination. -/
  | taskTake (s : Fin 4) (a : CReg) (q : QReg)
  /-- TASK_YIELD (R330): Requeues the held slice with its remaining budget. -/
  | taskYield (s : Fin 4) (a b : CReg)
  /-- TASK_DONE (R330): Ends the held slice and stops BUDGET. -/
  | taskDone (s : Fin 4)
  /-- TASK_EXIT (R330): Ends the slice, waits as FENCE.E and a drain, then halts the hart; the gang retires when all have halted. -/
  | taskExit (s : Fin 4)
  /-- LAUNCH (R331): Releases at SYSTEM scope and offers a launch record to the Distributor. -/
  | launch (s : Fin 4) (a b : CReg)
  /-- CTL_RD (R334): Reads a control register into c[A]. -/
  | ctlRd (s : Fin 4) (a : CReg) (num : Fin 4096)
  /-- CTL_WR (R334): Writes a control register that has no behaviour of its own, serialising. -/
  | ctlWr (s : Fin 4) (b : CReg) (num : Fin 4096)
  /-- SAFEPT (R342): Stops the hart for a pending preemption or migration, saving live state. -/
  | safept (s : Fin 4) (map : Fin 4096)
  /-- TRAP (R332): Raises TRAP_CALL with the immediate in EVAL. -/
  | trap (s : Fin 4) (imm : Fin 256)
  /-- BREAK (R332): Raises BREAKPOINT with the immediate in EVAL. -/
  | brk (s : Fin 4) (imm : Fin 256)
  /-- ERET (R333): Returns from a trap, restoring a nested K bank or the previous level. -/
  | eret (s : Fin 4)
  /-- WFI (R341): Waits until an asynchronous event is pending for the hart. -/
  | wfi (s : Fin 4)
  /-- TIME (R340): Reads the device time base into c[A]. -/
  | time (s : Fin 4) (a : CReg)
  /-- OPREQ (R345): Requests an operating-point step for the Tray. -/
  | opreq (s : Fin 4) (b : CReg)
  /-- MIGRATE (R346): Requests that a hart of the gang move to another core of its Hearth. -/
  | migrate (s : Fin 4) (a b : CReg)
  /-- PAIR_ON (R347): Rendezvous that couples two cores into one fingerprinted stream. -/
  | pairOn (s : Fin 4) (a : CReg)
  /-- PAIR_OFF (R347): Ends a paired stream after a final fingerprint exchange. -/
  | pairOff (s : Fin 4)
  /-- ERRINJ (R355): Plants one error of the kind the descriptor names. -/
  | errinj (s : Fin 4) (a b : CReg)
  /-- REPLAY_BEGIN (R352): Opens the first replay pass after resets. -/
  | replayBegin (s : Fin 4)
  /-- REPLAY_AGAIN (R352): Restores captured pages and opens the next pass. -/
  | replayAgain (s : Fin 4)
  /-- REPLAY_END (R352): Closes a pass and returns or compares its signature. -/
  | replayEnd (s : Fin 4) (a : CReg)
  /-- REPLAY_DONE (R352): Drops the capture and returns replay to IDLE. -/
  | replayDone (s : Fin 4)
  /-- CTX_SET (R344): Records the context's wake c3, ROUNDCTL and FLUSHCTL in the Distributor. -/
  | ctxSet (s : Fin 4) (b : CReg)
  /-- QBIND (R267): Binds a q-register to a matrix, token, copy, task or mailbox port. -/
  | qbind (s : Fin 4) (q : QReg) (b : CReg) (kind : Fin 16)
  /-- QUNBIND (R267): Unbinds a q-register without discarding queued work. -/
  | qunbind (s : Fin 4) (q : QReg)
  /-- QPOP (R268): Reads one value from a bound port, waiting while none is available. -/
  | qpop (s : Fin 4) (c : CReg) (q : QReg)
  /-- SBIND (R269): Binds a stream register to a pattern record as an engine operation. -/
  | sbind (s : Fin 4) (v : VReg) (b : CReg)
  /-- SUNBIND (R269): Ends a stream binding. -/
  | sunbind (s : Fin 4) (v : VReg)
  /-- ILLEGAL_INSTRUCTION (R196): A hart issues a head with major 0x1F or 0x3F, or an unassigned sub-function, and decode traps with no effect. -/
  | illegalInstruction (reason : Fin 5) (head : BitVec 16) (tail : BitVec 64)
  /-- TLBINV_ALL (R38): Write of TLBINV KIND 0: invalidates translations of all contexts module-wide. -/
  | tlbinvAll
  /-- TLBINV_CONTEXT (R38): Write of TLBINV KIND 1: invalidates one context's translations. -/
  | tlbinvContext (ctx : Nat)
  /-- TLBINV_PAGES (R38): Write of TLBINV KIND 2: invalidates a run of pages and blocks containing them. -/
  | tlbinvPages (ctx page count : Nat)
  /-- SHOOTDOWN_ACK (R39): A unit acknowledges an invalidate once its accesses under removed entries have completed. -/
  | shootdownAck (unit : Nat)
  /-- PTROOT_WRITE (R32): Sets the context's page-table root and invalidates as TLBINV KIND 1. -/
  | ptrootWrite (ctx : Nat) (v : Word)
  /-- L1RTVAL_WRITE (R19): Writes a region-table entry, retiring once all Hearths apply it. -/
  | l1rtvalWrite (ctx idx : Nat) (v : Word)
  /-- TQCFG_WRITE (R184): Configures a task queue, refused while it holds records. -/
  | tqcfgWrite (ctx hearth : Nat) (v : Word)
  /-- LDREQ_WRITE (R422): Asks the loader to publish the function of a code-heap line, retiring when done. -/
  | ldreqWrite (ctx : Nat) (line : Word)
  /-- WDMAP_WRITE (R387): Withdraws Trays from placement, or clears withdrawals from level F or the host. -/
  | wdmapWrite (atF : Bool) (v : BitVec 512)
  /-- ROLLCMD_WRITE (R392): Relaunches a poisoned rollback gang from its last snapshot. -/
  | rollcmdWrite (gang : Nat)
  /-- ERROR_BANK_ACK (R384): Acknowledges an error bank's records, or sets NACK when a newer record arrived. -/
  | errorBankAck (unit : Nat) (v : Word)
  /-- LINE_FETCH (R192): Fetches and translates a code line, checks publication and checks the whole line. -/
  | lineFetch (va : Word)
  /-- TRAP_ENTRY (R376): Takes a pending asynchronous cause at an allowed boundary, writing the target bank. -/
  | trapEntry
  /-- STORE_BUFFER_DRAIN (R89): The oldest store-buffer entry leaves toward its home, one entry per cycle. -/
  | storeBufferDrain (hart : Nat)
  /-- BANK_GRANT (R48): A bank's rotating arbiter grants one operation and performs it with its merged group. -/
  | bankGrant (hearth : Nat) (reqs : List BankReq)
  /-- REMOTE_RESPONSE (R60): A response or acknowledgement of a remote access arrives. -/
  | remoteResponse (hart n : Nat)
  /-- REMOTE_TIMEOUT (R60): A remote access is not answered within the RMTCTL limit. -/
  | remoteTimeout (hart n : Nat)
  /-- REMOTE_STORE_REFUSED (R60): A posted remote store is refused at the target by the range-lock check. -/
  | remoteStoreRefused (hart n : Nat)
  /-- RANGE_LOCK_ACTIVATE (R63): A range-lock or landing entry becomes active after earlier stores are performed. -/
  | rangeLockActivate (hearth entry : Nat)
  /-- FILTER_BIT_CLEAR (R63): A granule filter bit clears lazily after its last entry is removed. -/
  | filterBitClear (hearth row : Nat)
  /-- ENGINE_OP_BEGIN (R262): An engine operation at its queue head takes its slot and creates its entries. -/
  | engineOpBegin (hart : Nat)
  /-- ENGINE_PIECE_LAND (R112): An engine writes the next 64-byte destination piece in landing order. -/
  | enginePieceLand (opn part : Nat)
  /-- LANDING_COMPLETE (R123): A landing operation completes, its slot becoming FULL or DRAINING. -/
  | landingComplete (opn part : Nat)
  /-- BUFFER_FREE_MESSAGE (R127): A replicated slot release sends a combined message toward the root, incrementing MBOX. -/
  | bufferFreeMessage (hearth handle : Nat)
  /-- STREAM_REFILL (R128): A stream engine reads ahead a strip, or lands an appended strip. -/
  | streamRefill (hart : Nat) (v : VReg)
  /-- PAGE_WALK (R33): The walker walks the page tables for a TLB miss and installs or faults. -/
  | pageWalk (die ctx : Nat) (va : Word) (acc : AccKind)
  /-- L2_ACCESS (R75): An access is performed at its home slice bank. -/
  | l2Access (ch l n : Nat) (write far : Bool)
  /-- SECTOR_FILL (R75): A sector fill returns from HBM, possibly poisoned. -/
  | sectorFill (ch l : Nat) (poisoned : Bool)
  /-- REFRESH_SLOT (R82): A channel's refresh slot refreshes, postpones or forces refresh. -/
  | refreshSlot (ch : Nat)
  /-- ALL_BANK_REFRESH_START (R82): A forced all-bank refresh starts once pending reads have left. -/
  | allBankRefreshStart (ch : Nat)
  /-- REFRESH_END (R83): A refresh ends and waiting accesses proceed. -/
  | refreshEnd (ch : Nat)
  /-- KNEADER_ENTRY (R301): A command enters a Kneader window and one matching pass may rewrite the run. -/
  | kneaderEntry (hart : Nat)
  /-- KNEADER_AGE_FLUSH (R300): The oldest command reaches 64 cycles in the window and the window flushes. -/
  | kneaderAgeFlush (hart : Nat)
  /-- MX_DISPATCH (R286): A dispatchable command leaves for the array and claims its operand slots. -/
  | mxDispatch (hart : Nat)
  /-- TILE_STEP (R299): The Tray arbiter grants one tile step of a part over one K block. -/
  | tileStep (tray : Nat)
  /-- MX_RETIRE (R286): A command retires when all parts have written back, releasing slots and pushing a token. -/
  | mxRetire (hart : Nat)
  /-- MX_COMMAND_FAULT (R296): A command faulted after acceptance ends with writeback suppressed and a report. -/
  | mxCommandFault (hart : Nat)
  /-- BALLAST_STEP (R404): An idle matrix unit runs a ballast step to limit the current slope. -/
  | ballastStep (tray width : Nat)
  /-- DROOP_DETECT (R403): A droop detector fires and freezes FMA and tile steps for DROOPHOLD cycles. -/
  | droopDetect (tray : Nat)
  /-- DROOP_HOLD_END (R403): The droop hold count expires. -/
  | droopHoldEnd (tray : Nat)
  /-- OP_TRANSITION_END (R402): A 2,000 ns operating-point transition ends and GRANT changes. -/
  | opTransitionEnd (tray : Nat)
  /-- CAP_WINDOW_END (R405): The 1 ms power window ends and CAPSTEP and budget marks are updated. -/
  | capWindowEnd
  /-- PEER_THROTTLED (R407): A peer's THROTTLED advertisement arrives and bounds SLKSTEP. -/
  | peerThrottled (port step : Nat) (on : Bool)
  /-- TIMER (R340): TIME reaches TIMECMP and TIMER becomes pending. -/
  | timer (hart : Nat)
  /-- BUDGET_EXHAUSTED (R187): A slice's BUDGET counts down to zero. -/
  | budgetExhausted (hart : Nat)
  /-- THERMAL_WARN (R408): A Tray rises through 95 °C, is marked hot and warns its harts. -/
  | thermalWarn (tray temp : Nat)
  /-- THERMAL_CRIT (R408): A Tray rises through 105 °C; ceiling step 0 and a level-F cause. -/
  | thermalCrit (tray temp : Nat)
  /-- THERMAL_TRIP (R408): A Tray rises through 115 °C and the module stops. -/
  | thermalTrip (tray temp : Nat)
  /-- THERMAL_CLEAR (R408): A sensor falls below a clear threshold and the mark or ceiling clears. -/
  | thermalClear (tray temp : Nat)
  /-- EXTERNAL (R372): An external interrupt becomes pending. -/
  | external (hart : Nat)
  /-- BARRIER_COMPLETE (R178): A barrier generation completes, waking waiters and flipping the phase. -/
  | barrierComplete (gang lvl dom : Nat)
  /-- DOMAIN_REFORM (R323): Once every hart has executed DOM.SET, the level is re-formed or refused for all. -/
  | domainReform (gang lvl : Nat)
  /-- SEND_DELIVERY (R325): A sent payload arrives in the receiver's buffer. -/
  | sendDelivery (n : Nat)
  /-- WAKE_DELIVERY (R182): A WAKE's mask is ORed into the target's WAKEREG. -/
  | wakeDelivery (n : Nat)
  /-- DISPENSE_CYCLE (R186): Every 8 cycles a Hearth dispenser makes up to 16 matches of records to waiting harts. -/
  | dispenseCycle (hearth : Nat)
  /-- OPAL_TOKEN_PASS (R188): The Opal token passes from a waiting hart to the next LCORE. -/
  | opalTokenPass (gang : Nat)
  /-- PLACEMENT_SELECT (R359): The Distributor selects a candidate and plans its placement. -/
  | placementSelect
  /-- TRAY_RESERVE (R359): One Tray of the plan is reserved per cycle. -/
  | trayReserve
  /-- RESERVATION_RELEASE (R359): A higher-priority arrival releases every reservation of the transaction. -/
  | reservationRelease
  /-- PLACEMENT_COMMIT (R359): Barriers, placement map and identity registers are written and arguments copied or image restored. -/
  | placementCommit
  /-- WAKE_FLOOD (R173): The wake flood starts every hart of the placed gang. -/
  | wakeFlood
  /-- HART_STOP (R362): A hart of a stopping gang stops at a safe point and saves its state. -/
  | hartStop (hart : Nat)
  /-- FORCED_STOP (R364): No safe point within 100,000 ns: the hart is stopped at the next boundary. -/
  | forcedStop (hart : Nat)
  /-- GANG_SAVE (R366): Engines finish the gang's work, the image is written and the Trays are freed. -/
  | gangSave (gang : Nat)
  /-- MIGRATION (R371): A hart with a pending migration moves its state and near window to the target core. -/
  | migration (hart : Nat)
  /-- FINGERPRINT_EXCHANGE (R395): At an interval end the paired cores exchange fingerprints and commit or roll back. -/
  | fingerprintExchange (core : Nat)
  /-- ERROR_DETECTED (R379): A storage code detects a corrected or uncorrectable error. -/
  | errorDetected (unit : Nat) (e : ErrEvent)
  /-- GARNET_FLUSH (R386): Once per second the SRAM copy of the Garnet log is written to the store. -/
  | garnetFlush
  /-- ROLLBACK_RESTORE (R391): Once every hart has stopped, the undo log and snapshots are restored. -/
  | rollbackRestore (gang : Nat)
  /-- FUNCTION_PUBLISH (R420): The loader finishes copying a function and publishes all its lines at once. -/
  | functionPublish (ctx handle fn : Nat)
  /-- PEER_ACCESS (R58): A host or peer memory access enters at the target Hearth root or L2. -/
  | peerAccess (r : PeerReq)
  /-- CCP_LAUNCH (R412): A host LAUNCH frame queues a gang as LAUNCH does. -/
  | ccpLaunch (f : Frame) (lrec : BitVec 512)
  /-- CCP_COPY (R412): A host COPY frame moves bytes between the device and the host window. -/
  | ccpCopy (f : Frame) (dev off len : Nat) (toDevice : Bool)
  /-- CCP_MAP_BIND (R412): MAP SUB 0 binds a host-window page to a host buffer. -/
  | ccpMapBind (f : Frame) (page buffer : Nat)
  /-- CCP_MAP_SAVE_AREA (R360): MAP SUB 1 sets a context's save area. -/
  | ccpMapSaveArea (f : Frame) (base units : Nat)
  /-- CCP_MAP_CODE_HEAP (R412): MAP SUB 2 sets a context's code heap. -/
  | ccpMapCodeHeap (f : Frame) (va : Word) (pa lines : Nat)
  /-- CCP_MAP_COLLECTIVE (R407): MAP SUB 3 names a context's collective barrier. -/
  | ccpMapCollective (f : Frame) (bar : Nat)
  /-- CCP_MAP_DEVICE_INDEX (R412): MAP SUB 4 sets DEVCORE.DEV while no gang is placed. -/
  | ccpMapDeviceIndex (f : Frame) (dev : Nat)
  /-- CCP_LOAD (R418): A host LOAD frame loads a code object, or firmware in recovery. -/
  | ccpLoad (f : Frame) (obj : CodeImage)
  /-- CCP_UNLOAD (R423): A LOAD with empty body unloads text, deferred while images reference it. -/
  | ccpUnload (f : Frame) (handle : Nat) (forced : Bool)
  /-- CCP_QUERY (R412): A host QUERY frame reads banks, the log, link states, PWRSTAT or versions. -/
  | ccpQuery (f : Frame) (sub arg : Nat)
  /-- CCP_TIME_SET (R413): A TIME frame sets the time base before the first placement. -/
  | ccpTimeSet (f : Frame) (v : Word)
  /-- CCP_TIME_READ (R412): A TIME frame without value reads the time base. -/
  | ccpTimeRead (f : Frame)
  /-- SPDM_GET_VERSION (R417): An SPDM GET_VERSION request carried in ATTEST. -/
  | spdmGetVersion (f : Frame)
  /-- SPDM_GET_CAPABILITIES (R417): An SPDM GET_CAPABILITIES request. -/
  | spdmGetCapabilities (f : Frame)
  /-- SPDM_NEGOTIATE_ALGORITHMS (R417): An SPDM NEGOTIATE_ALGORITHMS request. -/
  | spdmNegotiateAlgorithms (f : Frame)
  /-- SPDM_GET_DIGESTS (R417): An SPDM GET_DIGESTS request. -/
  | spdmGetDigests (f : Frame)
  /-- SPDM_GET_CERTIFICATE (R417): An SPDM GET_CERTIFICATE request. -/
  | spdmGetCertificate (f : Frame)
  /-- SPDM_CHALLENGE (R417): An SPDM CHALLENGE answered with dual signatures. -/
  | spdmChallenge (f : Frame) (nonce : Nat)
  /-- SPDM_GET_MEASUREMENTS (R417): An SPDM GET_MEASUREMENTS answered with timestamped measurement blocks. -/
  | spdmGetMeasurements (f : Frame) (index nonce : Nat)
  /-- TIME_SYNC (R413): 802.1AS adjusts the time base by rate only. -/
  | timeSync (ppm : Int)
  /-- LINK_SIGNAL_DETECT (R415): Signal on at least 4 lanes moves a DOWN port to TRAIN. -/
  | linkSignalDetect (port lanes : Nat)
  /-- LINK_TRAIN_DONE (R415): Lane equalisation succeeds and the port negotiates. -/
  | linkTrainDone (port lanes : Nat)
  /-- LINK_TRAIN_FAIL (R415): Training fails or exceeds 100 ms and the port goes DOWN. -/
  | linkTrainFail (port : Nat)
  /-- LINK_RETRY (R415): The 1 ms retry delay after a failed training expires. -/
  | linkRetry (port : Nat)
  /-- LINK_NEGOTIATE (R415): Partners agree and go ACTIVE, or disagree and go DOWN with a record. -/
  | linkNegotiate (port : Nat) (agree : Bool)
  /-- LINK_DOWN (R415): Excess uncorrectable flits or loss of signal take an ACTIVE port DOWN. -/
  | linkDown (port : Nat)
  /-- RESET (R416): Reset starts the boot ROM, which verifies and loads the firmware image. -/
  | reset (img : BootImage)
  /-- SLOT_OPEN (R181): A SEND that issued before its slot opened proceeds when W + s × SLOTCYC is reached on the sender's clock. -/
  | slotOpen (hart : Nat)
  /-- POWER_FAILURE (R386): The supply fails, and Garnet counts not yet written from SRAM to the store are lost. -/
  | powerFailure
  /-- HOST_PORT_LINK_UP (R410): A host Ethernet port completes 400 Gb/s auto-negotiation and link training and carries traffic. -/
  | hostPortLinkUp (port : Nat)
  /-- HOST_PORT_LINK_DOWN (R410): A host Ethernet port loses its link. -/
  | hostPortLinkDown (port : Nat)
deriving DecidableEq, Repr

end Sys2Proof
end

