-- ==== Sys2Proof/WellFormed.lean ====
section
/-! DEFINITION. Which instructions have an encoding: the fields an instruction reserves or does not use are zero and every
value is one its rule admits. A breach is ILLEGAL_INSTRUCTION, REASON 2 (R196, R218, R245, R249, R253 to R256, R266,
R267, R270, R291, R293, R317). The operands of an event are bounded by the number of units the spec gives (R2). -/

namespace Sys2Proof

/-- The width in bits of one element of a format code (R131, R243), a blocked format taking its element code's width;
0 for an undefined code. -/
def fmtWidth (f : Nat) : Nat :=
  match f with
  | 0x00 => 8 | 0x01 => 8 | 0x02 => 16 | 0x03 => 32 | 0x04 => 64
  | 0x05 => 8 | 0x06 => 16 | 0x07 => 32 | 0x08 => 64
  | 0x09 => 32 | 0x0A => 64 | 0x0B => 4 | 0x0C => 4
  | 0x10 => 32 | 0x11 => 16 | 0x12 => 16 | 0x13 => 8 | 0x14 => 8
  | 0x15 => 4 | 0x16 => 8 | 0x17 => 32
  | _ => 0

/-- The real formats VCVT accepts (R256). -/
def cvtReal (f : Nat) : Bool := (0x01 ≤ f && f ≤ 0x08) || f == 0x0B || f == 0x0C || (0x10 ≤ f && f ≤ 0x14)

/-- The complex formats VCVT accepts (R256). -/
def cvtComplex (f : Nat) : Bool := f == 0x09 || f == 0x0A || f == 0x17

/-- The part number of a VCVT is in range, where each of the two formats is one that VCVT accepts in some pair (R256, R197; log 43). -/
def cvtPartOk (src dst p : Nat) : Bool :=
  if (cvtReal src || cvtComplex src) && (cvtReal dst || cvtComplex dst) then
    p < max (fmtWidth src) (fmtWidth dst) / min (fmtWidth src) (fmtWidth dst)
  else true

/-- MSK and AG are zero without a mask (R244). -/
def VOp.maskOk (o : VOp) : Bool := o.me || (o.msk == 0 && !o.ag)

/-- Head B is unused. -/
def VOp.noB (o : VOp) : Bool := o.b == 0
/-- The instruction is not a rounding one. -/
def VOp.noRnd (o : VOp) : Bool := o.rnd == 0
/-- VC is unused. -/
def VOp.noVc (o : VOp) : Bool := o.vc == 0
/-- VB is unused. -/
def VOp.noVb (o : VOp) : Bool := o.vb == 0
/-- VA is unused. -/
def VOp.noVa (o : VOp) : Bool := o.va == 0
/-- VD is unused. -/
def VOp.noVd (o : VOp) : Bool := o.vd == 0
/-- VC names a c-register. -/
def VOp.vcC (o : VOp) : Bool := o.vc.val < 16
/-- The instruction takes no mask. -/
def VOp.noMask (o : VOp) : Bool := !o.me

/-- Two vector sources, not rounding. -/
def VOp.two (o : VOp) : Bool := o.maskOk && o.noB && o.noRnd && o.noVc
/-- One vector source, not rounding. -/
def VOp.one (o : VOp) : Bool := o.two && o.noVb
/-- A shift by an immediate of VC, which lies below the element width (R249). -/
def VOp.shiftImm (o : VOp) : Bool :=
  o.maskOk && o.noB && o.noRnd && o.noVb && (fmtWidth o.fmt.val == 0 || o.vc.val < fmtWidth o.fmt.val)
/-- Two vector sources, rounding. -/
def VOp.twoR (o : VOp) : Bool := o.maskOk && o.noB && o.noVc
/-- One vector source, rounding. -/
def VOp.oneR (o : VOp) : Bool := o.twoR && o.noVb
/-- Three vector sources, rounding. -/
def VOp.threeR (o : VOp) : Bool := o.maskOk && o.noB
/-- A reduction (R255): B[3:1] is zero, and VC is zero unless B[0] = 1. -/
def VOp.red (o : VOp) : Bool := o.maskOk && o.b.val < 2 && (o.b.val == 1 || o.noVc) && o.noVb
/-- The offset of VLD and VST occupies VA and VB (R257). -/
def VOp.memOff (o : VOp) : Bool := o.maskOk && o.noRnd && o.noVc
/-- A strided access: VC names the c-register of the stride. -/
def VOp.memStride (o : VOp) : Bool := o.maskOk && o.noRnd && o.noVa && o.noVb && o.vcC
/-- An indexed access: VB is the index register. -/
def VOp.memIndex (o : VOp) : Bool := o.maskOk && o.noRnd && o.noVa && o.noVc
/-- A decoding load or encoding store: a rounding instruction (R260), VC names the index register. -/
def VOp.memBlock (o : VOp) : Bool := o.maskOk && o.noVa && o.noVb && o.vcC

/-- The copy tail: the reserved XF and DIM codes, and META, which is 0 when XF = 0 (R111, R129, R270). -/
def CopyOp.ok (o : CopyOp) : Bool := o.xf.val < 3 && o.dim.val < 3 && (o.xf != 0 || o.metaReg == 0)

/-- An instruction is well formed: its encoding holds no nonzero reserved or unused field and no invalid code. -/
def Instr.wf (i : Instr) : Bool :=
  match i with
  | .addCompact _ _ _ => true
  | .subCompact _ _ _ => true
  | .andCompact _ _ _ => true
  | .orCompact _ _ _ => true
  | .xorCompact _ _ _ => true
  | .mov _ _ _ => true
  | .mulCompact _ _ _ => true
  | .shlCompact _ _ _ => true
  | .add _ _ _ _ => true
  | .sub _ _ _ _ => true
  | .and _ _ _ _ => true
  | .or _ _ _ _ => true
  | .xor _ _ _ _ => true
  | .andn _ _ _ _ => true
  | .shl _ _ _ _ => true
  | .shr _ _ _ _ => true
  | .sar _ _ _ _ => true
  | .ror _ _ _ _ => true
  | .mul _ _ _ _ => true
  | .mulh _ _ _ _ => true
  | .mulhu _ _ _ _ => true
  | .mulhsu _ _ _ _ => true
  | .div _ _ _ _ => true
  | .divu _ _ _ _ => true
  | .rem _ _ _ _ => true
  | .remu _ _ _ _ => true
  | .min _ _ _ _ => true
  | .max _ _ _ _ => true
  | .minu _ _ _ _ => true
  | .maxu _ _ _ _ => true
  | .seq _ _ _ _ => true
  | .sne _ _ _ _ => true
  | .slt _ _ _ _ => true
  | .sltu _ _ _ _ => true
  | .selnz _ _ _ _ => true
  | .selz _ _ _ _ => true
  | .clz _ _ _ => true
  | .ctz _ _ _ => true
  | .popc _ _ _ => true
  | .bswap _ _ _ => true
  | .li16 _ _ _ => true
  | .li32 _ _ _ => true
  | .li64 _ _ _ => true
  | .addi16 _ _ _ _ => true
  | .addi32 _ _ _ _ => true
  | .caddReg _ _ _ _ => true
  | .cadd16 _ _ _ _ => true
  | .cadd32 _ _ _ _ => true
  | .ld _ _ _ _ _ _ => true
  | .st _ _ _ _ sz _ => sz.val == 0 || sz.val == 2 || sz.val == 4 || 6 ≤ sz.val
  | .ldFar _ _ _ _ _ _ => true
  | .stFar _ _ _ _ sz _ => sz.val == 0 || sz.val == 2 || sz.val == 4 || 6 ≤ sz.val
  | .amoAdd _ _ _ _ _ => true
  | .amoAnd _ _ _ _ _ => true
  | .amoOr _ _ _ _ _ => true
  | .amoXor _ _ _ _ _ => true
  | .amoSmin _ _ _ _ _ => true
  | .amoSmax _ _ _ _ _ => true
  | .amoUmin _ _ _ _ _ => true
  | .amoUmax _ _ _ _ _ => true
  | .amoSwap _ _ _ _ _ => true
  | .amoCadd _ _ _ _ _ => true
  | .amoBadd _ _ _ _ _ => true
  | .cas _ _ _ _ _ => true
  | .fence _ _ _ => true
  | .fenceE _ => true
  | .fenceI _ => true
  | .beq _ _ _ _ _ => true
  | .bne _ _ _ _ _ => true
  | .blt _ _ _ _ _ => true
  | .bge _ _ _ _ _ => true
  | .bltu _ _ _ _ _ => true
  | .bgeu _ _ _ _ _ => true
  | .jal _ _ _ _ => true
  | .jr _ _ _ => true
  | .brTok _ _ => true
  | .cnarrow _ _ _ _ => true
  | .cnarrowX _ _ _ _ => true
  | .cdrop _ _ _ _ => true
  | .cfmt _ _ _ _ _ => true
  | .creadBase _ _ _ => true
  | .creadTop _ _ _ => true
  | .creadLen _ _ _ => true
  | .creadPerm _ _ _ => true
  | .creadFmt _ _ _ => true
  | .creadBlog _ _ _ => true
  | .creadTag _ _ _ => true
  | .creadShut _ _ _ => true
  | .creadMeta _ _ _ => true
  | .cshut _ _ _ => true
  | .copen _ _ _ => true
  | .cmint _ _ _ => true
  | .cclone _ _ _ => true
  | .cwithin _ _ _ _ => true
  | .vadd o => o.two
  | .vsub o => o.two
  | .vmul o => o.two
  | .vmulh o => o.two
  | .vmin o => o.two
  | .vmax o => o.two
  | .vabs o => o.one
  | .vneg o => o.one
  | .vaddSat o => o.two
  | .vsubSat o => o.two
  | .vabsSat o => o.one
  | .vand o => o.two
  | .vor o => o.two
  | .vxor o => o.two
  | .vandn o => o.two
  | .vshl o => o.two
  | .vshr o => o.two
  | .vsar o => o.two
  | .vshli o => o.shiftImm
  | .vshri o => o.shiftImm
  | .vsari o => o.shiftImm
  | .vfadd o => o.twoR
  | .vfsub o => o.twoR
  | .vfmul o => o.twoR
  | .vfmin o => o.twoR
  | .vfmax o => o.twoR
  | .vfabs o => o.one
  | .vfneg o => o.one
  | .vfdiv o => o.twoR
  | .vfsqrt o => o.oneR
  | .vfma o => o.threeR
  | .vfms o => o.threeR
  | .vfnma o => o.threeR
  | .vcmul o => o.twoR
  | .vcmac o => o.threeR
  | .vcmulj o => o.twoR
  | .vcmacj o => o.threeR
  | .vcconj o => o.oneR
  | .vcmpEq o => o.two
  | .vcmpNe o => o.two
  | .vcmpLt o => o.two
  | .vcmpLe o => o.two
  | .vsel o => o.noMask && o.maskOk && o.noB && o.noRnd && o.vc.val < 8
  | .vmov o => o.one
  | .vsplat o => o.maskOk && o.noRnd && o.noVa && o.noVb && o.noVc
  | .vext o => o.noMask && o.maskOk && o.noRnd && o.noVb && o.noVd && o.vcC
  | .vins o => o.noMask && o.maskOk && o.noRnd && o.noVa && o.noVb && o.vcC
  | .vperm o => o.two
  | .vshuf o => o.maskOk && o.noB && o.noRnd
  | .vslide o => o.maskOk && o.noRnd && o.noVc
  | .vmpopc o => o.maskOk && o.noB && o.noRnd && o.noVb && o.noVd && o.vcC
  | .vmfirst o => o.maskOk && o.noB && o.noRnd && o.noVb && o.noVd && o.vcC
  | .vredsum o => o.red && o.noRnd
  | .vredmin o => o.red && o.noRnd
  | .vredmax o => o.red && o.noRnd
  | .vredand o => o.red && o.noRnd
  | .vredor o => o.red && o.noRnd
  | .vredxor o => o.red && o.noRnd
  | .vfredsum o => o.red
  | .vfredmin o => o.red && o.noRnd
  | .vfredmax o => o.red && o.noRnd
  | .vcvt o => o.maskOk && o.noVb && cvtPartOk o.fmt.val o.vc.val o.b.val
  | .vld o => o.memOff
  | .vst o => o.memOff
  | .vlds o => o.memStride
  | .vsts o => o.memStride
  | .vldx o => o.memIndex
  | .vstx o => o.memIndex
  | .vldDec o => o.memBlock
  | .vstEnc o => o.memBlock && o.noMask
  | .cpCopy o => o.ok
  | .cpMcast o => o.ok
  | .cpWm _ _ _ => true
  | .cpResume _ _ => true
  | .cpAbort _ _ => true
  | .btAlloc _ _ _ _ => true
  | .btFree _ _ => true
  | .btWaitf _ _ _ => true
  | .btRel _ _ => true
  | .btStat _ _ _ => true
  | .tileDecl _ _ _ => true
  | .tileUndecl _ _ => true
  | .tileChk _ _ => true
  | .tileFix _ _ => true
  | .mxMma _ => true
  | .mxTrn _ a _ dh _ _ _ => dh.val == 0x3FF || a == 0
  | .mxScale _ _ _ _ _ => true
  | .mxUprog _ _ up => up != 0
  | .mxWait _ _ => true
  | .mxStat _ _ _ => true
  | .knLoad _ _ => true
  | .knCtlRmask _ _ => true
  | .knCtlCmask _ _ => true
  | .knCtlClr _ => true
  | .knStatCore _ _ => true
  | .knStatRule _ _ _ => true
  | .knStatClass _ _ => true
  | .barArrive _ _ lvl => lvl.val ≤ 4
  | .barWait _ _ lvl => lvl.val ≤ 4
  | .barSync _ lvl => lvl.val ≤ 4
  | .barTest _ _ _ lvl => lvl.val ≤ 4
  | .wake _ _ _ => true
  | .wfw _ _ _ => true
  | .domSet _ _ lvl => lvl.val ≤ 3
  | .phase _ _ _ lvl => lvl.val ≤ 3
  | .send _ _ _ _ => true
  | .recv _ _ _ => true
  | .taskSpawn _ _ _ hrt own => !own || hrt == 0
  | .taskTake _ _ _ => true
  | .taskYield _ _ _ => true
  | .taskDone _ => true
  | .taskExit _ => true
  | .launch _ _ _ => true
  | .ctlRd _ _ _ => true
  | .ctlWr _ _ _ => true
  | .safept _ _ => true
  | .trap _ _ => true
  | .brk _ _ => true
  | .eret _ => true
  | .wfi _ => true
  | .time _ _ => true
  | .opreq _ _ => true
  | .migrate _ _ _ => true
  | .pairOn _ _ => true
  | .pairOff _ => true
  | .errinj _ _ _ => true
  | .replayBegin _ => true
  | .replayAgain _ => true
  | .replayEnd _ _ => true
  | .replayDone _ => true
  | .ctxSet _ _ => true
  | .qbind _ _ b kind => kind.val ≤ 4 && (3 ≤ kind.val || b == 0)
  | .qunbind _ _ => true
  | .qpop _ _ _ => true
  | .sbind _ v _ => 24 ≤ v.val
  | .sunbind _ v => 24 ≤ v.val
  | .tlbinvAll => true
  | .tlbinvContext _ => true
  | .tlbinvPages _ _ _ => true
  | .shootdownAck _ => true
  | .ptrootWrite _ _ => true
  | .l1rtvalWrite _ _ _ => true
  | .tqcfgWrite _ _ _ => true
  | .ldreqWrite _ _ => true
  | .wdmapWrite _ _ => true
  | .rollcmdWrite _ => true
  | .errorBankAck _ _ => true
  | .lineFetch _ => true
  | .trapEntry => true
  | .storeBufferDrain _ => true
  | .bankGrant _ _ => true
  | .remoteResponse _ _ => true
  | .remoteTimeout _ _ => true
  | .remoteStoreRefused _ _ => true
  | .rangeLockActivate _ _ => true
  | .filterBitClear _ _ => true
  | .engineOpBegin _ => true
  | .enginePieceLand _ _ => true
  | .landingComplete _ _ => true
  | .bufferFreeMessage _ _ => true
  | .streamRefill _ _ => true
  | .pageWalk _ _ _ _ => true
  | .l2Access _ _ _ _ _ => true
  | .sectorFill _ _ _ => true
  | .refreshSlot _ => true
  | .allBankRefreshStart _ => true
  | .refreshEnd _ => true
  | .kneaderEntry _ => true
  | .kneaderAgeFlush _ => true
  | .mxDispatch _ => true
  | .tileStep _ => true
  | .mxRetire _ => true
  | .mxCommandFault _ => true
  | .ballastStep _ _ => true
  | .droopDetect _ => true
  | .droopHoldEnd _ => true
  | .opTransitionEnd _ => true
  | .capWindowEnd => true
  | .peerThrottled _ _ _ => true
  | .timer _ => true
  | .budgetExhausted _ => true
  | .thermalWarn _ _ => true
  | .thermalCrit _ _ => true
  | .thermalTrip _ _ => true
  | .thermalClear _ _ => true
  | .external _ => true
  | .barrierComplete _ _ _ => true
  | .domainReform _ _ => true
  | .sendDelivery _ => true
  | .wakeDelivery _ => true
  | .dispenseCycle _ => true
  | .opalTokenPass _ => true
  | .placementSelect => true
  | .trayReserve => true
  | .reservationRelease => true
  | .placementCommit => true
  | .wakeFlood => true
  | .hartStop _ => true
  | .forcedStop _ => true
  | .gangSave _ => true
  | .migration _ => true
  | .fingerprintExchange _ => true
  | .errorDetected _ _ => true
  | .garnetFlush => true
  | .rollbackRestore _ => true
  | .functionPublish _ _ _ => true
  | .peerAccess _ => true
  | .ccpLaunch _ _ => true
  | .ccpCopy _ _ _ _ _ => true
  | .ccpMapBind _ _ _ => true
  | .ccpMapSaveArea _ _ _ => true
  | .ccpMapCodeHeap _ _ _ _ => true
  | .ccpMapCollective _ _ => true
  | .ccpMapDeviceIndex _ _ => true
  | .ccpLoad _ _ => true
  | .ccpUnload _ _ _ => true
  | .ccpQuery _ _ _ => true
  | .ccpTimeSet _ _ => true
  | .ccpTimeRead _ => true
  | .spdmGetVersion _ => true
  | .spdmGetCapabilities _ => true
  | .spdmNegotiateAlgorithms _ => true
  | .spdmGetDigests _ => true
  | .spdmGetCertificate _ => true
  | .spdmChallenge _ _ => true
  | .spdmGetMeasurements _ _ _ => true
  | .timeSync _ => true
  | .linkSignalDetect _ _ => true
  | .linkTrainDone _ _ => true
  | .linkTrainFail _ => true
  | .linkRetry _ => true
  | .linkNegotiate _ _ => true
  | .linkDown _ => true
  | .reset _ => true
  | .illegalInstruction _ _ _ => true
  | .slotOpen _ => true
  | .powerFailure => true
  | .hostPortLinkUp _ => true
  | .hostPortLinkDown _ => true

end Sys2Proof
end

