-- ==== Sys2Proof/Decode.lean ====
section
/-! DEFINITION. Code lines and instruction words: the checks of a line (spec 09 R190 to R193), the decoder (R195, R196)
and, after it, the encoder, both written from the encoding tables of spec 09 to 14. -/

namespace Sys2Proof

/-- TailLen (R191, R195): the halfwords of tail of a major opcode. -/
def tailLen (major : Nat) : Nat :=
  if major < 0x08 then 0
  else if major = 0x11 ∨ major = 0x14 ∨ major = 0x17 ∨ major = 0x26 then 2
  else if major = 0x12 then 4
  else if major < 0x30 then 1
  else if major < 0x3A then 2
  else if major < 0x3C then 4
  else if major < 0x3F then 1
  else 0

/-- Halfword k of a 64-byte line, the line read as one little-endian number (R190). -/
def lineHalf (line k : Nat) : Nat := bits line (16 * k + 15) (16 * k)

/-- The head count of a line (R190). -/
def lineHC (line : Nat) : Nat := bits (lineHalf line 0) 4 0

/-- The tail lengths of heads 1 to n, summed (R191). -/
def tailSum (line : Nat) : Nat → Nat
  | 0 => 0
  | n + 1 => tailSum line n + tailLen (bits (lineHalf line (n + 1)) 13 8)

/-- TailStart of head i (R191). -/
def tailStart (line i : Nat) : Nat := 32 - tailSum line i

/-- CheckLine (R192): the lowest REASON with which the line is illegal, if any. -/
def checkLine (line : Nat) : Option Nat :=
  let hc := lineHC line
  let t := tailSum line hc
  if bits (lineHalf line 0) 15 5 ≠ 0 ∨ hc = 0 then some 0
  else if 1 + hc + t > 32 then some 1
  else if (List.range 32).any (fun h => decide (hc < h) && decide (h + t < 32) && decide (lineHalf line h ≠ 0)) then some 2
  else none

/-- The head at head index i of a line and its tail, lower halfwords less significant (R191). -/
def lineInsn (line i : Nat) : Nat × Nat :=
  let head := lineHalf line i
  let n := tailLen (bits head 13 8)
  (head, if n = 0 then 0 else bits line (16 * tailStart line i + 16 * n - 1) (16 * tailStart line i))

/-- A program counter names a head of a line with head count hc (R193). -/
def pcNamesHead (pc hc : Nat) : Bool := pc % 2 == 0 && 1 ≤ pc / 2 % 32 && pc / 2 % 32 ≤ hc

/-- The next sequential instruction after the head at pc in a line with head count hc (R193). -/
def nextPc (pc : Word) (hc : Nat) : Word :=
  if pc.toNat / 2 % 32 < hc then pc + 2 else (pc &&& ~~~(0x3F#64)) + 64 + 2

/-- Target (R193): the line displacement and head index of a branch at pc. -/
def branchTarget (pc : Word) (disp : Word) (idx : Nat) : Word := (pc &&& ~~~(0x3F#64)) + disp * 64 + w64 (2 * idx)

/-- A head and a tail taken apart (R194). -/
structure Raw where
  s : Nat
  maj : Nat
  a : Nat
  b : Nat
  tail : Nat
deriving DecidableEq, Repr

/-- The fields of a head with its tail. -/
def Raw.ofWords (head tail : Nat) : Raw := { s := bits head 15 14, maj := bits head 13 8, a := bits head 7 4, b := bits head 3 0, tail := tail }

/-- The head of its fields (R194). -/
def Raw.head (r : Raw) : Nat := r.s * 0x4000 + r.maj * 0x100 + r.a * 0x10 + r.b

/-- A field value as a bounded number. -/
def fin (n : Nat) [NeZero n] (x : Nat) : Fin n := Fin.ofNat n x

/-- A register tail (R210). -/
def regTail (func c : Nat) : Nat := func * 0x10 + c

/-- A load or store tail (R208). -/
def memTail (ord : Bool) (sz : Fin 8) (off : BitVec 12) : Nat := b2n ord * 0x8000 + sz.val * 0x1000 + off.toNat

/-- An AMO or CAS tail (R235). -/
def amoTail (op : Nat) (w : Bool) (c : CReg) : Nat := op * 0x1000 + b2n w * 0x800 + c.val

/-- A vector tail (R211). -/
def vecTail (o : VOp) : Nat :=
  o.rnd.val * 0x40000000 + o.fmt.val * 0x2000000 + b2n o.ag * 0x1000000 + b2n o.me * 0x800000 + o.msk.val * 0x100000
    + o.vc.val * 0x8000 + o.vb.val * 0x400 + o.va.val * 0x20 + o.vd.val

/-- The vector operands of a head and tail (R211, R245). -/
def vecOp (r : Raw) : VOp where
  s := fin 4 r.s
  b := fin 16 r.b
  rnd := fin 4 (bits r.tail 31 30)
  fmt := fin 32 (bits r.tail 29 25)
  ag := bit r.tail 24 == 1
  me := bit r.tail 23 == 1
  msk := fin 8 (bits r.tail 22 20)
  vc := fin 32 (bits r.tail 19 15)
  vb := fin 32 (bits r.tail 14 10)
  va := fin 32 (bits r.tail 9 5)
  vd := fin 32 (bits r.tail 4 0)

/-- A copy tail (R212). -/
def copyTail (o : CopyOp) (mc : Nat) : Nat :=
  o.metaReg.val * 0x100000 + mc * 0x80000 + b2n o.fac * 0x40000 + o.xf.val * 0x10000 + o.dim.val * 0x4000 + o.dh.val * 0x10
    + o.len.val

/-- The copy operands of a head and tail (R212). -/
def copyOp (r : Raw) : CopyOp where
  s := fin 4 r.s
  a := fin 16 r.a
  b := fin 16 r.b
  metaReg := fin 16 (bits r.tail 23 20)
  fac := bit r.tail 18 == 1
  xf := fin 4 (bits r.tail 17 16)
  dim := fin 4 (bits r.tail 15 14)
  dh := fin 1024 (bits r.tail 13 4)
  len := fin 16 (bits r.tail 3 0)

/-- The tail of MX.MMA (R213). -/
def mmaTail (o : MmaOp) : Nat :=
  b2n o.kpReassoc * 0x2000000000000000 + b2n o.kpRound * 0x1000000000000000 + b2n o.tok * 0x800000000000000
    + b2n o.sp * 0x400000000000000 + b2n o.fc * 0x200000000000000 + b2n o.acc * 0x100000000000000
    + b2n o.tb * 0x80000000000000 + b2n o.ta * 0x40000000000000 + o.up.val * 0x4000000000000 + o.bfmt.val * 0x200000000000
    + o.afmt.val * 0x10000000000 + o.kc.val * 0x100000000 + o.nc.val * 0x4000000 + o.mc.val * 0x100000 + o.bh.val * 0x400
    + o.ah.val

/-- The operands of MX.MMA (R213). -/
def mmaOp (r : Raw) : MmaOp where
  s := fin 4 r.s
  a := fin 16 r.a
  b := fin 16 r.b
  kpReassoc := bit r.tail 61 == 1
  kpRound := bit r.tail 60 == 1
  tok := bit r.tail 59 == 1
  sp := bit r.tail 58 == 1
  fc := bit r.tail 57 == 1
  acc := bit r.tail 56 == 1
  tb := bit r.tail 55 == 1
  ta := bit r.tail 54 == 1
  up := fin 16 (bits r.tail 53 50)
  bfmt := fin 32 (bits r.tail 49 45)
  afmt := fin 32 (bits r.tail 44 40)
  kc := fin 256 (bits r.tail 39 32)
  nc := fin 64 (bits r.tail 31 26)
  mc := fin 64 (bits r.tail 25 20)
  bh := fin 1024 (bits r.tail 19 10)
  ah := fin 1024 (bits r.tail 9 0)

/-- The sub-functions of the register-tail families 0x08 to 0x0F, 0x15 and 0x28 to 0x2F (R220, R223, R224). -/
def pickReg (maj func : Nat) (s : Fin 4) (a b c : CReg) : Option Instr :=
  match maj, func with
  | 0x08, 0 => some (.add s a b c)
  | 0x08, 1 => some (.sub s a b c)
  | 0x08, 2 => some (.and s a b c)
  | 0x08, 3 => some (.or s a b c)
  | 0x08, 4 => some (.xor s a b c)
  | 0x08, 5 => some (.andn s a b c)
  | 0x09, 0 => some (.shl s a b c)
  | 0x09, 1 => some (.shr s a b c)
  | 0x09, 2 => some (.sar s a b c)
  | 0x09, 3 => some (.ror s a b c)
  | 0x0A, 0 => some (.mul s a b c)
  | 0x0A, 1 => some (.mulh s a b c)
  | 0x0A, 2 => some (.mulhu s a b c)
  | 0x0A, 3 => some (.mulhsu s a b c)
  | 0x0B, 0 => some (.div s a b c)
  | 0x0B, 1 => some (.divu s a b c)
  | 0x0B, 2 => some (.rem s a b c)
  | 0x0B, 3 => some (.remu s a b c)
  | 0x0C, 0 => some (.min s a b c)
  | 0x0C, 1 => some (.max s a b c)
  | 0x0C, 2 => some (.minu s a b c)
  | 0x0C, 3 => some (.maxu s a b c)
  | 0x0D, 0 => some (.seq s a b c)
  | 0x0D, 1 => some (.sne s a b c)
  | 0x0D, 2 => some (.slt s a b c)
  | 0x0D, 3 => some (.sltu s a b c)
  | 0x0E, 0 => some (.selnz s a b c)
  | 0x0E, 1 => some (.selz s a b c)
  | 0x0F, 0 => some (.clz s a b)
  | 0x0F, 1 => some (.ctz s a b)
  | 0x0F, 2 => some (.popc s a b)
  | 0x0F, 3 => some (.bswap s a b)
  | 0x15, 0 => some (.caddReg s a b c)
  | 0x28, 0 => some (.cnarrow s a b c)
  | 0x28, 1 => some (.cnarrowX s a b c)
  | 0x29, 0 => some (.cdrop s a b c)
  | 0x2B, 0 => some (.creadBase s a b)
  | 0x2B, 1 => some (.creadTop s a b)
  | 0x2B, 2 => some (.creadLen s a b)
  | 0x2B, 3 => some (.creadPerm s a b)
  | 0x2B, 4 => some (.creadFmt s a b)
  | 0x2B, 5 => some (.creadBlog s a b)
  | 0x2B, 6 => some (.creadTag s a b)
  | 0x2B, 7 => some (.creadShut s a b)
  | 0x2B, 8 => some (.creadMeta s a b)
  | 0x2C, 0 => some (.cshut s a b)
  | 0x2C, 1 => some (.copen s a b)
  | 0x2D, 0 => some (.cmint s a b)
  | 0x2E, 0 => some (.cclone s a b)
  | 0x2F, 0 => some (.cwithin s a b c)
  | _, _ => none

/-- The vector sub-functions of majors 0x30 to 0x37 (R248 to R257). -/
def pickVec (maj func : Nat) (o : VOp) : Option Instr :=
  match maj, func with
  | 0x30, 0 => some (.vadd o)
  | 0x30, 1 => some (.vsub o)
  | 0x30, 2 => some (.vmul o)
  | 0x30, 3 => some (.vmulh o)
  | 0x30, 4 => some (.vmin o)
  | 0x30, 5 => some (.vmax o)
  | 0x30, 6 => some (.vabs o)
  | 0x30, 7 => some (.vneg o)
  | 0x30, 8 => some (.vaddSat o)
  | 0x30, 9 => some (.vsubSat o)
  | 0x30, 10 => some (.vabsSat o)
  | 0x31, 0 => some (.vand o)
  | 0x31, 1 => some (.vor o)
  | 0x31, 2 => some (.vxor o)
  | 0x31, 3 => some (.vandn o)
  | 0x31, 4 => some (.vshl o)
  | 0x31, 5 => some (.vshr o)
  | 0x31, 6 => some (.vsar o)
  | 0x31, 7 => some (.vshli o)
  | 0x31, 8 => some (.vshri o)
  | 0x31, 9 => some (.vsari o)
  | 0x32, 0 => some (.vfadd o)
  | 0x32, 1 => some (.vfsub o)
  | 0x32, 2 => some (.vfmul o)
  | 0x32, 3 => some (.vfmin o)
  | 0x32, 4 => some (.vfmax o)
  | 0x32, 5 => some (.vfabs o)
  | 0x32, 6 => some (.vfneg o)
  | 0x32, 7 => some (.vfdiv o)
  | 0x32, 8 => some (.vfsqrt o)
  | 0x32, 9 => some (.vfma o)
  | 0x32, 10 => some (.vfms o)
  | 0x32, 11 => some (.vfnma o)
  | 0x33, 0 => some (.vcmul o)
  | 0x33, 1 => some (.vcmac o)
  | 0x33, 2 => some (.vcmulj o)
  | 0x33, 3 => some (.vcmacj o)
  | 0x33, 4 => some (.vcconj o)
  | 0x34, 0 => some (.vcmpEq o)
  | 0x34, 1 => some (.vcmpNe o)
  | 0x34, 2 => some (.vcmpLt o)
  | 0x34, 3 => some (.vcmpLe o)
  | 0x34, 4 => some (.vsel o)
  | 0x35, 0 => some (.vmov o)
  | 0x35, 1 => some (.vsplat o)
  | 0x35, 2 => some (.vext o)
  | 0x35, 3 => some (.vins o)
  | 0x35, 4 => some (.vperm o)
  | 0x35, 5 => some (.vshuf o)
  | 0x35, 6 => some (.vslide o)
  | 0x35, 7 => some (.vmpopc o)
  | 0x35, 8 => some (.vmfirst o)
  | 0x36, 0 => some (.vredsum o)
  | 0x36, 1 => some (.vredmin o)
  | 0x36, 2 => some (.vredmax o)
  | 0x36, 3 => some (.vredand o)
  | 0x36, 4 => some (.vredor o)
  | 0x36, 5 => some (.vredxor o)
  | 0x36, 6 => some (.vfredsum o)
  | 0x36, 7 => some (.vfredmin o)
  | 0x36, 8 => some (.vfredmax o)
  | 0x36, 9 => some (.vcvt o)
  | 0x37, 0 => some (.vld o)
  | 0x37, 1 => some (.vst o)
  | 0x37, 2 => some (.vlds o)
  | 0x37, 3 => some (.vsts o)
  | 0x37, 4 => some (.vldx o)
  | 0x37, 5 => some (.vstx o)
  | 0x37, 6 => some (.vldDec o)
  | 0x37, 7 => some (.vstEnc o)
  | _, _ => none

/-- The AMO operations (R53, R235). -/
def pickAmo (op : Nat) (s : Fin 4) (a b : CReg) (w : Bool) (c : CReg) : Option Instr :=
  match op with
  | 0 => some (.amoAdd s a b w c)
  | 1 => some (.amoAnd s a b w c)
  | 2 => some (.amoOr s a b w c)
  | 3 => some (.amoXor s a b w c)
  | 4 => some (.amoSmin s a b w c)
  | 5 => some (.amoSmax s a b w c)
  | 6 => some (.amoUmin s a b w c)
  | 7 => some (.amoUmax s a b w c)
  | 8 => some (.amoSwap s a b w c)
  | 9 => some (.amoCadd s a b w c)
  | 10 => some (.amoBadd s a b w c)
  | _ => none

/-- Buffer-table and tile sub-functions (R276). -/
def pickBuf (func : Nat) (s : Fin 4) (a b : CReg) (hrt : Fin 4) : Option Instr :=
  match func with
  | 0 => some (.btAlloc s a b hrt)
  | 1 => some (.btFree s b)
  | 2 => some (.btWaitf s a b)
  | 3 => some (.btRel s b)
  | 4 => some (.btStat s a b)
  | 5 => some (.tileDecl s a b)
  | 6 => some (.tileUndecl s b)
  | 7 => some (.tileChk s b)
  | 8 => some (.tileFix s b)
  | _ => none

/-- The copy sub-functions (R212, R270). -/
def pickCopy (r : Raw) : Option Instr :=
  match bits r.tail 31 24 with
  | 0 => some (if bit r.tail 19 = 1 then .cpMcast (copyOp r) else .cpCopy (copyOp r))
  | 1 => some (.cpWm (fin 4 r.s) (fin 16 r.a) (fin 16 r.b))
  | 2 => some (.cpResume (fin 4 r.s) (fin 16 r.b))
  | 3 => some (.cpAbort (fin 4 r.s) (fin 16 r.b))
  | _ => none

/-- The matrix sub-functions (R280, R291 to R295). -/
def pickMx (r : Raw) : Option Instr :=
  match bits r.tail 63 62, bits r.tail 61 56 with
  | 0, _ => some (.mxMma (mmaOp r))
  | 1, 0 => some (.mxTrn (fin 4 r.s) (fin 16 r.a) (fin 1024 (bits r.tail 9 0)) (fin 1024 (bits r.tail 19 10)) (fin 64 (bits r.tail 25 20)) (fin 64 (bits r.tail 31 26)) (fin 32 (bits r.tail 44 40)))
  | 1, 1 => some (.mxScale (fin 4 r.s) (fin 16 r.a) (fin 16 r.b) (fin 64 (bits r.tail 25 20)) (fin 64 (bits r.tail 31 26)))
  | 1, 2 => some (.mxUprog (fin 4 r.s) (fin 16 r.b) (fin 16 (bits r.tail 53 50)))
  | 1, 3 => some (.mxWait (fin 4 r.s) (fin 16 r.a))
  | 1, 4 => some (.mxStat (fin 4 r.s) (fin 16 r.a) (bit r.tail 0 == 1))
  | _, _ => none

/-- The Kneader sub-functions: FUNC in bits [63:56], SUB in bits [3:0] (R311). A SUB outside the table is REASON 2, so
the instruction named is the one whose re-encoding differs. -/
def pickKn (r : Raw) : Option Instr :=
  match bits r.tail 63 56, bits r.tail 3 0 with
  | 0, _ => some (.knLoad (fin 4 r.s) (fin 16 r.b))
  | 1, 0 => some (.knCtlRmask (fin 4 r.s) (fin 16 r.b))
  | 1, 1 => some (.knCtlCmask (fin 4 r.s) (fin 16 r.b))
  | 1, _ => some (.knCtlClr (fin 4 r.s))
  | 2, 0 => some (.knStatCore (fin 4 r.s) (fin 16 r.a))
  | 2, 1 => some (.knStatRule (fin 4 r.s) (fin 16 r.a) (fin 16 r.b))
  | 2, _ => some (.knStatClass (fin 4 r.s) (fin 16 r.a))
  | _, _ => none

/-- Major 0x3C (R317). -/
def pickSync (r : Raw) : Option Instr :=
  let s := fin 4 r.s
  let a := fin 16 r.a
  let b := fin 16 r.b
  let lvl := fin 8 (bits r.tail 2 0)
  match bits r.tail 15 12 with
  | 0 => some (.barArrive s a lvl)
  | 1 => some (.barWait s b lvl)
  | 2 => some (.barSync s lvl)
  | 3 => some (.barTest s a b lvl)
  | 4 => some (.wake s a b)
  | 5 => some (.wfw s a b)
  | 6 => some (.domSet s b lvl)
  | 7 => some (.phase s a b lvl)
  | 8 => some (.send s b (fin 32 (bits r.tail 4 0)) (fin 4 (bits r.tail 6 5)))
  | 9 => some (.recv s a (fin 32 (bits r.tail 4 0)))
  | 10 => some (.taskSpawn s a b (fin 4 (bits r.tail 1 0)) (bit r.tail 2 == 1))
  | 11 => some (.taskTake s a (fin 8 r.b))
  | 12 => some (.taskYield s a b)
  | 13 => some (if bit r.tail 0 = 1 then .taskExit s else .taskDone s)
  | 14 => some (.launch s a b)
  | _ => none

/-- Major 0x3D (R318). -/
def pickSys (r : Raw) : Option Instr :=
  let s := fin 4 r.s
  let a := fin 16 r.a
  let b := fin 16 r.b
  match bits r.tail 15 12, bits r.tail 11 8 with
  | 0, _ => some (.ctlRd s a (fin 4096 (bits r.tail 11 0)))
  | 1, _ => some (.ctlWr s b (fin 4096 (bits r.tail 11 0)))
  | 2, _ => some (.safept s (fin 4096 (bits r.tail 11 0)))
  | 3, 0 => some (.trap s (fin 256 (bits r.tail 7 0)))
  | 3, 1 => some (.brk s (fin 256 (bits r.tail 7 0)))
  | 3, 2 => some (.eret s)
  | 3, 3 => some (.wfi s)
  | 3, 4 => some (.time s a)
  | 3, 5 => some (.opreq s b)
  | 3, 6 => some (.migrate s a b)
  | 3, 7 => some (.pairOn s a)
  | 3, 8 => some (.pairOff s)
  | 3, 9 => some (.errinj s a b)
  | 3, 10 => some (.replayBegin s)
  | 3, 11 => some (.replayAgain s)
  | 3, 12 => some (.replayEnd s a)
  | 3, 13 => some (.replayDone s)
  | 3, 14 => some (.ctxSet s b)
  | _, _ => none

/-- Major 0x3E (R266). -/
def pickBind (r : Raw) : Option Instr :=
  let s := fin 4 r.s
  match bits r.tail 15 12 with
  | 0 => some (.qbind s (fin 8 r.a) (fin 16 r.b) (fin 16 (bits r.tail 11 8)))
  | 1 => some (.qunbind s (fin 8 r.a))
  | 2 => some (.qpop s (fin 16 (bits r.tail 3 0)) (fin 8 r.a))
  | 3 => some (.sbind s (fin 32 (bits r.tail 4 0)) (fin 16 r.b))
  | 4 => some (.sunbind s (fin 32 (bits r.tail 4 0)))
  | _ => none

/-- Majors 0x1E and 0x27 (R237, R241, R242). -/
def pickFence (r : Raw) : Option Instr :=
  match bits r.tail 15 12 with
  | 0 => some (.fence (fin 4 r.s) (fin 16 (bits r.tail 7 4)) (fin 4 (bits r.tail 1 0)))
  | 1 => some (.fenceE (fin 4 r.s))
  | 2 => some (.fenceI (fin 4 r.s))
  | _ => none

/-- Majors 0x00 to 0x07 (R219). -/
def pickCompact (maj : Nat) (s : Fin 4) (a b : CReg) : Option Instr :=
  match maj with
  | 0 => some (.addCompact s a b)
  | 1 => some (.subCompact s a b)
  | 2 => some (.andCompact s a b)
  | 3 => some (.orCompact s a b)
  | 4 => some (.xorCompact s a b)
  | 5 => some (.mov s a b)
  | 6 => some (.mulCompact s a b)
  | 7 => some (.shlCompact s a b)
  | _ => none

/-- The conditional branches (R239). -/
def pickBranch (maj : Nat) (s : Fin 4) (a b : CReg) (idx : Fin 32) (disp : BitVec 11) : Option Instr :=
  match maj with
  | 0x20 => some (.beq s a b idx disp)
  | 0x21 => some (.bne s a b idx disp)
  | 0x22 => some (.blt s a b idx disp)
  | 0x23 => some (.bge s a b idx disp)
  | 0x24 => some (.bltu s a b idx disp)
  | 0x25 => some (.bgeu s a b idx disp)
  | _ => none

/-- Majors 0x10 to 0x14, 0x16 and 0x17 (R222, R223). -/
def pickImm (maj : Nat) (s : Fin 4) (a b : CReg) (t : Nat) : Option Instr :=
  match maj with
  | 0x10 => some (.li16 s a (BitVec.ofNat 16 t))
  | 0x11 => some (.li32 s a (BitVec.ofNat 32 t))
  | 0x12 => some (.li64 s a (BitVec.ofNat 64 t))
  | 0x13 => some (.addi16 s a b (BitVec.ofNat 16 t))
  | 0x14 => some (.addi32 s a b (BitVec.ofNat 32 t))
  | 0x16 => some (.cadd16 s a b (BitVec.ofNat 16 t))
  | 0x17 => some (.cadd32 s a b (BitVec.ofNat 32 t))
  | _ => none

/-- Majors 0x18 to 0x1B (R208, R230). -/
def pickMem (maj : Nat) (s : Fin 4) (a b : CReg) (ord : Bool) (sz : Fin 8) (off : BitVec 12) : Option Instr :=
  match maj with
  | 0x18 => some (.ld s a b ord sz off)
  | 0x19 => some (.st s a b ord sz off)
  | 0x1A => some (.ldFar s a b ord sz off)
  | 0x1B => some (.stFar s a b ord sz off)
  | _ => none

/-- The instruction that a head and tail name by their major opcode and sub-function, every field read by its place;
none where no instruction is assigned (R195, R196). -/
def pick (r : Raw) : Option Instr :=
  let s := fin 4 r.s
  let a := fin 16 r.a
  let b := fin 16 r.b
  if r.maj < 0x08 then pickCompact r.maj s a b
  else if r.maj < 0x10 ∨ r.maj = 0x15 then pickReg r.maj (bits r.tail 9 4) s a b (fin 16 (bits r.tail 3 0))
  else if r.maj < 0x18 then pickImm r.maj s a b r.tail
  else if r.maj < 0x1C then pickMem r.maj s a b (bit r.tail 15 == 1) (fin 8 (bits r.tail 14 12)) (BitVec.ofNat 12 (bits r.tail 11 0))
  else if r.maj = 0x1C then pickAmo (bits r.tail 15 12) s a b (bit r.tail 11 == 1) (fin 16 (bits r.tail 3 0))
  else if r.maj = 0x1D then some (.cas s a b (bit r.tail 11 == 1) (fin 16 (bits r.tail 3 0)))
  else if r.maj = 0x1E then pickFence r
  else if r.maj = 0x1F then none
  else if r.maj < 0x26 then pickBranch r.maj s a b (fin 32 (bits r.tail 15 11)) (BitVec.ofNat 11 (bits r.tail 10 0))
  else if r.maj = 0x26 then some (.jal s a (BitVec.ofNat 27 (bits r.tail 31 5)) (fin 32 (bits r.tail 4 0)))
  else if r.maj = 0x27 then
    match bits r.tail 9 4 with
    | 0 => some (.jr s a b)
    | 1 => some (.brTok s (fin 8 r.b))
    | _ => none
  else if r.maj = 0x2A then some (.cfmt s a b (fin 8 (bits r.tail 7 5)) (fin 32 (bits r.tail 4 0)))
  else if r.maj < 0x30 then pickReg r.maj (bits r.tail 9 4) s a b (fin 16 (bits r.tail 3 0))
  else if r.maj < 0x38 then pickVec r.maj r.a (vecOp r)
  else if r.maj = 0x38 then pickCopy r
  else if r.maj = 0x39 then pickBuf (bits r.tail 31 24) s a b (fin 4 (bits r.tail 1 0))
  else if r.maj = 0x3A then pickMx r
  else if r.maj = 0x3B then pickKn r
  else if r.maj = 0x3C then pickSync r
  else if r.maj = 0x3D then pickSys r
  else if r.maj = 0x3E then pickBind r
  else none

/-- The instruction exists only on compute cores: MX, KN, PAIR.ON and the binding of a matrix port (R79, R267, R280, R311,
R347). -/
def Instr.computeOnly (i : Instr) : Bool :=
  match i with
  | .mxMma _ | .mxTrn _ _ _ _ _ _ _ | .mxScale _ _ _ _ _ | .mxUprog _ _ _ | .mxWait _ _ | .mxStat _ _ _ => true
  | .knLoad _ _ | .knCtlRmask _ _ | .knCtlCmask _ _ | .knCtlClr _ | .knStatCore _ _ | .knStatRule _ _ _ | .knStatClass _ _ => true
  | .pairOn _ _ => true
  | .qbind _ _ _ kind => kind.val < 2
  | _ => false

/-- The field of a head that names a q-register: none, A or B (R194, R242, R266, R317). -/
inductive QField where
  | none | a | b
deriving DecidableEq, Repr

/-- Which head field of an instruction names a q-register. -/
def Instr.qField (i : Instr) : QField :=
  match i with
  | .brTok _ _ | .taskTake _ _ _ => .b
  | .qbind _ _ _ _ | .qunbind _ _ | .qpop _ _ _ => .a
  | _ => .none

/-- The head and tail with a q-register field reduced to its low three bits, and whether that field held 8 to 15. -/
def Raw.qLow (r : Raw) (q : QField) : Raw × Bool :=
  match q with
  | .none => (r, false)
  | .a => ({ r with a := r.a % 8 }, decide (8 ≤ r.a))
  | .b => ({ r with b := r.b % 8 }, decide (8 ≤ r.b))

/-- The fields of the words of an instruction, every reserved and unused field zero (R194, R208 to R213, R219 to R224,
R235, R237, R239 to R242, R245, R266, R270, R276, R280, R311, R317, R318); none for an event. -/
def rawOf (i : Instr) : Option Raw :=
  match i with
  | .addCompact s a b => some ⟨s.val, 0x00, a.val, b.val, 0⟩
  | .subCompact s a b => some ⟨s.val, 0x01, a.val, b.val, 0⟩
  | .andCompact s a b => some ⟨s.val, 0x02, a.val, b.val, 0⟩
  | .orCompact s a b => some ⟨s.val, 0x03, a.val, b.val, 0⟩
  | .xorCompact s a b => some ⟨s.val, 0x04, a.val, b.val, 0⟩
  | .mov s a b => some ⟨s.val, 0x05, a.val, b.val, 0⟩
  | .mulCompact s a b => some ⟨s.val, 0x06, a.val, b.val, 0⟩
  | .shlCompact s a b => some ⟨s.val, 0x07, a.val, b.val, 0⟩
  | .add s a b c => some ⟨s.val, 0x08, a.val, b.val, regTail 0 c.val⟩
  | .sub s a b c => some ⟨s.val, 0x08, a.val, b.val, regTail 1 c.val⟩
  | .and s a b c => some ⟨s.val, 0x08, a.val, b.val, regTail 2 c.val⟩
  | .or s a b c => some ⟨s.val, 0x08, a.val, b.val, regTail 3 c.val⟩
  | .xor s a b c => some ⟨s.val, 0x08, a.val, b.val, regTail 4 c.val⟩
  | .andn s a b c => some ⟨s.val, 0x08, a.val, b.val, regTail 5 c.val⟩
  | .shl s a b c => some ⟨s.val, 0x09, a.val, b.val, regTail 0 c.val⟩
  | .shr s a b c => some ⟨s.val, 0x09, a.val, b.val, regTail 1 c.val⟩
  | .sar s a b c => some ⟨s.val, 0x09, a.val, b.val, regTail 2 c.val⟩
  | .ror s a b c => some ⟨s.val, 0x09, a.val, b.val, regTail 3 c.val⟩
  | .mul s a b c => some ⟨s.val, 0x0A, a.val, b.val, regTail 0 c.val⟩
  | .mulh s a b c => some ⟨s.val, 0x0A, a.val, b.val, regTail 1 c.val⟩
  | .mulhu s a b c => some ⟨s.val, 0x0A, a.val, b.val, regTail 2 c.val⟩
  | .mulhsu s a b c => some ⟨s.val, 0x0A, a.val, b.val, regTail 3 c.val⟩
  | .div s a b c => some ⟨s.val, 0x0B, a.val, b.val, regTail 0 c.val⟩
  | .divu s a b c => some ⟨s.val, 0x0B, a.val, b.val, regTail 1 c.val⟩
  | .rem s a b c => some ⟨s.val, 0x0B, a.val, b.val, regTail 2 c.val⟩
  | .remu s a b c => some ⟨s.val, 0x0B, a.val, b.val, regTail 3 c.val⟩
  | .min s a b c => some ⟨s.val, 0x0C, a.val, b.val, regTail 0 c.val⟩
  | .max s a b c => some ⟨s.val, 0x0C, a.val, b.val, regTail 1 c.val⟩
  | .minu s a b c => some ⟨s.val, 0x0C, a.val, b.val, regTail 2 c.val⟩
  | .maxu s a b c => some ⟨s.val, 0x0C, a.val, b.val, regTail 3 c.val⟩
  | .seq s a b c => some ⟨s.val, 0x0D, a.val, b.val, regTail 0 c.val⟩
  | .sne s a b c => some ⟨s.val, 0x0D, a.val, b.val, regTail 1 c.val⟩
  | .slt s a b c => some ⟨s.val, 0x0D, a.val, b.val, regTail 2 c.val⟩
  | .sltu s a b c => some ⟨s.val, 0x0D, a.val, b.val, regTail 3 c.val⟩
  | .selnz s a b c => some ⟨s.val, 0x0E, a.val, b.val, regTail 0 c.val⟩
  | .selz s a b c => some ⟨s.val, 0x0E, a.val, b.val, regTail 1 c.val⟩
  | .clz s a b => some ⟨s.val, 0x0F, a.val, b.val, regTail 0 0⟩
  | .ctz s a b => some ⟨s.val, 0x0F, a.val, b.val, regTail 1 0⟩
  | .popc s a b => some ⟨s.val, 0x0F, a.val, b.val, regTail 2 0⟩
  | .bswap s a b => some ⟨s.val, 0x0F, a.val, b.val, regTail 3 0⟩
  | .li16 s a imm => some ⟨s.val, 0x10, a.val, 0, imm.toNat⟩
  | .li32 s a imm => some ⟨s.val, 0x11, a.val, 0, imm.toNat⟩
  | .li64 s a imm => some ⟨s.val, 0x12, a.val, 0, imm.toNat⟩
  | .addi16 s a b imm => some ⟨s.val, 0x13, a.val, b.val, imm.toNat⟩
  | .addi32 s a b imm => some ⟨s.val, 0x14, a.val, b.val, imm.toNat⟩
  | .caddReg s a b c => some ⟨s.val, 0x15, a.val, b.val, regTail 0 c.val⟩
  | .cadd16 s a b imm => some ⟨s.val, 0x16, a.val, b.val, imm.toNat⟩
  | .cadd32 s a b imm => some ⟨s.val, 0x17, a.val, b.val, imm.toNat⟩
  | .ld s a b ord sz off => some ⟨s.val, 0x18, a.val, b.val, memTail ord sz off⟩
  | .st s a b ord sz off => some ⟨s.val, 0x19, a.val, b.val, memTail ord sz off⟩
  | .ldFar s a b ord sz off => some ⟨s.val, 0x1A, a.val, b.val, memTail ord sz off⟩
  | .stFar s a b ord sz off => some ⟨s.val, 0x1B, a.val, b.val, memTail ord sz off⟩
  | .amoAdd s a b w c => some ⟨s.val, 0x1C, a.val, b.val, amoTail 0 w c⟩
  | .amoAnd s a b w c => some ⟨s.val, 0x1C, a.val, b.val, amoTail 1 w c⟩
  | .amoOr s a b w c => some ⟨s.val, 0x1C, a.val, b.val, amoTail 2 w c⟩
  | .amoXor s a b w c => some ⟨s.val, 0x1C, a.val, b.val, amoTail 3 w c⟩
  | .amoSmin s a b w c => some ⟨s.val, 0x1C, a.val, b.val, amoTail 4 w c⟩
  | .amoSmax s a b w c => some ⟨s.val, 0x1C, a.val, b.val, amoTail 5 w c⟩
  | .amoUmin s a b w c => some ⟨s.val, 0x1C, a.val, b.val, amoTail 6 w c⟩
  | .amoUmax s a b w c => some ⟨s.val, 0x1C, a.val, b.val, amoTail 7 w c⟩
  | .amoSwap s a b w c => some ⟨s.val, 0x1C, a.val, b.val, amoTail 8 w c⟩
  | .amoCadd s a b w c => some ⟨s.val, 0x1C, a.val, b.val, amoTail 9 w c⟩
  | .amoBadd s a b w c => some ⟨s.val, 0x1C, a.val, b.val, amoTail 10 w c⟩
  | .cas s a b w c => some ⟨s.val, 0x1D, a.val, b.val, amoTail 0 w c⟩
  | .fence s mask scope => some ⟨s.val, 0x1E, 0, 0, mask.val * 0x10 + scope.val⟩
  | .fenceE s => some ⟨s.val, 0x1E, 0, 0, 0x1000⟩
  | .fenceI s => some ⟨s.val, 0x1E, 0, 0, 0x2000⟩
  | .beq s a b idx disp => some ⟨s.val, 0x20, a.val, b.val, idx.val * 0x800 + disp.toNat⟩
  | .bne s a b idx disp => some ⟨s.val, 0x21, a.val, b.val, idx.val * 0x800 + disp.toNat⟩
  | .blt s a b idx disp => some ⟨s.val, 0x22, a.val, b.val, idx.val * 0x800 + disp.toNat⟩
  | .bge s a b idx disp => some ⟨s.val, 0x23, a.val, b.val, idx.val * 0x800 + disp.toNat⟩
  | .bltu s a b idx disp => some ⟨s.val, 0x24, a.val, b.val, idx.val * 0x800 + disp.toNat⟩
  | .bgeu s a b idx disp => some ⟨s.val, 0x25, a.val, b.val, idx.val * 0x800 + disp.toNat⟩
  | .jal s a disp idx => some ⟨s.val, 0x26, a.val, 0, disp.toNat * 0x20 + idx.val⟩
  | .jr s a b => some ⟨s.val, 0x27, a.val, b.val, regTail 0 0⟩
  | .brTok s q => some ⟨s.val, 0x27, 0, q.val, regTail 1 0⟩
  | .cnarrow s a b c => some ⟨s.val, 0x28, a.val, b.val, regTail 0 c.val⟩
  | .cnarrowX s a b c => some ⟨s.val, 0x28, a.val, b.val, regTail 1 c.val⟩
  | .cdrop s a b c => some ⟨s.val, 0x29, a.val, b.val, regTail 0 c.val⟩
  | .cfmt s a b blog fmt => some ⟨s.val, 0x2A, a.val, b.val, blog.val * 0x20 + fmt.val⟩
  | .creadBase s a b => some ⟨s.val, 0x2B, a.val, b.val, regTail 0 0⟩
  | .creadTop s a b => some ⟨s.val, 0x2B, a.val, b.val, regTail 1 0⟩
  | .creadLen s a b => some ⟨s.val, 0x2B, a.val, b.val, regTail 2 0⟩
  | .creadPerm s a b => some ⟨s.val, 0x2B, a.val, b.val, regTail 3 0⟩
  | .creadFmt s a b => some ⟨s.val, 0x2B, a.val, b.val, regTail 4 0⟩
  | .creadBlog s a b => some ⟨s.val, 0x2B, a.val, b.val, regTail 5 0⟩
  | .creadTag s a b => some ⟨s.val, 0x2B, a.val, b.val, regTail 6 0⟩
  | .creadShut s a b => some ⟨s.val, 0x2B, a.val, b.val, regTail 7 0⟩
  | .creadMeta s a b => some ⟨s.val, 0x2B, a.val, b.val, regTail 8 0⟩
  | .cshut s a b => some ⟨s.val, 0x2C, a.val, b.val, regTail 0 0⟩
  | .copen s a b => some ⟨s.val, 0x2C, a.val, b.val, regTail 1 0⟩
  | .cmint s a b => some ⟨s.val, 0x2D, a.val, b.val, regTail 0 0⟩
  | .cclone s a b => some ⟨s.val, 0x2E, a.val, b.val, regTail 0 0⟩
  | .cwithin s a b c => some ⟨s.val, 0x2F, a.val, b.val, regTail 0 c.val⟩
  | .vadd o => some ⟨o.s.val, 0x30, 0, o.b.val, vecTail o⟩
  | .vsub o => some ⟨o.s.val, 0x30, 1, o.b.val, vecTail o⟩
  | .vmul o => some ⟨o.s.val, 0x30, 2, o.b.val, vecTail o⟩
  | .vmulh o => some ⟨o.s.val, 0x30, 3, o.b.val, vecTail o⟩
  | .vmin o => some ⟨o.s.val, 0x30, 4, o.b.val, vecTail o⟩
  | .vmax o => some ⟨o.s.val, 0x30, 5, o.b.val, vecTail o⟩
  | .vabs o => some ⟨o.s.val, 0x30, 6, o.b.val, vecTail o⟩
  | .vneg o => some ⟨o.s.val, 0x30, 7, o.b.val, vecTail o⟩
  | .vaddSat o => some ⟨o.s.val, 0x30, 8, o.b.val, vecTail o⟩
  | .vsubSat o => some ⟨o.s.val, 0x30, 9, o.b.val, vecTail o⟩
  | .vabsSat o => some ⟨o.s.val, 0x30, 10, o.b.val, vecTail o⟩
  | .vand o => some ⟨o.s.val, 0x31, 0, o.b.val, vecTail o⟩
  | .vor o => some ⟨o.s.val, 0x31, 1, o.b.val, vecTail o⟩
  | .vxor o => some ⟨o.s.val, 0x31, 2, o.b.val, vecTail o⟩
  | .vandn o => some ⟨o.s.val, 0x31, 3, o.b.val, vecTail o⟩
  | .vshl o => some ⟨o.s.val, 0x31, 4, o.b.val, vecTail o⟩
  | .vshr o => some ⟨o.s.val, 0x31, 5, o.b.val, vecTail o⟩
  | .vsar o => some ⟨o.s.val, 0x31, 6, o.b.val, vecTail o⟩
  | .vshli o => some ⟨o.s.val, 0x31, 7, o.b.val, vecTail o⟩
  | .vshri o => some ⟨o.s.val, 0x31, 8, o.b.val, vecTail o⟩
  | .vsari o => some ⟨o.s.val, 0x31, 9, o.b.val, vecTail o⟩
  | .vfadd o => some ⟨o.s.val, 0x32, 0, o.b.val, vecTail o⟩
  | .vfsub o => some ⟨o.s.val, 0x32, 1, o.b.val, vecTail o⟩
  | .vfmul o => some ⟨o.s.val, 0x32, 2, o.b.val, vecTail o⟩
  | .vfmin o => some ⟨o.s.val, 0x32, 3, o.b.val, vecTail o⟩
  | .vfmax o => some ⟨o.s.val, 0x32, 4, o.b.val, vecTail o⟩
  | .vfabs o => some ⟨o.s.val, 0x32, 5, o.b.val, vecTail o⟩
  | .vfneg o => some ⟨o.s.val, 0x32, 6, o.b.val, vecTail o⟩
  | .vfdiv o => some ⟨o.s.val, 0x32, 7, o.b.val, vecTail o⟩
  | .vfsqrt o => some ⟨o.s.val, 0x32, 8, o.b.val, vecTail o⟩
  | .vfma o => some ⟨o.s.val, 0x32, 9, o.b.val, vecTail o⟩
  | .vfms o => some ⟨o.s.val, 0x32, 10, o.b.val, vecTail o⟩
  | .vfnma o => some ⟨o.s.val, 0x32, 11, o.b.val, vecTail o⟩
  | .vcmul o => some ⟨o.s.val, 0x33, 0, o.b.val, vecTail o⟩
  | .vcmac o => some ⟨o.s.val, 0x33, 1, o.b.val, vecTail o⟩
  | .vcmulj o => some ⟨o.s.val, 0x33, 2, o.b.val, vecTail o⟩
  | .vcmacj o => some ⟨o.s.val, 0x33, 3, o.b.val, vecTail o⟩
  | .vcconj o => some ⟨o.s.val, 0x33, 4, o.b.val, vecTail o⟩
  | .vcmpEq o => some ⟨o.s.val, 0x34, 0, o.b.val, vecTail o⟩
  | .vcmpNe o => some ⟨o.s.val, 0x34, 1, o.b.val, vecTail o⟩
  | .vcmpLt o => some ⟨o.s.val, 0x34, 2, o.b.val, vecTail o⟩
  | .vcmpLe o => some ⟨o.s.val, 0x34, 3, o.b.val, vecTail o⟩
  | .vsel o => some ⟨o.s.val, 0x34, 4, o.b.val, vecTail o⟩
  | .vmov o => some ⟨o.s.val, 0x35, 0, o.b.val, vecTail o⟩
  | .vsplat o => some ⟨o.s.val, 0x35, 1, o.b.val, vecTail o⟩
  | .vext o => some ⟨o.s.val, 0x35, 2, o.b.val, vecTail o⟩
  | .vins o => some ⟨o.s.val, 0x35, 3, o.b.val, vecTail o⟩
  | .vperm o => some ⟨o.s.val, 0x35, 4, o.b.val, vecTail o⟩
  | .vshuf o => some ⟨o.s.val, 0x35, 5, o.b.val, vecTail o⟩
  | .vslide o => some ⟨o.s.val, 0x35, 6, o.b.val, vecTail o⟩
  | .vmpopc o => some ⟨o.s.val, 0x35, 7, o.b.val, vecTail o⟩
  | .vmfirst o => some ⟨o.s.val, 0x35, 8, o.b.val, vecTail o⟩
  | .vredsum o => some ⟨o.s.val, 0x36, 0, o.b.val, vecTail o⟩
  | .vredmin o => some ⟨o.s.val, 0x36, 1, o.b.val, vecTail o⟩
  | .vredmax o => some ⟨o.s.val, 0x36, 2, o.b.val, vecTail o⟩
  | .vredand o => some ⟨o.s.val, 0x36, 3, o.b.val, vecTail o⟩
  | .vredor o => some ⟨o.s.val, 0x36, 4, o.b.val, vecTail o⟩
  | .vredxor o => some ⟨o.s.val, 0x36, 5, o.b.val, vecTail o⟩
  | .vfredsum o => some ⟨o.s.val, 0x36, 6, o.b.val, vecTail o⟩
  | .vfredmin o => some ⟨o.s.val, 0x36, 7, o.b.val, vecTail o⟩
  | .vfredmax o => some ⟨o.s.val, 0x36, 8, o.b.val, vecTail o⟩
  | .vcvt o => some ⟨o.s.val, 0x36, 9, o.b.val, vecTail o⟩
  | .vld o => some ⟨o.s.val, 0x37, 0, o.b.val, vecTail o⟩
  | .vst o => some ⟨o.s.val, 0x37, 1, o.b.val, vecTail o⟩
  | .vlds o => some ⟨o.s.val, 0x37, 2, o.b.val, vecTail o⟩
  | .vsts o => some ⟨o.s.val, 0x37, 3, o.b.val, vecTail o⟩
  | .vldx o => some ⟨o.s.val, 0x37, 4, o.b.val, vecTail o⟩
  | .vstx o => some ⟨o.s.val, 0x37, 5, o.b.val, vecTail o⟩
  | .vldDec o => some ⟨o.s.val, 0x37, 6, o.b.val, vecTail o⟩
  | .vstEnc o => some ⟨o.s.val, 0x37, 7, o.b.val, vecTail o⟩
  | .cpCopy o => some ⟨o.s.val, 0x38, o.a.val, o.b.val, copyTail o 0⟩
  | .cpMcast o => some ⟨o.s.val, 0x38, o.a.val, o.b.val, copyTail o 1⟩
  | .cpWm s a b => some ⟨s.val, 0x38, a.val, b.val, 0x1000000⟩
  | .cpResume s b => some ⟨s.val, 0x38, 0, b.val, 0x2000000⟩
  | .cpAbort s b => some ⟨s.val, 0x38, 0, b.val, 0x3000000⟩
  | .btAlloc s a b hrt => some ⟨s.val, 0x39, a.val, b.val, 0 + hrt.val⟩
  | .btFree s b => some ⟨s.val, 0x39, 0, b.val, 0x1000000⟩
  | .btWaitf s a b => some ⟨s.val, 0x39, a.val, b.val, 0x2000000⟩
  | .btRel s b => some ⟨s.val, 0x39, 0, b.val, 0x3000000⟩
  | .btStat s a b => some ⟨s.val, 0x39, a.val, b.val, 0x4000000⟩
  | .tileDecl s a b => some ⟨s.val, 0x39, a.val, b.val, 0x5000000⟩
  | .tileUndecl s b => some ⟨s.val, 0x39, 0, b.val, 0x6000000⟩
  | .tileChk s b => some ⟨s.val, 0x39, 0, b.val, 0x7000000⟩
  | .tileFix s b => some ⟨s.val, 0x39, 0, b.val, 0x8000000⟩
  | .mxMma o => some ⟨o.s.val, 0x3A, o.a.val, o.b.val, mmaTail o⟩
  | .mxTrn s a ah dh mc nc fmt => some ⟨s.val, 0x3A, a.val, 0, 0x4000000000000000 + fmt.val * 0x10000000000 + nc.val * 0x4000000 + mc.val * 0x100000 + dh.val * 0x400 + ah.val⟩
  | .mxScale s a b mc nc => some ⟨s.val, 0x3A, a.val, b.val, 0x4100000000000000 + nc.val * 0x4000000 + mc.val * 0x100000⟩
  | .mxUprog s b up => some ⟨s.val, 0x3A, 0, b.val, 0x4200000000000000 + up.val * 0x4000000000000⟩
  | .mxWait s a => some ⟨s.val, 0x3A, a.val, 0, 0x4300000000000000⟩
  | .mxStat s a clr => some ⟨s.val, 0x3A, a.val, 0, 0x4400000000000000 + b2n clr⟩
  | .knLoad s b => some ⟨s.val, 0x3B, 0, b.val, 0x0⟩
  | .knCtlRmask s b => some ⟨s.val, 0x3B, 0, b.val, 0x100000000000000⟩
  | .knCtlCmask s b => some ⟨s.val, 0x3B, 0, b.val, 0x100000000000001⟩
  | .knCtlClr s => some ⟨s.val, 0x3B, 0, 0, 0x100000000000002⟩
  | .knStatCore s a => some ⟨s.val, 0x3B, a.val, 0, 0x200000000000000⟩
  | .knStatRule s a b => some ⟨s.val, 0x3B, a.val, b.val, 0x200000000000001⟩
  | .knStatClass s a => some ⟨s.val, 0x3B, a.val, 0, 0x200000000000002⟩
  | .barArrive s a lvl => some ⟨s.val, 0x3C, a.val, 0, 0x0 + lvl.val⟩
  | .barWait s b lvl => some ⟨s.val, 0x3C, 0, b.val, 0x1000 + lvl.val⟩
  | .barSync s lvl => some ⟨s.val, 0x3C, 0, 0, 0x2000 + lvl.val⟩
  | .barTest s a b lvl => some ⟨s.val, 0x3C, a.val, b.val, 0x3000 + lvl.val⟩
  | .wake s a b => some ⟨s.val, 0x3C, a.val, b.val, 0x4000⟩
  | .wfw s a b => some ⟨s.val, 0x3C, a.val, b.val, 0x5000⟩
  | .domSet s b lvl => some ⟨s.val, 0x3C, 0, b.val, 0x6000 + lvl.val⟩
  | .phase s a b lvl => some ⟨s.val, 0x3C, a.val, b.val, 0x7000 + lvl.val⟩
  | .send s b vr lvl => some ⟨s.val, 0x3C, 0, b.val, 0x8000 + lvl.val * 0x20 + vr.val⟩
  | .recv s a vr => some ⟨s.val, 0x3C, a.val, 0, 0x9000 + vr.val⟩
  | .taskSpawn s a b hrt own => some ⟨s.val, 0x3C, a.val, b.val, 0xA000 + b2n own * 4 + hrt.val⟩
  | .taskTake s a q => some ⟨s.val, 0x3C, a.val, q.val, 0xB000⟩
  | .taskYield s a b => some ⟨s.val, 0x3C, a.val, b.val, 0xC000⟩
  | .taskDone s => some ⟨s.val, 0x3C, 0, 0, 0xD000⟩
  | .taskExit s => some ⟨s.val, 0x3C, 0, 0, 0xD001⟩
  | .launch s a b => some ⟨s.val, 0x3C, a.val, b.val, 0xE000⟩
  | .ctlRd s a num => some ⟨s.val, 0x3D, a.val, 0, num.val⟩
  | .ctlWr s b num => some ⟨s.val, 0x3D, 0, b.val, 0x1000 + num.val⟩
  | .safept s map => some ⟨s.val, 0x3D, 0, 0, 0x2000 + map.val⟩
  | .trap s imm => some ⟨s.val, 0x3D, 0, 0, 0x3000 + imm.val⟩
  | .brk s imm => some ⟨s.val, 0x3D, 0, 0, 0x3100 + imm.val⟩
  | .eret s => some ⟨s.val, 0x3D, 0, 0, 0x3200⟩
  | .wfi s => some ⟨s.val, 0x3D, 0, 0, 0x3300⟩
  | .time s a => some ⟨s.val, 0x3D, a.val, 0, 0x3400⟩
  | .opreq s b => some ⟨s.val, 0x3D, 0, b.val, 0x3500⟩
  | .migrate s a b => some ⟨s.val, 0x3D, a.val, b.val, 0x3600⟩
  | .pairOn s a => some ⟨s.val, 0x3D, a.val, 0, 0x3700⟩
  | .pairOff s => some ⟨s.val, 0x3D, 0, 0, 0x3800⟩
  | .errinj s a b => some ⟨s.val, 0x3D, a.val, b.val, 0x3900⟩
  | .replayBegin s => some ⟨s.val, 0x3D, 0, 0, 0x3A00⟩
  | .replayAgain s => some ⟨s.val, 0x3D, 0, 0, 0x3B00⟩
  | .replayEnd s a => some ⟨s.val, 0x3D, a.val, 0, 0x3C00⟩
  | .replayDone s => some ⟨s.val, 0x3D, 0, 0, 0x3D00⟩
  | .ctxSet s b => some ⟨s.val, 0x3D, 0, b.val, 0x3E00⟩
  | .qbind s q b kind => some ⟨s.val, 0x3E, q.val, b.val, kind.val * 0x100⟩
  | .qunbind s q => some ⟨s.val, 0x3E, q.val, 0, 0x1000⟩
  | .qpop s c q => some ⟨s.val, 0x3E, q.val, 0, 0x2000 + c.val⟩
  | .sbind s v b => some ⟨s.val, 0x3E, 0, b.val, 0x3000 + v.val⟩
  | .sunbind s v => some ⟨s.val, 0x3E, 0, 0, 0x4000 + v.val⟩
  | .tlbinvAll => none
  | .tlbinvContext _ => none
  | .tlbinvPages _ _ _ => none
  | .shootdownAck _ => none
  | .ptrootWrite _ _ => none
  | .l1rtvalWrite _ _ _ => none
  | .tqcfgWrite _ _ _ => none
  | .ldreqWrite _ _ => none
  | .wdmapWrite _ _ => none
  | .rollcmdWrite _ => none
  | .errorBankAck _ _ => none
  | .lineFetch _ => none
  | .trapEntry => none
  | .storeBufferDrain _ => none
  | .bankGrant _ _ => none
  | .remoteResponse _ _ => none
  | .remoteTimeout _ _ => none
  | .remoteStoreRefused _ _ => none
  | .rangeLockActivate _ _ => none
  | .filterBitClear _ _ => none
  | .engineOpBegin _ => none
  | .enginePieceLand _ _ => none
  | .landingComplete _ _ => none
  | .bufferFreeMessage _ _ => none
  | .streamRefill _ _ => none
  | .pageWalk _ _ _ _ => none
  | .l2Access _ _ _ _ _ => none
  | .sectorFill _ _ _ => none
  | .refreshSlot _ => none
  | .allBankRefreshStart _ => none
  | .refreshEnd _ => none
  | .kneaderEntry _ => none
  | .kneaderAgeFlush _ => none
  | .mxDispatch _ => none
  | .tileStep _ => none
  | .mxRetire _ => none
  | .mxCommandFault _ => none
  | .ballastStep _ _ => none
  | .droopDetect _ => none
  | .droopHoldEnd _ => none
  | .opTransitionEnd _ => none
  | .capWindowEnd => none
  | .peerThrottled _ _ _ => none
  | .timer _ => none
  | .budgetExhausted _ => none
  | .thermalWarn _ _ => none
  | .thermalCrit _ _ => none
  | .thermalTrip _ _ => none
  | .thermalClear _ _ => none
  | .external _ => none
  | .barrierComplete _ _ _ => none
  | .domainReform _ _ => none
  | .sendDelivery _ => none
  | .wakeDelivery _ => none
  | .dispenseCycle _ => none
  | .opalTokenPass _ => none
  | .placementSelect => none
  | .trayReserve => none
  | .reservationRelease => none
  | .placementCommit => none
  | .wakeFlood => none
  | .hartStop _ => none
  | .forcedStop _ => none
  | .gangSave _ => none
  | .migration _ => none
  | .fingerprintExchange _ => none
  | .errorDetected _ _ => none
  | .garnetFlush => none
  | .rollbackRestore _ => none
  | .functionPublish _ _ _ => none
  | .peerAccess _ => none
  | .ccpLaunch _ _ => none
  | .ccpCopy _ _ _ _ _ => none
  | .ccpMapBind _ _ _ => none
  | .ccpMapSaveArea _ _ _ => none
  | .ccpMapCodeHeap _ _ _ _ => none
  | .ccpMapCollective _ _ => none
  | .ccpMapDeviceIndex _ _ => none
  | .ccpLoad _ _ => none
  | .ccpUnload _ _ _ => none
  | .ccpQuery _ _ _ => none
  | .ccpTimeSet _ _ => none
  | .ccpTimeRead _ => none
  | .spdmGetVersion _ => none
  | .spdmGetCapabilities _ => none
  | .spdmNegotiateAlgorithms _ => none
  | .spdmGetDigests _ => none
  | .spdmGetCertificate _ => none
  | .spdmChallenge _ _ => none
  | .spdmGetMeasurements _ _ _ => none
  | .timeSync _ => none
  | .linkSignalDetect _ _ => none
  | .linkTrainDone _ _ => none
  | .linkTrainFail _ => none
  | .linkRetry _ => none
  | .linkNegotiate _ _ => none
  | .linkDown _ => none
  | .reset _ => none
  | .illegalInstruction _ _ _ => none
  | .slotOpen _ => none
  | .powerFailure => none
  | .hostPortLinkUp _ => none
  | .hostPortLinkDown _ => none

/-- Decode one head and tail on a compute core or, with miller = true, on a Miller: the instruction, or the REASON of
ILLEGAL_INSTRUCTION, decided in the order 0, 1, 4, 2, 3 (R196). A nonzero reserved or unused field shows as a difference
between the words and the encoding of the instruction they name. -/
def decode (miller : Bool) (head tail : Nat) : Except Nat Instr :=
  let r := Raw.ofWords head tail
  if r.maj = 0x1F ∨ r.maj = 0x3F then .error 0
  else
    match pick r with
    | none => .error 1
    | some i =>
      let q := r.qLow i.qField
      if miller && i.computeOnly then .error 4
      else if rawOf i ≠ some q.1 ∨ ¬ i.wf then .error 2
      else if q.2 then .error 3
      else .ok i

/-- The words of an instruction: its head and its tail; none for an event, which has no encoding. -/
def encode (i : Instr) : Option (Nat × Nat) :=
  match rawOf i with
  | some r => some (r.head, r.tail)
  | none => none

/-- The instruction that the decoder reads from the bits of an opcode-table row: the head is bits 15..0 and the tail
follows it, absent bits being zero. -/
def decodeTableWord (_nbits w : Nat) : Option Instr :=
  let head := w % 0x10000
  let tail := w / 0x10000 % 2 ^ (16 * tailLen (bits head 13 8))
  match decode false head tail with
  | .ok i => some i
  | .error _ => none

/-- The line that holds one instruction at its head 1: HC = 1, the tail packed at the line's end (R190, R191). -/
def lineOf (head tail : Nat) : Nat :=
  1 + head * 0x10000 + tail * 2 ^ (16 * (32 - tailLen (bits head 13 8)))

end Sys2Proof
end

