-- ==== Sys2Proof/Machine/State.lean ====
section
/-! DEFINITION. The state of a CX4 module as plain data: the hart whose turn it is, the other harts, and every table, queue
and register the spec gives the module (INVENTORY.md, State). A table is a list of key and value pairs; a key that is not
listed stands for the reset value of its kind. The default of a field is its value after reset. -/

namespace Sys2Proof.Machine

/-- A sparse table by number. -/
abbrev Tbl (α : Type) := List (Nat × α)

/-- The privilege levels (00 R5). -/
inductive Level where
  | u | k | f
deriving DecidableEq, Repr

/-- A c-register: tag, metadata bits [127:64] and ADDR (01 R20). -/
structure Cap where
  tag : Bool := false
  md : Word := 0
  addr : Word := 0
deriving DecidableEq, Repr

/-- A bank of trap registers (14 R336 to R338); STATUS.PL is the hart's level. `src` is the address of the branch whose slot EPC names,
which EVAL of BRANCH_IN_SLOT holds when ERET has re-executed the slot (09 R205, R206). -/
structure Bank where
  ppl : Level := .u
  ds : Bool := false
  pie : Bool := false
  nest : Bool := false
  ie : Bool := false
  epc : Word := 0
  code : BitVec 7 := 0
  asy : Bool := false
  eval : Word := 0
  einfo : Word := 0
  ebt : Word := 0
  vec : Bool := false
  base : BitVec 58 := 0
  src : Option Word := none
deriving DecidableEq, Repr

/-- A pending delay slot (09 R203): the next PC its branch decided and, where a branch of this run decided it, the
branch's own address; the c-register that authorised the target (01 R30: B of JR, else 0). -/
structure Slot where
  target : Word
  src : Option Word
  creg : Nat := 0
deriving DecidableEq, Repr

/-- A fixed-class result with its latency L and its issue distance so far (09 R199); prev is the register's value before
it. -/
structure Pend where
  vec : Bool
  reg : Nat
  lat : Nat
  dist : Nat
  major : Nat
  prevC : Cap
  prevV : Vec
deriving DecidableEq, Repr

/-- The port a q-register is bound to (12 R267). -/
inductive Port where
  | mxpush | mxtok | cppush
  | taskpop (hearth : Nat)
  | mbox (handle : Nat)
deriving DecidableEq, Repr

/-- A stream binding of v24 to v31: its engine operation and direction (05 R128). -/
structure StreamB where
  opn : Nat
  write : Bool
deriving DecidableEq, Repr

/-- A translation (01 R36): of a 64 KiB page, or of a 512 MiB block. -/
structure TlbE where
  ctx : Nat
  vpn : Nat
  block : Bool
  pa : Nat
  bits : Nat
deriving DecidableEq, Repr

/-- A store-buffer entry (04 R89): the bytes of one store in one aligned 64-byte block, by location. `scope` is the natural
scope of the location (04 R86), `tag` the tag a capability store writes, `page` the replay page (14 R353), `lvl` the level of
the store, `issued` when it issued on its core's clock and `limit` RMTCTL.LIMIT then (02 R59), `ord` its number among the stores of its
hart (02 R60). The cells stand in ascending order; the first `done` of them are performed (04 R99); `bad` is a parity
error in the entry (16 R379), `pass` that it issued in an open replay pass (14 R353), `whole` the locations of its store, where that has
several entries (02 R63). -/
structure SbEntry where
  va : Word
  n : Nat
  cap : Bool
  tag : Bool
  rel : Bool
  lvl : Level
  page : Nat
  creg : Nat
  scope : Nat
  mt : Nat
  cells : List Host.Cell
  issued : Nat := 0
  limit : Nat := 0
  ord : Nat := 0
  done : Nat := 0
  bad : Bool := false
  pass : Bool := false
  whole : List Nat := []
deriving DecidableEq, Repr

/-- A pending asynchronous cause or report (16 R373, R375); an imprecise report of a store has one more than the number of the store,
by which such reports are taken (02 R60). -/
structure Async where
  cause : Nat
  val : Word
  info : Word
  ord : Nat := 0
deriving DecidableEq, Repr

/-- A task record with its stamp, spawner and gang (08 R183, R185). -/
structure TaskRec where
  entry : Nat
  deadline : Nat
  budget : Nat
  rsid : Nat
  wsid : Nat
  args : BitVec 128
  stamp : Nat
  spawner : Nat
  gang : Nat
deriving DecidableEq, Repr

/-- A slice a hart holds: its record and the Hearth whose queue gave it. -/
structure Slice where
  task : TaskRec
  hearth : Nat
deriving DecidableEq, Repr

/-- A bound slot table (08 R180): entries hold owner in [11:0] and receiver in [23:12]. -/
structure SlotTab where
  slotcyc : Nat
  entries : List Nat
deriving DecidableEq, Repr

/-- A received payload (14 R325, R326). -/
structure Payload where
  data : Vec
  slot : Nat
  sender : Nat
  lvl : Nat
deriving DecidableEq, Repr

/-- What the dispenser has handed to a hart that waits in TASK.TAKE (14 R329). -/
inductive Given where
  | task (r : TaskRec)
  | terminated
deriving DecidableEq, Repr

/-- The iteration of a landing operation (05 R111). -/
structure Iter where
  rowlen : Nat
  cnt1 : Nat
  cnt2 : Nat
  s1 : Int
  s2 : Int
  d1 : Int
  d2 : Int
  dims : Nat
deriving DecidableEq, Repr

/-- Where bytes of an engine operation lie: at virtual addresses, or at ring offset `k0` of a ring instance of Tray `tray`
in Tray-local layout (05 R121), or at L1 offset `off` of a Hearth. -/
inductive Where where
  | virt (va : Word)
  | ring (hearth tray base k0 : Nat)
  | l1 (hearth off : Nat)
deriving DecidableEq, Repr

/-- A ring slot of a handle's copy: Hearth, handle index, key of the ring copy (Tray, or 512 for a plain ring), slot. -/
structure SlotRef where
  hearth : Nat
  handle : Nat
  key : Nat
  slot : Nat
deriving DecidableEq, Repr

/-- A queued copy (12 R270 to R273), or the pattern of a stream. `dh` is a 12-bit handle name, whose low ten bits are all ones for
none; `receivers` are the ring copies it lands in, by key and Hearth; `near` is NEARCTL at issue and `pass`
that it issued in an open replay pass (14 R353). -/
structure CopyCmd where
  ctx : Nat
  gang : Nat
  hart : Nat
  user : Bool
  src : Word
  dstVa : Word
  it : Iter
  len : Nat
  xf : Nat
  fmt : Nat
  metaVa : Word
  fac : Bool
  rptc : Bool
  dh : Nat
  mc : Bool
  receivers : List (Nat × Nat)
  near : BitVec 4 := 0
  pass : Bool := false
deriving DecidableEq, Repr

/-- One delivery of an engine operation: destination, bytes landed, published watermark and entries. Of a piece that is read but not
wholly written (04 R99), `part` is its length, `rest` what is left to write and `restMt` its memory type. -/
structure Delivery where
  dst : Where
  slot : Option SlotRef
  done : Nat := 0
  part : Nat := 0
  rest : List Host.Cell := []
  restMt : Nat := 0
  count : Nat := 0
  mode : Nat := 0
  shift : Nat := 0
  locks : List (Nat × Nat) := []
  lands : List (Nat × Nat) := []
  final : Bool := false
  frozen : Bool := false
deriving DecidableEq, Repr

/-- An engine operation in flight (12 R262, R263): a copy, a multicast or a stream; `chanWait` is the HBM bank that its present read
waits for, with the stamp of its arrival there (03 R83); `got` the bytes that it has read of its present piece (04 R99), `staged` those
that a write stream has taken from its strips and not landed (05 R115), `nibs` the metadata nibbles of a compaction whose byte is not
complete (05 R130) and `restMeta` the metadata bytes that its present piece writes, with their memory type. -/
structure EngOp where
  cmd : CopyCmd
  stream : Bool
  write : Bool
  dels : List Delivery
  srcLocks : List (Nat × Nat)
  metaLands : List (Nat × Nat) := []
  strips : List Vec := []
  fetched : Nat := 0
  appended : Nat := 0
  unbound : Bool := false
  frozen : Bool := false
  paused : Bool := false
  aborted : Bool := false
  chanWait : Option (Nat × Nat) := none
  got : List Host.Cell := []
  staged : List Byte := []
  nibs : List (Nat × Nat) := []
  restMeta : List Host.Cell := []
  restMetaMt : Nat := 0
deriving DecidableEq, Repr

/-- The kind of a matrix command (12 R279, 13 R304). -/
inductive MxKind where
  | mma | trn | scale | uprog
deriving DecidableEq, Repr

/-- Where a matrix command stands (13 R300, 12 R286). -/
inductive MxStage where
  | queued | eligible | ready | dispatched | done
deriving DecidableEq, Repr

/-- A part of a matrix command (12 R283): the physical core in whose queue it runs, the operand slots it claimed, the K values
done, the accumulator, the checksum cells, the rows of its result that have landed and the image of its
unit's microprogram. -/
structure MxPart where
  p : Nat
  q : Nat
  core : Nat
  aSlot : Option SlotRef := none
  bSlot : Option SlotRef := none
  kdone : Nat := 0
  acc : List Nat := []
  rowChk : List Nat := []
  colChk : List Nat := []
  tokHit : Bool := false
  skipPos : Nat := 0
  done : Bool := false
  frozen : Bool := false
  landed : Nat := 0
  image : BitVec 256 := 0
deriving DecidableEq, Repr

/-- A matrix command (12 R279 to R293) with the values it sampled at acceptance (06 R143). `seqs` are the sequence numbers it
stands for, `set` its replacement set, `stamp` its place in the order of acceptance of all queues, `dead` that another member of
its set faulted (13 R310), `undo` what the members of its set before it have overwritten; `spareLocks` and `spareLands` are the entries
that leave with its set (13 R307), `spareSlots` the ring slots that members of it have filled; `pass` that it was accepted in an open replay pass (14 R353). -/
structure MxCmd where
  kind : MxKind
  stage : MxStage := .queued
  seq : Nat
  seqs : List Nat
  m : Nat
  n : Nat
  k : Nat
  afmt : Nat
  bfmt : Nat
  cfmt : Nat
  ah : Nat
  bh : Nat
  dh : Nat
  dest : Word
  destLoc : Option (Nat × Nat)
  scale : BitVec 32
  skv : Nat := 0
  ta : Bool := false
  tb : Bool := false
  acc : Bool := false
  fc : Bool := false
  sp : Bool := false
  tok : Bool := false
  up : Nat := 0
  kpReassoc : Bool := false
  kpRound : Bool := false
  t0 : Word := 0
  t1 : Word := 0
  image : BitVec 256 := 0
  round : BitVec 3 := 0
  flush : BitVec 8 := 0
  rptc : Bool := false
  user : Bool := false
  locks : List (Nat × Nat) := []
  lands : List (Nat × Nat) := []
  dstSlot : Option SlotRef := none
  parts : List MxPart := []
  enteredAt : Nat := 0
  kn : Bool := false
  rule : Nat := 0
  set : Nat := 0
  elided : List (Nat × Nat) := []
  fault : Option Async := none
  stamp : Nat := 0
  near : BitVec 4 := 0
  pass : Bool := false
  cap : Cap := {}
  dead : Bool := false
  undo : List Host.Cell := []
  spareLocks : List (Nat × Nat) := []
  spareLands : List (Nat × Nat) := []
  spareSlots : List SlotRef := []
  inj : Option (Nat × Nat × Nat) := none
deriving DecidableEq, Repr

/-- A hart's matrix state: its queue (newest last), tokens, and the fields of MXSTAT (12 R295) and KN.STAT (13 R314). -/
structure MxSt where
  queue : List MxCmd := []
  tokens : List Word := []
  nextSeq : Nat := 0
  seq : Nat := 0
  nv : Bool := false
  ovf : Bool := false
  sat : Bool := false
  flt : Bool := false
  sets : Nat := 0
  inj : Option (Nat × Nat × Nat) := none
  rw : Nat := 0
  absd : Nat := 0
  fl : Nat := 0
  age : Nat := 0
  ex : Nat := 0
  rd : Nat := 0
  ra : Nat := 0
  den : Nat := 0
deriving DecidableEq, Repr

/-- Control registers of a hart that no other structure holds. -/
structure Ctl where
  round : BitVec 3 := 0
  flush : BitVec 8 := 0
  arstat : BitVec 4 := 0
  chk : Bool := true
  cycle : Word := 0
  retired : Word := 0
  timecmp : Word := 0xFFFFFFFFFFFFFFFF
  opreq : BitVec 4 := 4
  nearctl : BitVec 4 := 0
  l1rtidx : BitVec 5 := 0
  rmt : BitVec 16 := 0x0400
  rptc : Bool := false
  tqsel : BitVec 2 := 0
  mxwgt : BitVec 4 := 1
  rwperm : BitVec 6 := 1
deriving DecidableEq, Repr

/-- The identity registers (08 R175, R177). -/
structure Ident where
  lcore : BitVec 13 := 0
  gangsz : BitVec 28 := 0
  devcore : BitVec 23 := 0
  physcore : BitVec 13 := 0
  dom : Vector (BitVec 43) 4 := Vector.replicate 4 0
deriving DecidableEq, Repr

/-- A performance counter pair (14 R349). -/
structure Perf where
  sel : BitVec 12 := 0
  cnt : BitVec 48 := 0
  ovf : Bool := false
deriving DecidableEq, Repr

/-- Synchronisation and task state of a hart (08, 14 R320 to R330). `arrive` is A(L); `synced` the generation a waiting
BAR.SYNC has arrived at, with the address of that BAR.SYNC; `domset` the value of a waiting DOM.SET and `domres` its outcome; `openAt` is W in cycles of the core's clock, and `openGen` the generation of the barrier whose wait set it (08 R180);
`takeAt` is the Hearth at which a hart waits in TASK.TAKE, with its place in the order of waiting; `sendAt` is the level of a waiting SEND and
when its slot opens, in cycles of its core's clock. -/
structure SyncSt where
  wakereg : Word := 0
  budget : Nat := 0
  slice : Option Slice := none
  arrive : Vector (Option Nat) 5 := Vector.replicate 5 none
  synced : Tbl Nat := []
  openAt : Vector Nat 4 := Vector.replicate 4 0
  openGen : Vector Nat 4 := Vector.replicate 4 0
  slotTab : Vector (Option SlotTab) 4 := Vector.replicate 4 none
  rx : List Payload := []
  domset : Option (Nat × Nat) := none
  domres : Option Nat := none
  takeAt : Option (Nat × Nat) := none
  given : Option Given := none
  blk : Bool := false
  sendAt : Option (Nat × Nat) := none
deriving DecidableEq, Repr

/-- A range an entry covers (02 R61, 15 R370, 12 R271): L1 offsets [lo, lo + len), the same of a ring copy in Tray-local
layout with first row `row` and length len, or offsets [lo, lo + len) of a near window of a Tray. -/
inductive Range where
  | flat (lo len : Nat)
  | trayRing (tray row k0 len : Nat)
  | near (tray slab lo len : Nat)
deriving DecidableEq, Repr

/-- A wake in flight (08 R182). -/
structure WakeMsg where
  hart : Nat
  mask : Word
deriving DecidableEq, Repr

/-- A send in flight (14 R325). -/
structure SendMsg where
  hart : Nat
  pay : Payload
deriving DecidableEq, Repr

/-- What an instruction of a paired stream will do outside the hart once its interval matches (14 R347): a WAKE, a SEND, the record of a
TASK.SPAWN for a Hearth, the record of a LAUNCH with the launching context, a copy, a matrix command with the segments of its box, a
stream with its box and the segments of it. -/
inductive HeldAct where
  | wake (x : WakeMsg)
  | send (x : SendMsg)
  | spawn (hearth : Nat) (r : TaskRec)
  | launch (l : BitVec 512) (launcher : Option Nat)
  | copy (c : CopyCmd)
  | matrix (c : MxCmd) (segs : List (Nat × Range))
  | bind (v : Nat) (c : CopyCmd) (write : Bool) (start : Int) (len : Nat) (segs : List (Nat × Range))
deriving DecidableEq, Repr

/-- Pairing state of a core (14 R347, R348; 16 R393 to R395): `held` and `acts` are the held buffer, an act standing
behind as many of the stores as its number says; `flushing` that its entries are being performed, `got` the result of one that its
instruction waits for, `off` that the exchange of a waiting PAIR.OFF is made. `loads` are the bytes that the even core's loads of the
interval have read, and `inject` that an injected error, `differs` that a load of the odd core makes its stream differ. -/
structure Pair where
  on : Bool := false
  odd : Bool := false
  run : Nat := 0
  mism : Nat := 0
  mat : Nat := 0
  waiting : Bool := false
  result : Option Nat := none
  notes : List Word := []
  held : List SbEntry := []
  acts : List (Nat × HeldAct) := []
  flushing : Bool := false
  got : Option Nat := none
  off : Bool := false
  loads : List Host.Cell := []
  count : Nat := 0
  inject : Bool := false
  differs : Bool := false
  due : Bool := false
deriving DecidableEq, Repr

/-- Replay state of a hart (14 R351 to R354): phase 0 IDLE, 1 OPEN, 2 CLOSED. -/
structure Replay where
  en : Bool := false
  rstl2 : Bool := false
  rsttlb : Bool := false
  save : BitVec 32 := 0
  pass : Nat := 0
  phase : Nat := 0
  mismatch : Bool := false
  ovf : Bool := false
  sig : BitVec 32 := 0
  pages : List Nat := []
  crc : BitVec 32 := 0xFFFFFFFF
  count : Nat := 0
deriving DecidableEq, Repr

/-- How a hart stands (08 R169, 15 R361, 16 R377). -/
inductive Place where
  | idle | placed | halted | stopped | frozen | parked
deriving DecidableEq, Repr

/-- A hart: one core with one thread. `insn` is the line of its present instruction, which a waiting hart does not fetch again; `walked` counts the walks that its present instruction has started (14 R350). `asked` is the stamp of the request that its instruction waits for. Of its present instruction, `got` are the bytes that a wide load
has read (04 R99), `since` is when it issued a remote access (02 R60), `chanWait` the HBM bank that its read waits for with the stamp of
its arrival there (03 R83), `entering` the entries of a vector store that have still to enter the buffer (11 R259), `ev` events that it
counts as it retires and `l2Miss` that a read of it began a fill or passed the L2 (14 R350, 23 R454), `barWait` the level of the
domain whose barrier it waits for (08 R180). `early` are bytes of locations
whose value is fixed for a later load, with the tags of granules fixed whole in `earlyTags` (04 R92), `storeNo` counts its stores, `checking` is
the range-lock entry (Hearth and index) that its tile check holds (07 R157), `moving` that it has stopped for its migration (15 R371),
`forced` that a forced stop ended it (15 R364). `clock` is the moment its core has reached, in the units of the clocks, and `cyc` counts the
cycles of its core's clock. -/
structure Hart where
  pc : Word := 0
  slot : Option Slot := none
  hc : Nat := 0
  fetchReg : Nat := 0
  insn : Option Nat := none
  lines : Tbl Nat := []
  utlb : List TlbE := []
  c : Vector Cap 16 := Vector.replicate 16 {}
  v : Vector Vec 32 := Vector.replicate 32 0
  q : Vector (Option Port) 8 := Vector.replicate 8 none
  streams : Tbl StreamB := []
  pend : List Pend := []
  lvl : Level := .u
  kb : Bank := {}
  fb : Bank := {}
  shadow : Option Bank := none
  ctl : Ctl := {}
  id : Ident := {}
  perf : Vector Perf 4 := Vector.replicate 4 {}
  sync : SyncSt := {}
  pair : Pair := {}
  rep : Replay := {}
  sb : List SbEntry := []
  posted : List SbEntry := []
  asy : List Async := []
  ext : Bool := false
  poison : List Nat := []
  mx : MxSt := {}
  cpq : List CopyCmd := []
  place : Place := .idle
  walked : Nat := 0
  waiting : Bool := false
  safeWait : Bool := false
  wfi : Bool := false
  atSafept : Option (Nat × Nat) := none
  gang : Nat := 0
  ctx : Nat := 0
  migrateTo : Option Nat := none
  clock : Nat := 0
  cyc : Nat := 0
  trapEntryOf : Option Nat := none
  asked : Option Nat := none
  got : List Host.Cell := []
  since : Option Nat := none
  chanWait : Option (Nat × Nat) := none
  entering : Option (List SbEntry) := none
  ev : List Nat := []
  l2Miss : Bool := false
  barWait : Option Nat := none
  early : List Host.Cell := []
  earlyTags : Tbl Bool := []
  storeNo : Nat := 0
  checking : Option (Nat × Nat) := none
  moving : Bool := false
  pausing : Bool := false
  forced : Bool := false
deriving DecidableEq, Repr

/-- A task queue of a context on a Hearth (08 R184, R185): TQCFG, the L1 part, the spill ring and the last stamp. -/
structure TaskQ where
  cfg : BitVec 48 := 0
  l1 : List TaskRec := []
  ring : List TaskRec := []
  stamp : Nat := 0
deriving DecidableEq, Repr

/-- Publication state of a function (16 R396, 18 R420). -/
inductive Pub where
  | unpublished | published | retired
deriving DecidableEq, Repr

/-- A loaded code object (18 R418, R419): where its text lies in the context's code heap, its functions by first line and
number of lines, and its tables. -/
structure CodeObj where
  handle : Nat
  img : CodeImage
  textVa : Word
  textPa : Nat
  lines : Nat
  fns : List (Nat × Nat × Pub)
  maps : List Nat
  waits : List Nat
deriving DecidableEq, Repr

/-- A reply or an event frame to the host (18 R411, R412). -/
structure Msg where
  typ : Nat
  ctx : Nat
  seq : Nat
  event : Bool
  status : Nat
  body : List Nat
  stamp : Nat
deriving DecidableEq, Repr

/-- A saved image in a context's save area (15 R360): gang, first unit of 64 KiB, number of units. -/
structure Image where
  gang : Nat
  first : Nat
  units : Nat
deriving DecidableEq, Repr

/-- A context. Of its CCP frames, `answered` are the replies by SEQ, `seen` the last 64 SEQ with the ports each came over (18 R410), `spdm`
the transcript of its attestation (18 R417); `loading` are the parts of a LOAD that is not complete (18 R412), `measured` the digests of its
code objects with the TIME of each (18 R417). -/
structure Ctx where
  ptEn : Bool := false
  ptTable : BitVec 32 := 0
  regions : Tbl (BitVec 64) := []
  wakeC3 : Cap := {}
  wakeRound : BitVec 3 := 0
  wakeFlush : BitVec 8 := 0
  queues : Tbl TaskQ := []
  facetCorr : Tbl Nat := []
  facetMism : Tbl Nat := []
  saveBase : Nat := 0
  saveUnits : Nat := 0
  images : List Image := []
  heapVa : Word := 0
  heapPa : Nat := 0
  heapLines : Nat := 0
  loading : List Byte := []
  objs : List CodeObj := []
  nextHandle : Nat := 1
  unloads : List Nat := []
  reports : List Async := []
  answered : List (Nat × Msg) := []
  seen : List (Nat × List Nat) := []
  spdm : List Nat := []
  collective : Option Nat := none
  lastCompletion : Nat := 0
  slackRun : Nat := 0
  rollcfg : Word := 0
  measured : List (Nat × Nat) := []
deriving DecidableEq, Repr

/-- A range-lock entry (02 R61 to R63): reason 0 source, 1 destination, 2 operand ring with the locked slots listed. -/
structure LockE where
  owner : Nat
  range : Range
  reason : Nat
  slotsz : Nat := 0
  slots : List Nat := []
  active : Bool := false
deriving DecidableEq, Repr

/-- A landing entry (02 R65, 05 R115); `off` is where its range begins in the box of its delivery, whose other bytes other entries
cover. -/
structure LandE where
  owner : Nat
  range : Range
  mode : Nat
  shift : Nat
  count : Nat
  off : Nat := 0
  frozen : Bool := false
  active : Bool := false
deriving DecidableEq, Repr

/-- The state of a ring slot (05 R123). -/
inductive SlotSt where
  | free | filling | full | draining
deriving DecidableEq, Repr

/-- A ring slot: state, claim bit, frozen mark, the owner number of the operation that fills it, the start, length and watermark
mode of what filled it, whether its claiming command has ended while it still fills, and the root Hearth of the multicast that
filled it (4 for none) with the number of its tile there (05 R127). -/
structure RSlot where
  st : SlotSt := .free
  clm : Bool := false
  frozen : Bool := false
  op : Nat := 0
  start : Word := 0
  len : Nat := 0
  mode : Nat := 0
  popped : Bool := false
  root : Nat := 4
  tile : Nat := 0
deriving DecidableEq, Repr

/-- A ring copy (one per handle, or one per Tray for a replicated ring). -/
structure Ring where
  head : Nat := 0
  tail : Nat := 0
  slots : List RSlot := []
deriving DecidableEq, Repr

/-- A buffer-table handle (05 R120 to R127). Rings are keyed by Tray, or by 512 for a plain ring. As a multicast's root (05 R127) it
numbers the tiles sent to each Tray, holds the buffer-free messages not yet combined, as pairs of Tray and tile, and the number of the
next tile that MBOX will count. -/
structure Handle where
  ctx : Nat
  gang : Nat
  base : Nat
  nslot : Nat
  slotsz : Nat
  track : Bool
  cons : Bool
  repl : Bool
  dlvl : Nat
  dom : BitVec 43
  trays : List Nat
  rings : Tbl Ring
  aborted : Bool := false
  mbox : Nat := 0
  popped : Nat := 0
  ringLock : List (Nat × Nat) := []
  sent : Tbl Nat := []
  freed : List (Nat × Nat) := []
  told : Nat := 0
deriving DecidableEq, Repr

/-- A declared tile (07 R152, R154). -/
structure Tile where
  ctx : Nat
  base : Nat
  rows : Nat
  cols : Nat
  pitch : Nat
  fmt : Nat
  run : Nat
deriving DecidableEq, Repr

/-- A barrier (08 R178): members by LCORE, completed generations, arrivals of the present one, phase, and TIME of the last arrival
(17 R407). -/
structure Barrier where
  members : List Nat
  gen : Nat := 0
  arrived : List Nat := []
  phase : Bool := false
  last : Nat := 0
deriving DecidableEq, Repr

/-- A Hearth. `arb` are the pointers of the bank arbiters by bank, `arbUp` those of block switch, quadrant stage and root by level and
bank, `answers` what the last grant at a bank returned, by bank: the inputs served and the value each read (02 R47, R48). -/
structure Hearth where
  locks : Tbl LockE := []
  lands : Tbl LandE := []
  filter : List Nat := []
  stale : List Nat := []
  arb : Tbl Nat := []
  arbUp : Tbl Nat := []
  answers : Tbl (List (Nat × Nat)) := []
  handles : Tbl Handle := []
  tiles : Tbl Tile := []
  facets : Tbl (BitVec 128) := []
  logged : List Nat := []
deriving DecidableEq, Repr

/-- A Tray: Kneader tables, microprogram slots, power state; `spent` is the energy charged to it in each 1,000 ns of TIME that the power
block still looks back at. -/
structure Tray where
  rules : Tbl (BitVec 256) := []
  rmask : Word := 0xFFFFFFFFFFFFFFFF
  cmask : BitVec 8 := 0xFF
  hits : Tbl Nat := []
  uprog : Tbl (BitVec 256) := []
  grant : Nat := 4
  trans : Option (Nat × Nat) := none
  temp : Nat := 25
  hot : Bool := false
  crit : Bool := false
  overBud : Bool := false
  enacc : Nat := 0
  spent : Tbl Nat := []
  bud : Nat := 0
  droop : Option Nat := none
  wd : Bool := false
  arb : Nat := 0
  credit : Nat := 0
deriving DecidableEq, Repr

/-- An L2 line (03 R75): way, valid sectors, byte mask, poisoned sectors. -/
structure L2Line where
  way : Nat
  v : BitVec 4 := 0
  m : BitVec 256 := 0
  poison : BitVec 4 := 0
deriving DecidableEq, Repr

/-- An HBM channel's refresh state (03 R82 to R84) and CHLAT counts: `reads` are the sectors whose reads are pending at its
controller, `others` those that wait at a bank for a requester other than a hart or an engine, with the stamps of their arrival,
`served` those of uncached reads whose data have left it, `stallFrom` is when the first read that waits for the refresh under way
arrived, `allAt` the stamp at the slot that asked for an all-bank refresh: reads that arrived before it go first. -/
structure Chan where
  p : Nat := 0
  owed : Nat := 0
  banks : List Nat := []
  all : Bool := false
  allWait : Bool := false
  reads : List Nat := []
  others : List (Nat × Nat) := []
  served : List Nat := []
  allAt : Nat := 0
  stall : Nat := 0
  stallFrom : Option Nat := none
  forced : Nat := 0
deriving DecidableEq, Repr

/-- An error record (16 R382); `v` is V: its slot holds it. -/
structure ErrRec where
  time : Nat
  addr : Nat
  seq : Nat
  unit : Nat
  sev : Nat
  inj : Bool
  lasting : Bool
  site : Nat
  sub : Nat
  syn : Nat
  cause : Nat
  v : Bool := true
deriving DecidableEq, Repr

/-- A site-table entry (16 R385). -/
structure Site where
  sub : Nat
  site : Nat
  cnt : Nat
  start : Nat
deriving DecidableEq, Repr

/-- An error bank (16 R383, R384). -/
structure ErrBank where
  first : Option ErrRec := none
  latest : Option ErrRec := none
  count : Nat := 0
  overflow : Bool := false
  nack : Bool := false
  seq : Nat := 0
  sites : Tbl Site := []
deriving DecidableEq, Repr

/-- What the Garnet log holds (16 R386): counters by offset, boot count, SUSPTH, suspects by the offset of the counter with the boot count
at marking, and the journal's records, newest last, with the number of records ever written to it. -/
structure GLog where
  counters : Tbl Nat := []
  boot : Nat := 0
  susp : Nat := 256
  suspects : List (Nat × Nat) := []
  journal : List ErrRec := []
  written : Nat := 0
deriving DecidableEq, Repr

/-- The Garnet log: the copy in SRAM and the non-volatile store (16 R386). -/
structure Garnet where
  sram : GLog := {}
  store : GLog := {}
deriving DecidableEq, Repr

/-- How a gang stands (15 R361, 16 R391). -/
inductive GangSt where
  | running | stopping | draining | saved | restoring | poisoned | rolling | rollRestoring
deriving DecidableEq, Repr

/-- An entry of the undo log (16 R389, R390): kind 0 L1 block, 1 facet block, 2 tile entry. -/
structure Undo where
  kind : Nat
  hearth : Nat
  index : Nat
  bytes : List Nat
  tags : List Nat
  tile : Option Tile
deriving DecidableEq, Repr

/-- Rollback state of a gang (16 R389 to R391): ROLLCFG when it was placed (R388), the undo log, the logged bits set for it by Hearth and
unit, the set that holds the current snapshot, and snapshots of harts by LCORE, of the gang's barriers and of its logical Trays. -/
structure Roll where
  cfg : Word := 0
  retry : Nat := 0
  noundo : Bool := false
  log : List Undo := []
  marks : List (Nat × Nat) := []
  set : Nat := 0
  cur : Tbl Hart := []
  next : Tbl Hart := []
  curBars : Tbl Barrier := []
  curTrayBars : Tbl Barrier := []
  curTrays : Tbl Tray := []
deriving DecidableEq, Repr

/-- A gang in flight (08 R170 to R179, R188). `cores` lists the physical core of each logical number; `hearths` the Hearth of each
logical Tray when it was saved; `savedOps` the operations a saved image owns, by
their key in the table of operations, with the LCORE and the OPN slot of each; `savedTick` numbers the open bytes of its image; `stopLater` is a stop that waits for a rollback to end (16 R391). -/
structure Gang where
  ctx : Nat
  lrec : BitVec 512
  st : GangSt := .running
  mset : Bool := false
  prio : Nat := 0
  size : Nat := 0
  handle : Nat := 0
  cores : List Nat := []
  trayBars : Tbl Barrier := []
  opalAt : Nat := 0
  opalBlack : Bool := false
  terminated : Bool := false
  stopAt : Nat := 0
  placedAt : Nat := 0
  image : Option Nat := none
  hearths : List Nat := []
  roll : Option Roll := none
  saved : Tbl Hart := []
  savedTrays : Tbl Tray := []
  savedBars : Tbl Barrier := []
  savedOps : List (Nat × Nat × Nat) := []
  savedAt : Nat := 0
  savedTick : Nat := 0
  forced : Bool := false
  stopLater : Bool := false
deriving DecidableEq, Repr

/-- A queued launch (15 R356): record, launching context and gang, and whether it came from the host. -/
structure Launch where
  lrec : BitVec 512
  ctx : Nat
  parent : Option Nat
  host : Bool
deriving DecidableEq, Repr

/-- A candidate of the placement transaction (15 R356). -/
inductive Cand where
  | launch (l : Launch)
  | restore (gang : Nat)
deriving DecidableEq, Repr

/-- The state of the placement transaction (15 R359). -/
inductive TxnSt where
  | idle | select | reserve | commit | wake
deriving DecidableEq, Repr

/-- The placement transaction: candidate, plan (physical Trays by logical Tray, or the die of a Miller set), Trays reserved
so far, the gang being woken, and one more than the highest PRIO that arrived during RESERVE. -/
structure Txn where
  st : TxnSt := .idle
  cand : Option Cand := none
  prio : Nat := 0
  plan : List Nat := []
  reserved : List Nat := []
  gang : Nat := 0
  arrive : Nat := 0
deriving DecidableEq, Repr

/-- A launch or a restored gang of higher PRIO has arrived during RESERVE (15 R359). -/
def Txn.superseded (t : Txn) : Bool := decide (t.prio + 1 < t.arrive)

/-- The Distributor (15): launch queues and restore lists by 8 * context + PRIO, the context served last by PRIO, the transaction,
and the Trays that preemption frees for a candidate, with the number of the candidate's queue or list (a Miller set's die as 1024 and
its number). -/
structure Dist where
  queues : Tbl (List Launch) := []
  restores : Tbl (List Nat) := []
  served : Tbl Nat := []
  txn : Txn := {}
  held : Tbl Nat := []
  everPlaced : Bool := false
  dev : Nat := 0
deriving DecidableEq, Repr

/-- The power block (17 R398 to R407); `window` counts the 1 ms windows of TIME that have ended, `carry` is the energy that the controller
has moved into the present one (log 47), `dieSpent` the energy charged to each die in each 1,000 ns, and `advert` the step that the device
advertises to its peers while it is THROTTLED. -/
structure Power where
  table : Tbl Nat := []
  pcap : Nat := 100
  droophold : Nat := 0
  ovsh : Nat := 0
  capstep : Nat := 15
  slkstep : Nat := 15
  throttled : Bool := false
  droops : Nat := 0
  wover : Nat := 0
  dieAcc : Tbl Nat := []
  dieSpent : Tbl (Tbl Nat) := []
  carry : Nat := 0
  lastSlk : Nat := 0
  peerFloor : Tbl Nat := []
  advert : Option Nat := none
  window : Nat := 0
deriving DecidableEq, Repr

/-- The state of an IxLink port (18 R415). -/
inductive LinkSt where
  | down | train | negotiate | active
deriving DecidableEq, Repr

/-- An IxLink port; retry is set while the 1 ms delay after a failed training runs. -/
structure Link where
  st : LinkSt := .down
  lanes : Nat := 0
  retry : Bool := false
deriving DecidableEq, Repr

/-- A COPY that the Distributor's copy engine has begun (18 R412): its frame and fields, the bytes read, and those of a piece that are read
and not written (04 R99). -/
structure HostCopy where
  frame : Frame
  dev : Nat
  off : Nat
  len : Nat
  toDevice : Bool
  done : Nat := 0
  rest : List Host.Cell := []
deriving DecidableEq, Repr

/-- Host side: window bindings by page, ports, frames sent, THROTTLED advertisements sent to peers by port (17 R407, 18 R414), COPY commands
under way, boot state (18): `fwTable` is the digest of the energy
table that firmware loaded, `measuredAt` the TIME of the measurements made at boot, and the fuses hold a version and the digests of two
keys. -/
structure HostSt where
  binds : Tbl Nat := []
  links : Tbl Link := []
  ports : Tbl Bool := []
  out : List Msg := []
  adverts : List (Nat × Option Nat) := []
  copies : List HostCopy := []
  recovery : Bool := false
  fwVersion : Nat := 0
  fwDigest : Nat := 0
  fwTable : Nat := 0
  measuredAt : Nat := 0
  fuseVersion : Nat := 0
  fuseRsa : Nat := 0
  fuseSlh : Nat := 0
deriving DecidableEq, Repr

/-- What a TLBINV write invalidates (01 R38): everything, a context, or the pages from `page` on, `count` more than one. -/
inductive Inval where
  | all
  | context (c : Nat)
  | pages (c page count : Nat)
deriving DecidableEq, Repr

/-- A shootdown in progress (01 R39): its stamp, what it invalidates, the units that have not acknowledged. -/
structure Shoot where
  stamp : Nat
  what : Inval
  units : List Nat
deriving DecidableEq, Repr

/-- A line that the loader has been asked for (18 R422), by the hart on a core. -/
structure LdReq where
  stamp : Nat
  hart : Nat
  ctx : Nat
  line : Word
deriving DecidableEq, Repr

/-- Whose turn an agenda entry gives: a hart's, an event of a unit, a reset, which alone moves a stopped module, or the fixing of a
location's bytes for a later load on core n (04 R92), or by the odd core of a pair (14 R347). -/
inductive Turn where
  | hart (n : Nat)
  | event (i : Instr)
  | boot (img : BootImage)
  | early (n k len : Nat)
deriving DecidableEq, Repr

/-- The module. Of the storage codes (16 R379): `poisonW` and `poisonS` are the poisoned L1 words and HBM sectors, `flips` the bits that
are flipped in an L1 word and `flipF` those in F0 of a facet record (by Hearth and record), `injW` and `injS` the L1 words and HBM
sectors whose poison ERRINJ planted (14 R355). `peerRest` are the word lanes of accepted host and peer stores that are still on their
way (02 R43, R63). -/
structure Mod where
  mem : List Host.Cell := []
  tags : List Nat := []
  poisonW : List Nat := []
  poisonS : List Nat := []
  flips : Tbl (BitVec 64) := []
  flipF : Tbl (BitVec 32) := []
  injW : List Nat := []
  injS : List Nat := []
  ctxs : Tbl Ctx := []
  hearths : Tbl Hearth := []
  trays : Tbl Tray := []
  ops : Tbl EngOp := []
  tlb : Tbl (Tbl TlbE) := []
  tlbLru : Tbl (BitVec 7) := []
  walks : Tbl (List TlbE) := []
  l2 : Tbl L2Line := []
  plru : Tbl (BitVec 15) := []
  chans : Tbl Chan := []
  banks : Tbl ErrBank := []
  garnet : Garnet := {}
  gangs : Tbl Gang := []
  bars : Tbl Barrier := []
  dist : Dist := {}
  wakes : List WakeMsg := []
  sends : List SendMsg := []
  peerRest : List PeerReq := []
  ldreqs : List LdReq := []
  shoot : Option Shoot := none
  power : Power := {}
  host : HostSt := {}
  parkedPair : Tbl Hart := []
  checkpoint : Tbl Hart := []
  stopped : Bool := false
  now : Nat := 0
  timeBase : Nat := 0
  mxStamp : Nat := 0
  timeRef : Nat := 0
  ppm : Int := 0
deriving DecidableEq, Repr

/-- The state: the hart whose turn it is with its physical number, the other harts, the module, what the spec leaves to time and
arbitration (log 4, log 5): the turns to come (agenda), extra cycles (delays), the pieces of a wide access that one turn performs
(splits; all of them where the list is empty) and whether a read stays pending at its channel (pends); the count of the free values
(tick); and how many turns of waiting harts have passed without another step (idleTurns). -/
structure State where
  hart : Hart := {}
  cur : Nat := 0
  parked : Tbl Hart := []
  m : Mod := {}
  agenda : List Turn := []
  delays : List Nat := []
  splits : List (List Nat) := []
  pends : List Bool := []
  tick : Nat := 0
  idleTurns : Nat := 0
deriving DecidableEq, Repr

/-- Why the machine itself stops. -/
inductive Fault where
  /-- An event named a memory location, core or unit that the spec says does not exist; raised by the events whose operands
  are physical numbers. Safe: the hardware has no such step. -/
  | noSuchUnit
deriving DecidableEq, Repr

/-- Why a step has no meaning. -/
inductive Refusal where
  /-- The instruction has no meaning yet; raised by the dispatch alone. Safe. -/
  | notModelled (mnemonic : String)
deriving DecidableEq, Repr

/-- The machine right after reset: every register at the value its map states, or at the value that the assumption log
names; memory, tables and queues empty; no hart placed. -/
def State.reset : State := {}

end Sys2Proof.Machine
end

