-- ==== Sys2Proof/Machine/Ops.lean ====
section
/-! DEFINITION. The named operations of a hart: tables, registers and the scoreboard (09 R199), retiring (09 R193, R198), traps
and the return from them (14 R333, 16 R373 to R376), time and counters (14 R340, R349). -/

namespace Sys2Proof.Machine

/-! ## Tables -/

/-- The value of a key, or the value an unlisted key stands for. -/
def tget {α : Type} (d : α) (t : Tbl α) (k : Nat) : α :=
  match t with
  | [] => d
  | (i, x) :: r => if i = k then x else tget d r k

/-- The value of a key, if listed. -/
def tget? {α : Type} (t : Tbl α) (k : Nat) : Option α :=
  match t with
  | [] => none
  | (i, x) :: r => if i = k then some x else tget? r k

/-- The table with a key set, kept in ascending order of keys. -/
def tset {α : Type} (t : Tbl α) (k : Nat) (x : α) : Tbl α :=
  match t with
  | [] => [(k, x)]
  | (i, y) :: r => if i = k then (k, x) :: r else if k < i then (k, x) :: (i, y) :: r else (i, y) :: tset r k x

/-- The table without a key. -/
def tdel {α : Type} (t : Tbl α) (k : Nat) : Tbl α := t.filter (fun e => e.1 != k)

/-- The table with the value of a key changed. -/
def tmod {α : Type} (d : α) (t : Tbl α) (k : Nat) (f : α → α) : Tbl α := tset t k (f (tget d t k))

/-- The lowest number below n that is not a key. -/
def tfree {α : Type} (t : Tbl α) (n : Nat) : Option Nat := (List.range n).find? (fun k => (tget? t k).isNone)

/-- The set of numbers as an ascending list, with one more. -/
def sadd (l : List Nat) (x : Nat) : List Nat :=
  match l with
  | [] => [x]
  | y :: r => if x = y then y :: r else if x < y then x :: y :: r else y :: sadd r x

/-- The set without a number. -/
def sdel (l : List Nat) (x : Nat) : List Nat := l.filter (· != x)

/-! ## How an instruction ends -/

/-- Why an instruction does not complete: a synchronous trap (cause, EVAL, EINFO), or a wait, which is a safe point or not and
which the counters see as cycles of the event `ev` (14 R350); each with the state as it then stands. -/
inductive Stop where
  | trap (cause : Nat) (val info : Word) (s : State)
  | wait (safe : Bool) (ev : Nat) (s : State)

/-- The outcome of an operation that may trap or wait. -/
abbrev R (α : Type) := Except Stop α

/-- Raise a trap. -/
def raise {α : Type} (s : State) (cause : Nat) (val info : Word) : R α := .error (.trap cause val info s)

/-- Raise a trap unless a condition holds. -/
def guardTrap (ok : Bool) (s : State) (cause : Nat) (val info : Word) : R Unit :=
  if ok then .ok () else .error (.trap cause val info s)

/-- Wait unless a condition holds. -/
def guardWait (ok safe : Bool) (s : State) : R Unit := if ok then .ok () else .error (.wait safe 0x10 s)

/-- Wait at a barrier, in WFW or in TASK.TAKE unless a condition holds: an implicit safe point. -/
def guardSync (ok : Bool) (s : State) : R Unit := if ok then .ok () else .error (.wait true 0x16 s)

/-- Run one operation after another on a list. -/
def forR {α β : Type} (f : β → α → R β) (init : β) (l : List α) : R β :=
  match l with
  | [] => .ok init
  | x :: r =>
    match f init x with
    | .ok y => forR f y r
    | .error e => .error e

/-! ## Shapes of the machine (00 R2, 02 R45, 03 R69) -/

/-- The core is a Miller. -/
def isMillerNo (core : Nat) : Bool := decide (4096 ≤ core)

/-- The Hearth, which is the die, of a core. -/
def dieOf (core : Nat) : Nat := if core < 4096 then core / 1024 else (core - 4096) / 64

/-- The module-wide Tray number of a compute core. -/
def trayOf (core : Nat) : Nat := core / 8

/-- The error-bank unit of a core (16 R381). -/
def unitOf (core : Nat) : Nat := if core < 4096 then core / 8 else 0x200 + (core - 4096)

/-- The hart whose turn it is runs on a Miller. -/
def State.miller (s : State) : Bool := isMillerNo s.cur

/-- Its Hearth. -/
def State.die (s : State) : Nat := dieOf s.cur

/-! ## State access -/

/-- Change the hart whose turn it is. -/
def State.onHart (s : State) (f : Hart → Hart) : State := { s with hart := f s.hart }

/-- Change the module. -/
def State.onMod (s : State) (f : Mod → Mod) : State := { s with m := f s.m }

/-- A hart by physical number. -/
def State.hartAt (s : State) (n : Nat) : Hart := if n = s.cur then s.hart else tget {} s.parked n

/-- The state with a hart by physical number replaced. -/
def State.setHartAt (s : State) (n : Nat) (h : Hart) : State :=
  if n = s.cur then { s with hart := h } else { s with parked := tset s.parked n h }

/-- Change a hart by physical number. -/
def State.modHart (s : State) (n : Nat) (f : Hart → Hart) : State := s.setHartAt n (f (s.hartAt n))

/-- Give the turn to another hart. -/
def State.switchTo (s : State) (n : Nat) : State :=
  if n = s.cur then s else { s with hart := tget {} s.parked n, cur := n, parked := tset (tdel s.parked n) s.cur s.hart }

/-- The physical numbers of the harts that the state lists. -/
def State.cores (s : State) : List Nat := sadd (s.parked.map (·.1)) s.cur

/-- A context. -/
def State.ctx (s : State) (n : Nat) : Ctx := tget {} s.m.ctxs n
/-- Change a context. -/
def State.modCtx (s : State) (n : Nat) (f : Ctx → Ctx) : State := s.onMod fun m => { m with ctxs := tmod {} m.ctxs n f }
/-- A Hearth. -/
def State.hearth (s : State) (n : Nat) : Hearth := tget {} s.m.hearths n
/-- Change a Hearth. -/
def State.modHearth (s : State) (n : Nat) (f : Hearth → Hearth) : State := s.onMod fun m => { m with hearths := tmod {} m.hearths n f }
/-- A Tray. -/
def State.tray (s : State) (n : Nat) : Tray := tget {} s.m.trays n
/-- Change a Tray. -/
def State.modTray (s : State) (n : Nat) (f : Tray → Tray) : State := s.onMod fun m => { m with trays := tmod {} m.trays n f }
/-- A gang in flight. -/
def State.gang? (s : State) (n : Nat) : Option Gang := tget? s.m.gangs n
/-- Change a gang in flight. -/
def State.modGang (s : State) (n : Nat) (f : Gang → Gang) : State :=
  match tget? s.m.gangs n with
  | some g => s.onMod fun m => { m with gangs := tset m.gangs n (f g) }
  | none => s

/-! ## Levels -/

/-- The encoding of a level in STATUS (14 R336). -/
def Level.num : Level → Nat
  | .u => 0
  | .k => 1
  | .f => 2

/-- The level a PPL value stands for; a write of 3 stores 2 (14 R336). -/
def Level.ofNum (n : Nat) : Level := if n = 0 then .u else if n = 1 then .k else .f

/-- The bank a level's traps write. -/
def Hart.bank (h : Hart) (l : Level) : Bank := if l = .f then h.fb else h.kb

/-- The hart with a level's bank replaced. -/
def Hart.setBank (h : Hart) (l : Level) (b : Bank) : Hart := if l = .f then { h with fb := b } else { h with kb := b }

/-! ## Time as units read it -/

/-- The units of the clocks in 40 ns (17 R401; log 5): the least number that the frequency of every operating step, in units of 25 MHz,
divides, so that a cycle at each of them has a whole number of units. -/
def clockUnits : Nat := 56357124304440960
/-- The units of a nanosecond. -/
def nsUnits : Nat := clockUnits / 40
/-- The units of a nominal mclk cycle, of 2.6 GHz. -/
def mclkUnits : Nat := clockUnits / 104

/-- TIME at a moment of the module's clock, in ns: the time base with the rate 802.1AS has set (14 R340, 18 R413). -/
def Mod.timeAt (m : Mod) (units : Nat) : Nat :=
  m.timeBase + ((units - m.timeRef) * (1000000 + m.ppm).toNat) / (nsUnits * 1000000)

/-- TIME as a unit of the module reads it. -/
def State.nowNs (s : State) : Nat := s.m.timeAt s.m.now

/-- TIME as every hart reads it: one time for the module (00 R3, 14 R340). -/
def State.time (s : State) : Word := w64 s.nowNs

/-- The module with its clock at a TIME, unless it is past it. -/
def Mod.reach (m : Mod) (ns : Nat) : Mod :=
  if ns ≤ m.timeAt m.now then m
  else
    let k := (1000000 + m.ppm).toNat
    { m with now := max m.now (m.timeRef + ((ns - m.timeBase) * (nsUnits * 1000000) + k - 1) / k) }

/-! ## Error banks, Garnet log and reports (16 R378, R381 to R387) -/

/-- The bytes of an error record as a 256-bit number (16 R382); `unit` is the bank's. -/
def ErrRec.word (r : ErrRec) : Nat :=
  r.time % 2 ^ 64 + (r.addr % 2 ^ 64) * 2 ^ 64 + (r.seq % 2 ^ 16) * 2 ^ 128 + (r.unit % 2 ^ 16) * 2 ^ 144
    + (r.sev % 4 + 4 * b2n r.inj + 8 * b2n r.lasting + 16 * b2n r.v) * 2 ^ 160 + (r.site % 256) * 2 ^ 168 + (r.sub % 2 ^ 16) * 2 ^ 176
    + (r.syn % 2 ^ 16) * 2 ^ 192 + (r.cause % 256) * 2 ^ 208

/-- A frame to the host (18 R411, R412). -/
def State.toHost (s : State) (msg : Msg) : State :=
  s.onMod fun m => { m with host := { m.host with out := m.host.out ++ [msg] } }

/-- A CCP event to the host. -/
def State.hostEvent (s : State) (ctx : Nat) (body : List Nat) : State :=
  s.toHost { typ := 8, ctx := ctx, seq := 0, event := true, status := 0, body := body, stamp := s.nowNs }

/-- The site table's answer to an error of SEV 0 (16 R385): the table, and the site's CNT. -/
def ErrBank.sited (b : ErrBank) (sub site t : Nat) : Tbl Site × Nat :=
  match b.sites.find? (fun e => e.2.sub == sub && e.2.site == site) with
  | some (k, e) =>
    if t - e.start < 10000000 then
      let n := min (e.cnt + 1) 15
      (tset b.sites k { e with cnt := n }, n)
    else (tset b.sites k { e with start := t, cnt := 1 }, 1)
  | none =>
    let k := match tfree b.sites 16 with
      | some k => k
      | none => (b.sites.foldl (fun (a : Nat × Nat) e => if e.2.start < a.2 then (e.1, e.2.start) else a) (0, 2 ^ 64)).1
    (tset b.sites k { sub := sub, site := site, cnt := 1, start := t }, 1)

/-- The record that FIRST or LATEST holds with V = 1. -/
def held? (r : Option ErrRec) : Option ErrRec := r.filter (·.v)

/-- Log (16 R384). -/
def ErrBank.log (b : ErrBank) (r : ErrRec) : ErrBank :=
  let q := (b.seq + 1) % 65536
  let r := { r with seq := q }
  let b := { b with seq := q }
  let b := match held? b.first with
    | none => { b with first := some r }
    | some f =>
      if f.sev < r.sev then { b with first := some r, overflow := true }
      else if b.latest.map ErrRec.seq != some f.seq then { b with overflow := true }
      else b
  { b with latest := some r, count := min (b.count + 1) 255 }

/-- WriteAck (16 R384). -/
def ErrBank.ack (b : ErrBank) (v : Nat) : ErrBank :=
  let clear (r : Option ErrRec) : Option ErrRec := r.map fun r => { r with v := false }
  if v % 65536 = b.seq then { b with first := clear b.first, latest := clear b.latest, count := 0, overflow := false } else { b with nack := true }

/-- The HBM bank of a physical address, by channel and bank (03 R70 to R72). -/
def hbmBankNo (pa : Nat) : Nat :=
  if pa < 0x400000000000 then (bits pa 19 12 ^^^ bits pa 24 20) * 16 + (bits pa 45 20 * 4096 + pa % 4096) / 1024 % 16
  else (pa - 0x400000000000) / 0x80000000 % 256 * 16 + (pa - 0x400000000000) % 0x80000000 / 1024 % 16

/-- The Garnet counters of a record, by offset in the store (16 R386): of its site, whichever unit logs it. -/
def garnetOf (unit site sub addr : Nat) : List Nat :=
  if site = 6 ∧ unit < 512 then [0x1000 + 2 * (64 * unit + sub % 64)]
  else if site = 0 then [0x11000 + 2 * (8192 * (addr / 0x4000000 % 4) + addr / 8 % 8192)]
  else if site = 2 then [0x21000 + 2 * (if 0x300 ≤ unit ∧ unit < 0x500 then 16 * (unit % 256) + sub % 16 else hbmBankNo addr)]
  else if site = 8 ∧ unit < 512 then [0x23000 + 2 * (8 * unit + sub % 8 / 2 * 2), 0x23000 + 2 * (8 * unit + sub % 8 / 2 * 2 + 1)]
  else if site = 7 ∧ 0x508 ≤ unit ∧ unit < 0x518 then [0x25000 + 2 * (8 * (unit - 0x508) + sub % 8)]
  else if site = 7 ∧ 0x518 ≤ unit ∧ unit < 0x51A then [0x25100 + 2 * (8 * (unit - 0x518) + sub % 8)]
  else []

/-- The unit whose counter lies at an offset of the store (16 R381, R386). -/
def garnetUnit (off : Nat) : Nat :=
  if off < 0x11000 then (off - 0x1000) / 128
  else if off < 0x21000 then (off - 0x11000) / 128
  else if off < 0x23000 then 0x300 + (off - 0x21000) / 32
  else if off < 0x25000 then (off - 0x23000) / 16
  else if off < 0x25100 then 0x508 + (off - 0x25000) / 16
  else 0x518 + (off - 0x25100) / 16

/-- Records that the journal holds (16 R386). -/
def journalCap : Nat := 126080

/-- The journal takes a record. -/
def GLog.note (g : GLog) (r : ErrRec) : GLog :=
  { g with journal := (g.journal ++ [r]).drop (g.journal.length + 1 - journalCap), written := g.written + 1 }

/-- A counter that has reached SUSPTH makes its unit a suspect, once (16 R387); whether it is new. -/
def GLog.suspect (g : GLog) (off : Nat) : GLog × Bool :=
  if g.susp ≤ tget 0 g.counters off ∧ !(g.suspects.any (·.1 == off)) ∧ g.suspects.length < 512 then
    ({ g with suspects := g.suspects ++ [(off, g.boot)] }, true)
  else (g, false)

/-- A counter counts a record (16 R386, R387); whether its unit is a new suspect, which the journal notes. -/
def GLog.count (g : GLog) (r : ErrRec) (off : Nat) : GLog × Bool :=
  match ({ g with counters := tset g.counters off (min (tget 0 g.counters off + 1) 65535) } : GLog).suspect off with
  | (g, true) => (g.note r, true)
  | p => p

/-- Change the SRAM copy of the Garnet log. -/
def State.modGarnet (s : State) (f : GLog → GLog) : State := s.onMod fun m => { m with garnet := { m.garnet with sram := f m.garnet.sram } }

/-- A unit detects an error: the record goes to its bank, to its Garnet counters, and where it is lasting or makes a suspect to
the journal; the host learns of a site whose CNT reaches 4 and of a suspect (16 R384 to R387). -/
def State.logErr (s : State) (unit sev site sub addr syn cause : Nat) (inj : Bool) : State :=
  let b := tget {} s.m.banks unit
  let t := s.nowNs
  let (sites, cnt) := if sev = 0 then b.sited sub site t else (b.sites, 0)
  let r : ErrRec := { time := t, addr := addr, seq := (b.seq + 1) % 65536, unit := unit, sev := sev, inj := inj, lasting := decide (4 ≤ cnt), site := site, sub := sub, syn := syn, cause := cause }
  let s := s.onMod fun m => { m with banks := tset m.banks unit ({ b with sites := sites }.log r) }
  let s := if 4 ≤ cnt then s.modGarnet (·.note r) else s
  let s := if cnt = 4 then s.hostEvent 0 [r.word] else s
  (garnetOf unit site sub addr).foldl (fun s off =>
    let (g, new) := s.m.garnet.sram.count r off
    let s := s.modGarnet fun _ => g
    if new then s.hostEvent 0 [r.word] else s) s

/-- The hart holds a placed program, running or waiting. -/
def Hart.placed (h : Hart) : Bool := h.place == .placed || h.place == .parked

/-- The placed harts of a gang, by core in the order of LCORE. -/
def State.running (s : State) (gang : Nat) : List Nat :=
  match s.gang? gang with
  | some g => if g.st = .running ∨ g.st = .stopping ∨ g.st = .rolling then g.cores.filter (fun c => (s.hartAt c).placed) else []
  | none => []

/-- The hart that takes a report about a gang's operation issued by a hart on core `core` (16 R378). -/
def State.reportTo (s : State) (ctx gang core : Nat) : Option Nat :=
  let r := s.running gang
  if r.contains core then some core
  else match r with
    | c :: _ => some c
    | [] =>
      (s.m.gangs.filter (fun g => g.2.ctx == ctx)).findSome? fun g => (s.running g.1).head?

/-- Deliver a report of a context (16 R378): to a hart, or to the context's queue of 16, and then to the host too. -/
def State.report (s : State) (ctx gang core : Nat) (a : Async) : State :=
  match s.reportTo ctx gang core with
  | some c => s.modHart c fun h => { h with asy := h.asy ++ [a] }
  | none =>
    let q := (s.ctx ctx).reports
    let s := if q.length < 16 then s else s.logErr 0x51A 0 9 0 0 0 0xFF false
    (s.modCtx ctx fun c => { c with reports := (c.reports ++ [a]).drop (c.reports.length + 1 - 16) }).hostEvent ctx [a.cause, a.val.toNat, a.info.toNat]

/-! ## CRC-32C -/

/-- One bit of CRC-32C, reflected. -/
def crcBit (c : BitVec 32) : BitVec 32 := if c.getLsbD 0 then (c >>> 1) ^^^ 0x82F63B78#32 else c >>> 1

/-- n bits of CRC-32C. -/
def crcBits : Nat → BitVec 32 → BitVec 32
  | 0, c => c
  | n + 1, c => crcBits n (crcBit c)

/-- The low n bytes of a number, least significant first, into a CRC-32C. -/
def crcBytes : Nat → BitVec 32 → Nat → BitVec 32
  | 0, c, _ => c
  | n + 1, c, x => crcBytes n (crcBits 8 (c ^^^ BitVec.ofNat 32 (x % 256))) (x / 256)

/-- An 8-byte little-endian value into a CRC-32C. -/
def crcWord (c : BitVec 32) (x : Word) : BitVec 32 := crcBytes 8 c x.toNat

/-! ## Registers and the scoreboard (09 R199) -/

/-- An integer result (10 R218). -/
def untagged (x : Word) : Cap := { addr := x }

/-- The value read past results whose latency is not met: of the list, youngest first, the value before the youngest entry
older than which every entry is unmet or absent (09 R199, third row). -/
def staleC (p : Pend) (older : List Pend) : Cap :=
  match older with
  | [] => p.prevC
  | q :: r => if q.lat ≤ q.dist then p.prevC else staleC q r

/-- The same for a v-register. -/
def staleV (p : Pend) (older : List Pend) : Vec :=
  match older with
  | [] => p.prevV
  | q :: r => if q.lat ≤ q.dist then p.prevV else staleV q r

/-- The pending results of one register, youngest first. -/
def Hart.pendOf (h : Hart) (vec : Bool) (r : Nat) : List Pend := h.pend.filter (fun p => p.vec == vec && p.reg == r)

/-- The value a c-register reads as; c0 is an untagged zero (09 R194). -/
def Hart.rc (h : Hart) (r : CReg) : Cap :=
  if r = 0 then {}
  else
    match h.pendOf false r.val with
    | [] => h.c[r]
    | p :: older => if p.lat ≤ p.dist then h.c[r] else staleC p older

/-- The value a v-register reads as, streams apart. -/
def Hart.rv (h : Hart) (r : VReg) : Vec :=
  match h.pendOf true r.val with
  | [] => h.v[r]
  | p :: older => if p.lat ≤ p.dist then h.v[r] else staleV p older

/-- A c-register of the hart whose turn it is. -/
def State.rc (s : State) (r : CReg) : Cap := s.hart.rc r
/-- Its ADDR. -/
def State.ra (s : State) (r : CReg) : Word := (s.hart.rc r).addr
/-- A v-register of the hart whose turn it is. -/
def State.rv (s : State) (r : VReg) : Vec := s.hart.rv r

/-- The STALL_SHORT of a read that comes too early: EVAL and EINFO (09 R202). -/
def Hart.short (h : Hart) (vec : Bool) (r : Nat) : Option (Word × Word) :=
  match h.pendOf vec r with
  | [] => none
  | p :: _ => if p.lat ≤ p.dist then none else some (w64 (r + 32 * b2n vec), w64 (p.lat - p.dist + 0x100 * p.major))

/-- The first STALL_SHORT among registers read. -/
def Hart.firstShort (h : Hart) (l : List (Bool × Nat)) : Option (Word × Word) :=
  match l with
  | [] => none
  | (vec, r) :: rest =>
    match h.short vec r with
    | some e => some e
    | none => h.firstShort rest

/-- EINFO of UE_CONSUMED (16 R380). -/
def ueInfo (kind : Nat) (user : Bool) (site unit : Nat) (imp : Bool) : Word :=
  w64 (kind + 8 * b2n user + 0x10 * site + 0x4000 * b2n imp + 0x10000 * unit)

/-- The hart runs at level U. -/
def State.user (s : State) : Bool := s.hart.lvl == .u

/-- A gang begins to roll back (16 R391); a stop requested before follows the rollback. -/
def State.beginRoll (s : State) (gang : Nat) : State :=
  s.modGang gang fun g => { g with st := .rolling, stopLater := g.stopLater || g.st == .stopping || g.st == .draining }

/-- A hart consumes poisoned data (16 R380, 03 R76): the record of SEV 2 in its unit's bank and UE_CONSUMED; in a gang with
rollback the gang begins to roll back and the hart waits, or takes ROLLBACK_LIMIT (16 R391). -/
def ueStop {α : Type} (s : State) (kind site sub addr : Nat) (inj : Bool) (va : Word) : R α :=
  let unit := unitOf s.cur
  let info := ueInfo kind s.user site unit false
  let log (cause : Nat) : State := s.logErr unit 2 site sub addr 0 cause inj
  match (s.gang? s.hart.gang).bind (·.roll) with
  | none => raise (log 0x40) 0x40 va info
  | some r =>
    if r.noundo then raise (log 0x41) 0x41 va (info + 0x100)
    else if 3 ≤ r.retry then raise (log 0x41) 0x41 va info
    else .error (.wait false 0x10 ((log 0xFF).beginRoll s.hart.gang))

/-- The registers an instruction reads are ready: with CHK = 1 every fixed-class result has met its latency, else STALL_SHORT
(09 R199, R202); an entry with bad parity is consumed (16 R379, R380). Register r of the c-file is (false, r), of the v-file
(true, r). -/
def State.ready (s : State) (l : List (Bool × Nat)) : R Unit :=
  let rs := l.filter (fun e => e != (false, 0))
  match if s.hart.ctl.chk then s.hart.firstShort rs else none with
  | some (v, i) => raise s 0x03 v i
  | none =>
    if rs.any (fun e => s.hart.poison.contains (e.2 + 32 * b2n e.1)) then ueStop s 0 3 (s.cur % 8) 0 false 0
    else .ok ()

/-- Reading c-registers only. -/
def State.readyC (s : State) (l : List CReg) : R Unit := s.ready (l.map fun r => (false, r.val))

/-- What a paired stream notes of a c-register write for its fingerprint (16 R394). -/
def noteC (r : CReg) (x : Cap) : List Word := [x.addr, x.md, w64 (0x100 * b2n x.tag + r.val)]

/-- What it notes of a v-register write. -/
def noteV (r : VReg) (x : Vec) : List Word :=
  (List.range 8).map (fun i => w64 (x.toNat / 2 ^ (64 * i))) ++ [w64 (0x80 + r.val)]

/-- Note values for the fingerprint while the core runs a paired stream. -/
def Hart.note (h : Hart) (l : List Word) : Hart :=
  if h.pair.on then { h with pair := { h.pair with notes := h.pair.notes ++ l } } else h

/-- Write a c-register with a result that is at once complete (class ALU, or interlocked); c0 discards it (09 R194, R218). -/
def Hart.setC (h : Hart) (r : CReg) (x : Cap) : Hart :=
  if r = 0 then h
  else
    ({ h with
      c := h.c.set r x
      pend := h.pend.filter (fun p => p.vec || p.reg != r.val)
      poison := sdel h.poison r.val }).note (noteC r x)

/-- Write a c-register with a fixed-class result of latency above 1. -/
def Hart.setCFix (h : Hart) (r : CReg) (x : Cap) (lat major : Nat) : Hart :=
  if r = 0 then h
  else
    ({ h with
      c := h.c.set r x
      pend := { vec := false, reg := r.val, lat := lat, dist := 0, major := major, prevC := h.c[r], prevV := 0 } :: h.pend
      poison := sdel h.poison r.val }).note (noteC r x)

/-- Write a v-register with a complete result. -/
def Hart.setV (h : Hart) (r : VReg) (x : Vec) : Hart :=
  ({ h with
    v := h.v.set r x
    pend := h.pend.filter (fun p => !p.vec || p.reg != r.val)
    poison := sdel h.poison (r.val + 32) }).note (noteV r x)

/-- Write a v-register with a fixed-class result. -/
def Hart.setVFix (h : Hart) (r : VReg) (x : Vec) (lat major : Nat) : Hart :=
  ({ h with
    v := h.v.set r x
    pend := { vec := true, reg := r.val, lat := lat, dist := 0, major := major, prevC := {}, prevV := h.v[r] } :: h.pend
    poison := sdel h.poison (r.val + 32) }).note (noteV r x)

/-- Write a c-register of the hart whose turn it is. -/
def State.setC (s : State) (r : CReg) (x : Cap) : State := s.onHart (·.setC r x)
/-- Write an integer result. -/
def State.setX (s : State) (r : CReg) (x : Word) : State := s.setC r (untagged x)

/-- Time passes for the scoreboard: every distance grows by d; results whose latency is met no longer wait, and with each the
older results of its register, which `met` lists (09 R199). -/
def agePend (d : Nat) (met : List (Bool × Nat)) (l : List Pend) : List Pend :=
  match l with
  | [] => []
  | p :: r =>
    if met.contains (p.vec, p.reg) then agePend d met r
    else if p.lat ≤ p.dist + d then agePend d ((p.vec, p.reg) :: met) r
    else { p with dist := p.dist + d } :: agePend d met r

/-! ## Time (14 R340, 17 R401) -/

/-- The voltage of an operating step in millivolts and its frequency in MHz (17 R401). -/
def opPoint (step : Nat) : Nat × Nat :=
  match step with
  | 0 => (400, 1300) | 1 => (412, 1625) | 2 => (424, 1950) | 3 => (437, 2275) | 4 => (450, 2600) | 5 => (462, 2650) | 6 => (474, 2700)
  | 7 => (486, 2750) | 8 => (498, 2800) | 9 => (510, 2850) | 10 => (522, 2900) | 11 => (534, 2950) | 12 => (546, 3000)
  | 13 => (558, 3050) | 14 => (570, 3100) | _ => (580, 3200)

/-- The length of a core cycle at a step, in units of the clocks. -/
def cycleUnits (step : Nat) : Nat := clockUnits / ((opPoint step).2 / 25)

/-- The step a core's clock follows: its Tray's, the lower of the two during a transition (17 R402); a Miller's is the
nominal one (03 R68). -/
def State.coreStep (s : State) (core : Nat) : Nat :=
  if core < 4096 then
    let t := s.tray (trayOf core)
    match t.trans with
    | some (target, _) => min t.grant target
    | none => t.grant
  else 4

/-- The thermal ceiling of a Tray (17 R408). -/
def Tray.ceiling (t : Tray) : Nat := if t.crit then 0 else 15

/-- The target step of a Tray (17 R402); the cores of a Tray without placed harts request step 0. -/
def State.target (s : State) (tray : Nat) : Nat :=
  let l := (List.range 8).map fun i => s.hartAt (8 * tray + i)
  let req := if l.all (·.place == .idle) then 0 else (l.map fun h => h.ctl.opreq.toNat).foldl max 0
  min (min req s.m.power.capstep) (min s.m.power.slkstep (s.tray tray).ceiling)

/-- A change of a Tray's target starts a transition of 2,000 ns; one under way ends first (17 R402). -/
def State.retarget (s : State) (tray : Nat) : State :=
  if (s.tray tray).trans.isSome || s.target tray == (s.tray tray).grant then s
  else s.modTray tray fun t => { t with trans := some (s.target tray, s.nowNs + 2000) }

/-- Every Tray that harts or settings have touched. -/
def State.retargetAll (s : State) : State :=
  let l := (s.cores.filter fun c => !isMillerNo c).foldl (fun l c => sadd l (trayOf c)) (s.m.trays.map (·.1))
  l.foldl State.retarget s

/-- The Trays of some cores. -/
def State.retargetCores (s : State) (cores : List Nat) : State :=
  ((cores.filter fun c => !isMillerNo c).foldl (fun l c => sadd l (trayOf c)) []).foldl State.retarget s

/-- A droop hold of the Tray lets no Vector FMA instruction issue (17 R403). -/
def State.fmaHeld (s : State) : Bool := !s.miller && (s.tray (trayOf s.cur)).droop.isSome

/-! ## Retiring -/

/-- What an instruction is to the counters: stall count, major opcode, width index of its format (17 R399) and the codes of the
events it counts once (14 R350). -/
structure Ret where
  s : Nat
  maj : Nat
  width : Nat := 3
  ev : List Nat := []

/-- A counter selects an event at the present level (14 R349); level F never counts. -/
def Perf.counts (p : Perf) (code : Nat) (l : Level) (passOpen : Bool) : Bool :=
  (p.sel.toNat % 256 == code) && p.sel.getLsbD 8 && ((l == .u && p.sel.getLsbD 9) || (l == .k && p.sel.getLsbD 10)) && (!p.sel.getLsbD 11 || passOpen)

/-- Add to a counter; its 48 bits wrap into OVF (14 R349). -/
def Perf.add (p : Perf) (n : Nat) : Perf :=
  { p with cnt := p.cnt + BitVec.ofNat 48 n, ovf := p.ovf || decide (2 ^ 48 ≤ p.cnt.toNat + n) }

/-- Count n of an event in every counter that selects it. -/
def Hart.count (h : Hart) (code n : Nat) : Hart :=
  if n = 0 then h
  else { h with perf := h.perf.map fun p => if p.counts code h.lvl (h.rep.phase == 1) then p.add n else p }

/-- Count several events. -/
def Hart.countAll (h : Hart) (l : List (Nat × Nat)) : Hart := l.foldl (fun h e => h.count e.1 e.2) h

/-- BUDGET counts cycles at levels U and K while a slice is held (08 R187). -/
def Hart.spend (h : Hart) (n : Nat) : Hart :=
  if h.sync.slice.isSome && h.lvl != .f && h.sync.budget != 0 then
    let left := h.sync.budget - n
    { h with
      sync := { h.sync with budget := left }
      asy := if left = 0 then h.asy ++ [{ cause := 0x30, val := 0, info := 0 }] else h.asy }
  else h

/-- The next PC after the instruction at pc, outside a slot (09 R193). -/
def Hart.seqPc (h : Hart) : Word := nextPc h.pc h.hc

/-- Move past the instruction: to the target when it stood in a delay slot, else to the next instruction. -/
def Hart.advance (h : Hart) : Hart :=
  match h.slot with
  | some sl => { h with pc := sl.target, slot := none, fetchReg := sl.creg }
  | none => { h with pc := h.seqPc, fetchReg := 0 }

/-- The extra cycles of this turn (log 5) and the rest of the list. -/
def State.delay (s : State) : Nat := s.delays.headD 0

/-- n cycles of a core whose cycle has a length of `units` pass: its clock, its cycles, CYCLE and the core-cycle counters. -/
def Hart.pass (h : Hart) (n units : Nat) : Hart :=
  { h.count 0x01 n with clock := h.clock + n * units, cyc := h.cyc + n, ctl := { h.ctl with cycle := h.ctl.cycle + w64 n } }

/-- n cycles pass for the hart whose turn it is; the module's clock is the latest of all. -/
def State.charge (s : State) (n : Nat) : State :=
  let h := s.hart.pass n (cycleUnits (s.coreStep s.cur))
  { s with hart := h, m := { s.m with now := max s.m.now h.clock }, delays := s.delays.tail }

/-- n cycles pass for a hart that waits at an interlock, which BUDGET counts (08 R187). -/
def State.idleFor (s : State) (core n : Nat) : State :=
  let h := (((s.hartAt core).spend n).count 0x10 n).pass n (cycleUnits (s.coreStep core))
  (s.setHartAt core h).onMod fun m => { m with now := max m.now h.clock }

/-- The 1,000 ns of TIME in which a core's event falls, not before the present window of the cap controller (17 R405; log 47). -/
def State.spendAt (s : State) (core : Nat) : Nat := max (1000 * s.m.power.window) (s.m.timeAt (s.hartAt core).clock / 1000)

/-- Charge the energy of one event of a core to its Tray, or to its die's accumulator (17 R400). -/
def State.energyAt (s : State) (core maj width : Nat) : State :=
  let e := tget 0 s.m.power.table ((maj * 4 + width) * 16 + (if core < 4096 then (s.tray (trayOf core)).grant else 4))
  if e = 0 then s
  else if core < 4096 then s.modTray (trayOf core) fun t => { t with enacc := (t.enacc + e) % 2 ^ 64, spent := tmod 0 t.spent (s.spendAt core) (· + e) }
  else s.onMod fun m => { m with power := { m.power with
    dieAcc := tmod 0 m.power.dieAcc (dieOf core) (fun a => (a + e) % 2 ^ 64)
    dieSpent := tmod [] m.power.dieSpent (dieOf core) (fun t => tmod 0 t (s.spendAt core) (· + e)) } }

/-- The same for the hart whose turn it is; in a paired stream both cores run it (14 R347). -/
def State.energy (s : State) (maj width : Nat) : State :=
  let t := s.energyAt s.cur maj width
  if s.hart.pair.on then t.energyAt (s.cur ^^^ 1) maj width else t

/-- What a hart keeps of its present instruction from turn to turn is gone. -/
def Hart.settled (h : Hart) : Hart :=
  { h with walked := 0, waiting := false, safeWait := false, asked := none, got := [], since := none, chanWait := none, entering := none, ev := [], l2Miss := false, barWait := none }

/-- A value that is fixed for a later load outlasts an instruction of these majors: scalar and vector arithmetic, branches, plain
loads and stores (04 R92); every other may order later loads behind it. -/
def keepsEarly (maj : Nat) : Bool := decide (maj ≤ 0x1B) || (decide (0x20 ≤ maj) && decide (maj ≤ 0x37))

/-- An instruction retires: results wait on by its issue distance (09 R199), RETIRED and the counters grow, time passes and
energy is charged, and the PC moves on. -/
def State.retire (s : State) (r : Ret) : State :=
  let h := s.hart
  let d := 1 + r.s
  let n := d + s.delay
  let h := { h with
    pend := agePend d [] h.pend
    ctl := { h.ctl with retired := h.ctl.retired + 1 }
    rep := if h.rep.phase = 1 then { h.rep with count := h.rep.count + 1 } else h.rep
    pair := if h.pair.on then { h.pair with count := h.pair.count + 1, due := h.pair.due || decide (1024 ≤ h.pair.count + 1) } else h.pair
    early := if keepsEarly r.maj then h.early else []
    earlyTags := if keepsEarly r.maj then h.earlyTags else [] }.settled
  let h := (h.countAll ((0x02, 1) :: (0x0F, r.s) :: (0x10, s.delay) :: (0x1A, s.hart.walked) :: (r.ev ++ s.hart.ev).map (fun e => (e, 1)))).spend n
  ((({ s with hart := h.advance }).charge n).energy r.maj r.width)

/-! ## Traps (16 R373 to R376) -/

/-- The target level of a trap (16 R374). -/
def targetLevel (cause : Nat) (l : Level) : Level :=
  if cause = 0x06 then (match l with | .u => .k | _ => .f)
  else if cause = 0x51 ∨ cause = 0x54 then .f
  else (match l with | .f => .f | _ => .k)

/-- The entry address of a cause (14 R338, 16 R376). -/
def Bank.entry (b : Bank) (cause : Nat) : Word :=
  (b.base.setWidth 64 <<< 6) + (if b.vec then w64 (64 * (cause / 16)) else 0) + 2

/-- A bank as a trap leaves it. -/
def Bank.take (b : Bank) (pl : Level) (cause : Nat) (val info : Word) (asy : Bool) (epc : Word) (ds : Bool) (ebt : Word) : Bank :=
  { b with
    ppl := pl, ds := ds, pie := b.ie, ie := false, epc := epc, code := BitVec.ofNat 7 cause, asy := asy, eval := val
    einfo := info, ebt := ebt }

/-- A replay pass notes the target of a taken transfer (14 R354). -/
def Hart.transfer (h : Hart) (target : Word) : Hart :=
  if h.rep.phase = 1 then { h with rep := { h.rep with crc := crcWord h.rep.crc target } } else h

/-- Enter a trap at level T: write its bank, complete pending results, go to its entry. -/
def Hart.enter (h : Hart) (t : Level) (cause : Nat) (val info : Word) (asy : Bool) (epc : Word) (ds : Bool) (ebt : Word) : Hart :=
  let b := { (h.bank t).take h.lvl cause val info asy epc ds ebt with src := if ds then h.slot.bind Slot.src else none }
  let pc := b.entry cause
  ({ h.setBank t b with
    lvl := t, pc := pc, slot := none, fetchReg := 0, pend := [], wfi := false, atSafept := none
    sync := { h.sync with takeAt := none, sendAt := none }, pair := { h.pair with waiting := false }
    trapEntryOf := some cause }).settled.transfer pc

/-- TakeTrap (16 R376): a trap from level K into K moves the K bank to the shadow pair, and a third one goes to level F as
TRAP_NEST. -/
def Hart.takeTrap (h : Hart) (cause : Nat) (val info : Word) (asy : Bool) (epc : Word) (ds : Bool) (ebt : Word) : Hart :=
  let t := targetLevel cause h.lvl
  if t = .k ∧ h.lvl = .k then
    if h.kb.nest then h.enter .f 0x54 val (w64 cause) false epc ds ebt
    else ({ h with shadow := some h.kb, kb := { h.kb with nest := true } }).enter t cause val info asy epc ds ebt
  else h.enter t cause val info asy epc ds ebt

/-- Take a synchronous cause at the instruction at pc: EPC names it, and in a delay slot DS = 1 and EBT holds the next PC
(09 R205, R206). With DS = 0 the EBT is a free value (log 6). -/
def State.trap (s : State) (cause : Nat) (val info : Word) : State :=
  let h := s.hart
  match h.slot with
  | some sl => { s with hart := h.takeTrap cause val info false h.pc true sl.target }
  | none => { s with hart := h.takeTrap cause val info false h.pc false (Config.freeEbt s.tick), tick := s.tick + 1 }

/-- Take a cause between instructions, or the TRAP instruction's: EPC names the next instruction, DS = 0. -/
def State.trapAfter (s : State) (cause : Nat) (val info : Word) (asy : Bool) (epc : Word) : State :=
  { s with hart := s.hart.takeTrap cause val info asy epc false (Config.freeEbt s.tick), tick := s.tick + 1 }

/-- The hart waits at its instruction: a cycle passes, and BUDGET counts unless the wait is an implicit safe point, which it
never is in a delay slot (08 R187, 14 R319, 09 R207). -/
def State.waits (s : State) (safe : Bool) (ev : Nat) : State :=
  let sp := safe && s.hart.slot.isNone
  let n := 1 + s.delay
  let h := { s.hart with waiting := true, safeWait := sp }
  ({ s with hart := (if sp then h else h.spend n).count ev n }).charge n

/-- The outcome of an instruction's meaning. -/
def complete (r : R State) : Host.Outcome State Fault Refusal :=
  match r with
  | .ok s => .next s
  | .error (.trap c v i s) => .next (s.trap c v i)
  | .error (.wait safe ev s) => .next (s.waits safe ev)

/-- The head and the first 48 bits of the tail of an instruction, as EVAL holds them (00 R5, 09 R196). -/
def insnWord (i : Instr) : Word :=
  match encode i with
  | some (head, tail) => w64 (head + tail % 2 ^ 48 * 0x10000)
  | none => 0

/-- The level an instruction needs, else PRIVILEGED, REASON 0 (00 R5). -/
def State.needLevel (s : State) (i : Instr) (l : Level) : R Unit := guardTrap (decide (l.num ≤ s.hart.lvl.num)) s 0x04 (insnWord i) 0

/-- Level K, or level U with a bit of RWPERM (14 R339), else PRIVILEGED, REASON 1. -/
def State.needPerm (s : State) (i : Instr) (bitNo : Nat) : R Unit :=
  guardTrap (s.hart.lvl != .u || s.hart.ctl.rwperm.getLsbD bitNo) s 0x04 (insnWord i) 0x100

/-- ERET (14 R333): a nested K bank comes back from the shadow pair; otherwise the level and IE return. -/
def Hart.eret (h : Hart) : Hart :=
  let b := h.bank h.lvl
  let h' : Hart :=
    if h.lvl = .k ∧ b.nest then
      match h.shadow with
      | some o => { h with kb := { o with nest := false, vec := b.vec, base := b.base }, shadow := none, lvl := .k }
      | none => { h with kb := { b with nest := false }, lvl := .k }
    else (h.setBank h.lvl { b with ie := b.pie }) |> fun g => { g with lvl := b.ppl }
  ({ h' with
    pend := [], pc := b.epc, slot := if b.ds then some { target := b.ebt, src := b.src } else none
    fetchReg := 0
    asked := none
    trapEntryOf := none }).transfer b.epc

/-! ## Asynchronous causes (16 R373 to R375) -/

/-- The rank of an asynchronous cause in the order of R375. -/
def asyRank (cause : Nat) : Nat :=
  match cause with
  | 0x51 => 0 | 0x30 => 2 | 0x36 => 3 | 0x43 => 4 | 0x50 => 5 | 0x52 => 6 | 0x53 => 7 | _ => 1

/-- A cause that targets level T may be taken now (16 R374). -/
def Hart.open (h : Hart) (cause : Nat) : Bool :=
  let t := targetLevel cause h.lvl
  decide (h.lvl.num < t.num) || (h.lvl == t && (h.bank t).ie)

/-- The causes pending for a hart, at a TIME: the reports, EXTERNAL, and TIMER while TIME has reached TIMECMP (14 R340). -/
def Hart.pending (h : Hart) (time : Word) : List Async :=
  h.asy ++ (if h.ext then [{ cause := 0x52, val := 0, info := 0 }] else [])
    ++ (if h.ctl.timecmp ≤ time then [{ cause := 0x53, val := 0, info := 0 }] else [])

/-- Of the imprecise reports of stores that may be taken, the one of the oldest store (02 R60), else the cause itself. -/
def oldestStore (l : List Async) (h : Hart) (a : Async) : Async :=
  if a.ord = 0 then a
  else l.foldl (fun a b => if b.ord ≠ 0 ∧ b.ord < a.ord ∧ h.open b.cause = true then b else a) a

/-- The first of the pending causes of a rank, oldest first. -/
def firstOfRank (l : List Async) (h : Hart) : Nat → Nat → Option Async
  | 0, _ => none
  | n + 1, k =>
    match l.find? (fun a => asyRank a.cause == k && h.open a.cause) with
    | some a => some (oldestStore l h a)
    | none => firstOfRank l h n (k + 1)

/-- The cause that the hart takes at this boundary, if any (16 R375). -/
def Hart.pick (h : Hart) (time : Word) : Option Async := firstOfRank (h.pending time) h 8 0

/-- The reports without the one taken. -/
def dropOne (a : Async) : List Async → List Async
  | [] => []
  | b :: r => if b = a then r else b :: dropOne a r

/-- Take an asynchronous cause: it is no longer pending, but TIMER, which stays until TIMECMP is raised (14 R340). -/
def State.takeAsync (s : State) (a : Async) (epc : Word) : State :=
  let h := { s.hart with
    asy := if a.cause = 0x52 ∨ a.cause = 0x53 then s.hart.asy else dropOne a s.hart.asy
    ext := if a.cause = 0x52 then false else s.hart.ext }
  ({ s with hart := h }).trapAfter a.cause a.val a.info true epc

end Sys2Proof.Machine
end

