-- ==== Sys2Proof/Machine/Mem.lean ====
section
/-! DEFINITION. Memory: locations (04 R85, 01 R12), bytes, tags and poison, capabilities' bounds (01 R25), windows and the L1
region table (01 R11 to R18), page tables and the die TLB (01 R31 to R41), the comparators (02 R61 to R66) and every effect of
a write at its home (01 R23, 07 R158, 16 R390, 14 R353). -/

namespace Sys2Proof.Machine

/-! ## Locations

A location is a number: L1 byte o of Hearth h is h * 2^26 + o; byte L of HBM channel ch is 2^28 + ch * 0x6000_0000 + L; byte i of
host buffer n is 2^40 + n * 2^16 + i; byte i of the peer window of port p is 2^50 + p * 2^40 + i; byte i of quarter 11 is
2^56 + i; 2^60 is an address that answers nothing. -/

/-- The location of an L1 byte. -/
def l1Key (h o : Nat) : Nat := h * 0x4000000 + o
/-- The location of an HBM byte. -/
def hbmKey (ch l : Nat) : Nat := 0x10000000 + ch * 0x60000000 + l
/-- A host or peer address that answers nothing (18 R409). -/
def noKey : Nat := 0x1000000000000000
/-- The first location of quarter 11. -/
def devBase : Nat := 0x100000000000000
/-- The location lies in L1. -/
def isL1 (k : Nat) : Bool := decide (k < 0x10000000)
/-- The location lies in HBM. -/
def isHbm (k : Nat) : Bool := decide (0x10000000 ≤ k) && decide (k < 0x10000000000)
/-- The location lies in quarter 11. -/
def isDev (k : Nat) : Bool := decide (devBase ≤ k) && decide (k < noKey)
/-- The location lies in host or peer memory. -/
def isOut (k : Nat) : Bool := (decide (0x10000000000 ≤ k) && decide (k < devBase)) || k == noKey
/-- The channel of an HBM location. -/
def keyCh (k : Nat) : Nat := (k - 0x10000000) / 0x60000000
/-- The channel-local address of an HBM location. -/
def keyL (k : Nat) : Nat := (k - 0x10000000) % 0x60000000
/-- The Hearth of an L1 location. -/
def keyHearth (k : Nat) : Nat := k / 0x4000000
/-- The L1 offset of an L1 location. -/
def keyOff (k : Nat) : Nat := k % 0x4000000

/-- The die of an error-bank unit; 4 is the I/O die (04 R85, 16 R381). -/
def unitDie (u : Nat) : Nat :=
  if u < 0x200 then u / 128
  else if u < 0x300 then (u - 0x200) / 64
  else if u < 0x400 then (u - 0x300) / 64
  else if u < 0x500 then (u - 0x400) / 64
  else if u < 0x504 then u - 0x500
  else if u < 0x508 then u - 0x504
  else 4

/-- The home die of a location; 4 is the I/O die, 5 none (04 R85). -/
def homeDie (k : Nat) : Nat :=
  if isL1 k then keyHearth k
  else if isHbm k then keyCh k / 64
  else if isDev k then (if k - devBase < 0x51C00 then unitDie ((k - devBase) / 256) else 4)
  else 5

/-- The natural scope of a location for a hart on die d: 1 DIE, 2 DEVICE, 3 SYSTEM (04 R86, R93). -/
def scopeOf (d k : Nat) : Nat := if homeDie k = d then 1 else if homeDie k < 5 then 2 else 3

/-- A physical address is backed (03 R70, R71, R73, 18 R409). -/
def paBacked (pa : Nat) : Bool :=
  let q := bits pa 47 46
  if q = 0 then decide (pa < 0x6000000000)
  else if q = 1 then
    let x := pa - 0x400000000000
    decide (x / 0x80000000 < 256) && decide (x % 0x80000000 < 0x60000000)
  else if q = 2 then decide (pa < 0xA00000000000)
  else
    let x := pa - 0xC00000000000
    decide (x < 0x60000) || (decide (0x100000 ≤ x) && decide (x < 0x120000))

/-- A physical address lies in quarter 00 or 01. -/
def paHbm (pa : Nat) : Bool := decide (pa < 0x800000000000)

/-- The location of a backed physical address (03 R70 to R72, 18 R409). -/
def paKey (m : Mod) (pa : Nat) : Nat :=
  let q := bits pa 47 46
  if q = 0 then hbmKey (bits pa 19 12 ^^^ bits pa 24 20) (bits pa 45 20 * 4096 + pa % 4096)
  else if q = 1 then hbmKey ((pa - 0x400000000000) / 0x80000000) ((pa - 0x400000000000) % 0x80000000)
  else if q = 2 then
    if pa < 0x900000000000 then
      match tget? m.host.binds ((pa - 0x800000000000) / 0x10000) with
      | some b => 0x10000000000 + b * 0x10000 + pa % 0x10000
      | none => noKey
    else
      let p := (pa - 0x900000000000) / 0x10000000000
      if (tget {} m.host.links p).st = .active then 0x4000000000000 + (pa - 0x900000000000) else noKey
  else devBase + (pa - 0xC00000000000)

/-! ## Bytes, tags, poison -/

/-- The byte at a location; a location that is not listed holds 0 (log 2). -/
def mget (l : List Host.Cell) (k : Nat) : Byte :=
  match l with
  | [] => 0
  | (i, x) :: r => if i = k then x else if k < i then 0 else mget r k

/-- Write a byte, keeping the locations ascending and listing no 0. -/
def mset (l : List Host.Cell) (k : Nat) (x : Byte) : List Host.Cell :=
  match l with
  | [] => if x = 0 then [] else [(k, x)]
  | (i, y) :: r =>
    if i = k then (if x = 0 then r else (k, x) :: r)
    else if k < i then (if x = 0 then (i, y) :: r else (k, x) :: (i, y) :: r)
    else (i, y) :: mset r k x

/-- Write a list of bytes in order. -/
def msets (l : List Host.Cell) (cells : List Host.Cell) : List Host.Cell := cells.foldl (fun l c => mset l c.1 c.2) l

/-- The canonical form: locations strictly ascending, no 0 listed. -/
def memSorted : List Host.Cell → Bool
  | [] => true
  | [(_, x)] => x != 0
  | (i, x) :: (j, y) :: r => decide (i < j) && x != 0 && memSorted ((j, y) :: r)

/-- The memory has its canonical form. -/
def Memory.wf (l : List Host.Cell) : Bool := memSorted l

/-- Bytes as a little-endian number. -/
def joinBytes : List Byte → Nat
  | [] => 0
  | x :: r => x.toNat + 256 * joinBytes r

/-- The low n bytes of a number, least significant first. -/
def splitBytes : Nat → Nat → List Byte
  | 0, _ => []
  | n + 1, x => BitVec.ofNat 8 x :: splitBytes n (x / 256)

/-- The n locations from k. -/
def keysFrom (k n : Nat) : List Nat := (List.range n).map (k + ·)

/-- A location belongs to a task queue of a Hearth (08 R184): to the two granules of its L1 part, or to its spill ring of 2^SPLOG records
of 32 bytes; a queue owns nothing while EN = 0. -/
def Mod.queueHas (m : Mod) (hearth : Nat) (q : TaskQ) (k : Nat) : Bool :=
  let cfg := q.cfg.toNat
  bit cfg 15 == 1 &&
    ((isL1 k && keyHearth k == hearth && (keyOff k / 0x10000 == cfg % 1024 || keyOff k / 0x10000 == cfg % 1024 + 1)) ||
     (isHbm k && bits cfg 14 10 != 0 &&
        let p := bits cfg 47 16 * 0x10000
        let size := 2 ^ bits cfg 14 10 * 32
        (List.range (ceilDiv size 4096)).any fun i =>
          let b := paKey m (p + 4096 * i)
          decide (b ≤ k) && decide (k < b + min 4096 (size - 4096 * i))))

/-- A location belongs to an enabled task queue. -/
def Mod.queueOwns (m : Mod) (k : Nat) : Bool := m.ctxs.any fun c => c.2.queues.any fun q => m.queueHas q.1 q.2 k

/-- A task record of free contents: number i of a queue whose bytes a privileged path wrote (08 R184; log 11). -/
def TaskRec.undefined (tick i : Nat) : TaskRec :=
  let f (k : Nat) : Nat := Config.freeTask tick (16 * i + k)
  { entry := f 0 % 2 ^ 32, deadline := f 1 % 2 ^ 32, budget := f 2 % 2 ^ 24, rsid := f 3 % 256, wsid := f 4 % 256
    args := BitVec.ofNat 128 (f 5), stamp := f 6, spawner := f 7 % 8192, gang := f 8 % 4096 }

/-- A write of locations leaves the records of a queue that owns one of them undefined (08 R184). -/
def State.disturb (s : State) (keys : List Nat) : State :=
  if s.m.ctxs.all fun c => c.2.queues.all fun q => q.2.l1.isEmpty && q.2.ring.isEmpty then s
  else
    let queue (q : Nat × TaskQ) : Nat × TaskQ :=
      if keys.any (s.m.queueHas q.1 q.2) then
        let n := q.2.l1.length
        (q.1, { q.2 with l1 := q.2.l1.zipIdx.map fun e => TaskRec.undefined s.tick e.2, ring := q.2.ring.zipIdx.map fun e => TaskRec.undefined s.tick (n + e.2) })
      else q
    { s with m := { s.m with ctxs := s.m.ctxs.map fun c => (c.1, { c.2 with queues := c.2.queues.map queue }) }, tick := s.tick + 1 }

/-- The byte a load or an engine reads at a location: a byte of a task queue is a free value (08 R184; log 11). -/
def State.peek (s : State) (k : Nat) : Byte :=
  if s.m.queueOwns k then Config.freeQueueByte s.tick (s.m.now + s.hart.clock) k else mget s.m.mem k

/-- The bytes at a list of locations as a number. -/
def State.peeks (s : State) (keys : List Nat) : Nat := joinBytes (keys.map s.peek)

/-- The tag of the granule of a location (01 R22); host, peer and device bytes have none. -/
def State.tagAt (s : State) (k : Nat) : Bool := decide (k < 0x10000000000) && s.m.tags.contains (k / 16)

/-- The L2 line of an HBM location (03 R74): its key in the table. -/
def lineKey (k : Nat) : Nat := keyCh k * 0x800000 + keyL k / 256

/-- The location holds poisoned data (16 R379, 03 R76). -/
def State.poisoned (s : State) (k : Nat) : Bool :=
  if isL1 k then s.m.poisonW.contains (k / 8)
  else if isHbm k then
    match tget? s.m.l2 (lineKey k) with
    | some ln =>
      if ln.v.getLsbD (keyL k % 256 / 64) then ln.poison.getLsbD (keyL k % 256 / 64)
      else s.m.poisonS.contains (k / 64) && !ln.m.getLsbD (keyL k % 256)
    | none => s.m.poisonS.contains (k / 64)
  else false

/-! ## Capabilities (01 R20 to R28) -/

/-- The fields of a capability's metadata (01 R20). -/
def Cap.perm (c : Cap) : Nat := bits c.md.toNat 7 0
/-- FMT. -/
def Cap.fmt (c : Cap) : Nat := bits c.md.toNat 12 8
/-- BLOG. -/
def Cap.blog (c : Cap) : Nat := bits c.md.toNat 15 13
/-- E. -/
def Cap.e (c : Cap) : Nat := bits c.md.toNat 21 16
/-- B. -/
def Cap.b (c : Cap) : Nat := bits c.md.toNat 41 22
/-- T. -/
def Cap.t (c : Cap) : Nat := bits c.md.toNat 61 42
/-- SEAL. -/
def Cap.seal (c : Cap) : Bool := c.md.getLsbD 7
/-- A permission bit: 0 R, 1 W, 2 X, 3 LC, 4 SC, 5 ENG, 6 GLB. -/
def Cap.has (c : Cap) (n : Nat) : Bool := c.md.getLsbD n

/-- Metadata of its fields. -/
def mkMd (t b e blog fmt perm : Nat) : Word :=
  w64 (t * 0x40000000000 + b * 0x400000 + e * 0x10000 + blog * 0x2000 + fmt * 0x100 + perm)

/-- Canonical addresses (01 R10). -/
def canonical (a : Word) : Bool := (a.sshiftRight 54 == 0) || (a.sshiftRight 54 == BitVec.allOnes 64)

/-- The 55-bit quantity of an address. -/
def a55 (a : Word) : Nat := a.toNat % 0x80000000000000

/-- The canonical address of a 55-bit quantity. -/
def fromA55 (x : Nat) : Word := (BitVec.ofNat 55 x).signExtend 64

/-- DecodeBounds (01 R25): base and top, none for a malformed capability. -/
def Cap.bounds? (c : Cap) : Option (Nat × Nat) :=
  if bits c.md.toNat 63 62 ≠ 0 ∨ 35 < c.e then none
  else if c.e = 35 then
    let base := c.b * 0x800000000
    let top := if c.t = 0 then 0x80000000000000 else c.t * 0x800000000
    if top < base ∨ 0x80000000000000 < top then none else some (base, top)
  else
    let a := a55 c.addr
    let aMid := a / 2 ^ c.e % 0x100000
    let frame := a / 2 ^ (c.e + 20)
    if aMid < c.b ∧ frame = 0 then none
    else
      let frame := if aMid < c.b then frame - 1 else frame
      let base := frame * 2 ^ (c.e + 20) + c.b * 2 ^ c.e
      let top := base + (c.t + 0x100000 - c.b) % 0x100000 * 2 ^ c.e
      if 0x80000000000000 < top then none else some (base, top)

/-- Malformed (01 R25). -/
def Cap.malformed (c : Cap) : Bool := c.bounds?.isNone

/-- An address lies in the representable region of a well-formed capability (01 R26). -/
def Cap.representable (c : Cap) (a : Word) : Bool :=
  match c.bounds? with
  | none => false
  | some (base, _) => c.e == 35 || (decide (base ≤ a55 a) && decide (a55 a < base + 2 ^ (c.e + 20)))

/-- EINFO of the causes 0x10 to 0x18 (01 R30). -/
def einfo (kind : Nat) (user : Bool) (creg reason level size : Nat) : Word :=
  w64 (kind + 8 * b2n user + 0x10 * creg + 0x100 * reason + 0x1000 * level + 0x10000 * size)

/-- With the additions of R67: IMP, ENTRY and HEARTH. -/
def einfo67 (kind : Nat) (user : Bool) (creg reason size : Nat) (imp : Bool) (entry hearth : Nat) : Word :=
  w64 (kind + 8 * b2n user + 0x10 * creg + 0x100 * reason + 0x4000 * b2n imp + 0x10000 * size + 0x100000000 * entry
    + 0x10000000000 * hearth)

/-! ## Windows and the region table (01 R11 to R18) -/

/-- The address lies in the aperture span (01 R11). -/
def inSpan (a : Word) : Bool := decide (0xFD00000000 ≤ a.toNat) && decide (a.toNat ≤ 0xFFFFFFFFFF)

/-- The L1 offset of a near-window byte of Tray t of a Hearth (01 R13). -/
def nearOff (trayInHearth slab w : Nat) : Nat := (slab * 128 + w / 512) * 0x10000 + trayInHearth * 512 + w % 512

/-- Where an access goes: L1 through an aperture, L1 through a near window, or a physical address with its memory type. -/
inductive Tgt where
  | l1 (h o : Nat)
  | near (tray slab w : Nat)
  | phys (pa mt : Nat) (shd : Bool)
deriving DecidableEq, Repr

/-- The location of byte i of an access that begins at a target. -/
def Tgt.key (m : Mod) (t : Tgt) (i : Nat) : Nat :=
  match t with
  | .l1 h o => l1Key h (o + i)
  | .near tray slab w => l1Key (tray / 128) (nearOff (tray % 128) slab (w + i))
  | .phys pa _ _ => paKey m (pa + i)

/-- The window of an address in the span (01 R11 to R15) for a hart on core `core` with NEARCTL value `near`; or the reason
of L1_REGION. -/
def window (core : Nat) (near : BitVec 4) (a : Nat) : Except Nat Tgt :=
  if a < 0xFD00010000 then
    if isMillerNo core || !near.getLsbD 0 then .error 3
    else .ok (.near (trayOf core) (near.toNat / 2) (a - 0xFD00000000))
  else if 0xFE00000000 ≤ a ∧ a < 0xFE04000000 then .ok (.l1 (dieOf core) (a - 0xFE00000000))
  else if 0xFF00000000 ≤ a ∧ a < 0xFF10000000 then .ok (.l1 ((a - 0xFF00000000) / 0x4000000) ((a - 0xFF00000000) % 0x4000000))
  else .error 0

/-- A region entry matches granule g of Hearth h (01 R18). -/
def regionMatch (e : BitVec 64) (h g : Nat) : Bool :=
  e.getLsbD 0 && e.getLsbD (8 + h) && decide (bits e.toNat 21 12 ≤ g) && decide (g ≤ bits e.toNat 31 22)

/-- An access an entry must grant: loads, stores, atomics, engine sources and destinations. -/
structure Grant where
  rd : Bool
  wr : Bool
  eng : Bool

/-- An entry grants RD and WR as needed. -/
def grants (e : BitVec 64) (g : Grant) : Bool := (!g.rd || e.getLsbD 1) && (!g.wr || e.getLsbD 2)

/-- The region check of one granule (01 R18): the reason of L1_REGION if it fails. One entry grants what the access needs, for an atomic
both RD and WR; an engine range needs ENG beside RD or WR in one entry. -/
def regionReason (c : Ctx) (h g : Nat) (need : Grant) : Option Nat :=
  let m := (c.regions.map (·.2)).filter (regionMatch · h g)
  if m.isEmpty then some 1
  else if need.eng then
    let ok (rd wr : Bool) : Option Nat :=
      let n : Grant := { rd := rd, wr := wr, eng := true }
      if !(m.any (grants · n)) then some 2 else if !(m.any fun e => grants e n && e.getLsbD 3) then some 5 else none
    match if need.rd then ok true false else none with
    | some r => some r
    | none => if need.wr then ok false true else none
  else if m.any (grants · need) then none
  else some 2

/-- The region check over bytes [o, o + n) of a Hearth. -/
def regionSpan (c : Ctx) (h o n : Nat) (need : Grant) : Option Nat :=
  if n = 0 then none
  else
    (List.range ((o + n - 1) / 0x10000 + 1 - o / 0x10000)).findSome? fun i => regionReason c h (o / 0x10000 + i) need

/-- A location is shared for a capability store (01 R28): an L1 granule granted only by entries with SHD = 1. -/
def regionShared (c : Ctx) (h g : Nat) : Bool :=
  ((c.regions.map (·.2)).filter (fun e => regionMatch e h g && e.getLsbD 2)).all (·.getLsbD 4)

/-! ## Comparators (02 R61 to R66) -/

/-- The place of an L1 offset within a range (01 R370, 12 R271). -/
def Range.rel (r : Range) (o : Nat) : Option Nat :=
  match r with
  | .flat lo len => if lo ≤ o ∧ o < lo + len then some (o - lo) else none
  | .trayRing tray row k0 len =>
    if o / 512 % 128 = tray ∧ row ≤ o / 0x10000 then
      let k := (o / 0x10000 - row) * 512 + o % 512
      if k0 ≤ k ∧ k < k0 + len then some (k - k0) else none
    else none
  | .near tray slab lo len =>
    if o / 512 % 128 = tray ∧ slab * 128 ≤ o / 0x10000 then
      let w := (o / 0x10000 - slab * 128) * 512 + o % 512
      if lo ≤ w ∧ w < lo + len then some (w - lo) else none
    else none

/-- 512-byte chunks of Tray-local bytes [k0, k0 + len) that begin at row `row` (05 R121). -/
def chunks (tray row k0 len : Nat) : List (Nat × Nat) :=
  if len = 0 then []
  else
    (List.range ((k0 + len - 1) / 512 + 1 - k0 / 512)).map fun i =>
      let c := k0 / 512 + i
      let b := max k0 (c * 512)
      let e := min (k0 + len) (c * 512 + 512)
      ((row + c) * 0x10000 + tray * 512 + (b - c * 512), e - b)

/-- The L1 offsets of a range as runs. -/
def Range.pieces : Range → List (Nat × Nat)
  | .flat lo len => [(lo, len)]
  | .trayRing tray row k0 len => chunks tray row k0 len
  | .near tray slab lo len => chunks tray (slab * 128) lo len

/-- The rows that a range covers. -/
def Range.rows (r : Range) : List Nat :=
  r.pieces.foldl (fun l p =>
    (List.range ((p.1 + p.2 - 1) / 0x10000 + 1 - p.1 / 0x10000)).foldl (fun l i => sadd l (p.1 / 0x10000 + i)) l) []

/-- Rows whose last entry is gone become stale: their filter bits clear later (R63). -/
def Hearth.restale (h : Hearth) (rows : List Nat) : Hearth :=
  let held := (h.locks.map (·.2.range.rows)) ++ (h.lands.map (·.2.range.rows))
  { h with stale := rows.foldl (fun l r => if held.any (·.contains r) then l else sadd l r) h.stale }

/-- A range-lock entry refuses a store to an offset; a ring entry only in a locked slot (05 R124). -/
def LockE.covers (e : LockE) (o : Nat) : Bool :=
  match e.range.rel o with
  | none => false
  | some r => e.reason != 2 || e.slots.contains (r / max e.slotsz 1)

/-- EN and SLAB of a hart's NEARCTL. -/
def Hart.nearOn (h : Hart) : Bool := h.ctl.nearctl.getLsbD 0
/-- SLAB. -/
def Hart.slab (h : Hart) : Nat := h.ctl.nearctl.toNat / 2

/-- The near windows of the harts that `f` names (15 R371): Hearth, Tray within it, slab. -/
def State.windowsOf (s : State) (f : Hart → Bool) : List (Nat × Nat × Nat) :=
  s.cores.filterMap fun c =>
    let h := s.hartAt c
    if f h && h.nearOn && decide (c < 4096) then some (dieOf c, trayOf c % 128, h.slab) else none

/-- An L1 offset lies in a slab's rows of a Tray. -/
def inSlabRows (tray slab off : Nat) : Bool := off / 0x10000 / 128 == slab && off / 512 % 128 == tray

/-- A location lies in a near window that a migration is moving (15 R371). -/
def State.movingAt (s : State) (k : Nat) : Bool :=
  isL1 k && (s.windowsOf (·.moving)).any fun w => w.1 == keyHearth k && inSlabRows w.2.1 w.2.2 (keyOff k)

/-- A range in near-window form, or of a Tray's ring, lies in a slab's rows of a Tray (15 R370, R371). -/
def Range.inWindow (r : Range) (tray slab : Nat) : Bool :=
  match r with
  | .near t sl .. => t == tray && sl == slab
  | .trayRing t row k0 len => t == tray && decide (slab * 128 ≤ row + k0 / 512) && decide (row + (k0 + len + 511) / 512 ≤ slab * 128 + 128)
  | .flat .. => false

/-- An operation has an entry in a near window of a Hearth. -/
def Hearth.ownsIn (h : Hearth) (own : Nat → Bool) (tray slab : Nat) : Bool :=
  (h.locks.any fun e => own e.2.owner && e.2.range.inWindow tray slab) || h.lands.any fun e => own e.2.owner && e.2.range.inWindow tray slab

/-- An operation pauses: it has an entry in a near window whose hart has drained for its migration (15 R371, step 2). -/
def State.pausedByMove (s : State) (owner : Nat) : Bool := (s.windowsOf (·.pausing)).any fun w => (s.hearth w.1).ownsIn (· == owner) w.2.1 w.2.2

/-- The first range-lock entry that refuses a store to any of some locations: its index and reason (02 R62). A near window that a
migration is moving refuses it too, with REASON 1 (15 R371; log 69). -/
def State.lockHit (s : State) (keys : List Nat) : Option (Nat × Nat × Nat) :=
  keys.findSome? fun k =>
    if isL1 k then
      match (s.hearth (keyHearth k)).locks.findSome? fun e => if e.2.covers (keyOff k) then some (e.1, e.2.reason, keyHearth k) else none with
      | some x => some x
      | none => if s.movingAt k then some (0, 1, keyHearth k) else none
    else none

/-- A byte has landed under an entry (05 R115). -/
def LandE.landed (e : LandE) (rel : Nat) : Bool :=
  match e.mode with
  | 0 => decide (e.off + rel < e.count)
  | 1 => decide ((e.off + rel) / 2 ^ e.shift < e.count)
  | _ => false

/-- What the comparators say of a read. -/
inductive Mark where
  | pass
  | wait (owner : Nat)
  | frozen (entry hearth : Nat)
deriving DecidableEq, Repr

/-- The comparators on one location (02 R65, R66): every matching entry must have landed the byte, those of the owners `own` names
apart. -/
def State.markBut (s : State) (own : Nat → Bool) (k : Nat) : Mark :=
  if isL1 k then
    let hits := (s.hearth (keyHearth k)).lands.filter fun e =>
      !own e.2.owner &&
        match e.2.range.rel (keyOff k) with
        | some r => !e.2.landed r
        | none => false
    match hits.find? (·.2.frozen) with
    | some e => .frozen e.1 (keyHearth k)
    | none =>
      match hits with
      | e :: _ => .wait e.2.owner
      | [] => .pass
  else .pass

/-- The comparators on one location for an engine's read. -/
def State.landMark (s : State) (k : Nat) : Mark := s.markBut (fun _ => false) k

/-- The comparators on one location for a load: a near window that a migration is moving holds it as a landing entry does (15 R371). -/
def State.markOf (s : State) (k : Nat) : Mark :=
  match s.landMark k with
  | .pass => if s.movingAt k then .wait 0x30000000 else .pass
  | m => m

/-- The first location of a read that does not pass. -/
def State.marks (s : State) (keys : List Nat) : Mark :=
  match keys.find? (fun k => s.markOf k != .pass) with
  | some k => s.markOf k
  | none => .pass

end Sys2Proof.Machine
end

