-- ==== Sys2Proof/Machine/L2.lean ====
section
/-! DEFINITION. The storage codes (16 R379), the L2 (03 R74 to R78) and what a read or a write meets at its HBM channel (03 R82 to
R84). -/

namespace Sys2Proof.Machine

/-! ## Storage codes (16 R379) -/

/-- A location's poison was planted by ERRINJ (14 R355, 16 R382). -/
def State.poisonInj (s : State) (k : Nat) : Bool := if isL1 k then s.m.injW.contains (k / 8) else s.m.injS.contains (k / 64)

/-- SUB of an L1 location: bank within its Tray and row (16 R382). -/
def l1Sub (k : Nat) : Nat := keyOff k / 8 % 64 * 1024 + keyOff k / 0x10000

/-- The error-bank unit of an L1 location: the Tray that holds its bank (16 R381). -/
def l1Unit (k : Nat) : Nat := keyHearth k * 128 + keyOff k / 512 % 128

/-- How many bits of a word are flipped. -/
def flipCount (x : BitVec 64) : Nat := (List.range 64).countP x.getLsbD

/-- An L1 word that ERRINJ has flipped is read: one flipped bit is corrected and written back, with a record of SEV 0; more are
uncorrectable, and the word is poisoned with a record of SEV 1 (16 R379, 14 R355; log 30). -/
def State.scrubWord (s : State) (w : Nat) : State :=
  match tget? s.m.flips w with
  | none => s
  | some x =>
    let s := s.onMod fun m => { m with flips := tdel m.flips w }
    let k := 8 * w
    if flipCount x = 0 then s
    else if flipCount x = 1 then s.logErr (l1Unit k) 0 0 (l1Sub k) k 0 0xFF true
    else (s.onMod fun m => { m with poisonW := sadd m.poisonW w, injW := sadd m.injW w }).logErr (l1Unit k) 1 0 (l1Sub k) k 0 0xFF true

/-- The flipped words among some locations are read. -/
def State.scrub (s : State) (keys : List Nat) : State :=
  if s.m.flips.isEmpty then s
  else (keys.foldl (fun l k => if isL1 k then sadd l (k / 8) else l) []).foldl State.scrubWord s

/-- Poison after a write of some locations (16 R379, 03 R76): a word all 8 bytes of which, or a sector all 64 bytes of which, are
written is clean again. -/
def Mod.unpoison (m : Mod) (keys : List Nat) : Mod :=
  if m.poisonW.isEmpty && m.poisonS.isEmpty && m.flips.isEmpty then m
  else
    let word (w : Nat) : Bool := (keysFrom (8 * w) 8).all keys.contains
    let sector (w : Nat) : Bool := (keysFrom (64 * w) 64).all keys.contains
    { m with
      poisonW := m.poisonW.filter (!word ·), injW := m.injW.filter (!word ·), flips := m.flips.filter (fun e => !word e.1)
      poisonS := m.poisonS.filter (!sector ·), injS := m.injS.filter (!sector ·) }

/-- The key of a facet record among the flipped ones. -/
def flipKey (hearth r : Nat) : Nat := hearth * 0x100000000 + r

/-- The codes of a run of locations to which another run has been copied: of L1 words or of HBM sectors. Poison, and whether ERRINJ
planted it, come with the bytes; a flipped word has been written anew (16 R379, R382). -/
def Mod.copyCodes (m : Mod) (src dst len : Nat) : Mod :=
  if m.poisonW.isEmpty && m.poisonS.isEmpty && m.flips.isEmpty then m
  else
    let within (a u : Nat) (w : Nat) : Bool := decide (a / u ≤ w) && decide (w < (a + len) / u)
    let bad (words sectors : List Nat) : List Nat :=
      if isL1 src then (words.filter (within src 8)).map fun w => 8 * w - src
      else (sectors.filter (within src 64)).flatMap fun g => (List.range 8).map fun i => 64 * g + 8 * i - src
    let put (u : Nat) (old offs : List Nat) : List Nat := offs.foldl (fun l o => sadd l ((dst + o) / u)) (old.filter fun w => !within dst u w)
    let p := bad m.poisonW m.poisonS
    let i := bad m.injW m.injS
    if isL1 dst then { m with poisonW := put 8 m.poisonW p, injW := put 8 m.injW i, flips := m.flips.filter fun e => !within dst 8 e.1 }
    else { m with poisonS := put 64 m.poisonS p, injS := put 64 m.injS i }

/-- An HBM location's physical address in the interleaved view (03 R70). -/
def hbmPa (k : Nat) : Nat :=
  let r := keyL k / 4096
  r * 0x100000 + (keyCh k ^^^ r % 32) * 0x1000 + keyL k % 4096

/-- Log a fill that carries an uncorrectable error (03 R76). ADDR is the interleaved view's name of the sector, of the two that
physical addresses give it (log 57). -/
def State.logFill (s : State) (k : Nat) : State :=
  s.logErr (0x400 + keyCh k) 1 2 (keyL k / 1024 % 16) (hbmPa k) 0 0xFF (s.m.injS.contains (k / 64))

/-! ## Replacement trees (03 R74, 01 R36) -/

/-- A pseudo-LRU tree of `d` levels after a use of way w, node n in bit n: each node on the way's path points away from it (log 9). -/
def treeUse (d t w : Nat) : Nat :=
  (List.range d).foldl (fun t i =>
    let n := 2 ^ i - 1 + w / 2 ^ (d - i)
    let away := w / 2 ^ (d - 1 - i) % 2 = 0
    if away then t ||| 2 ^ n else if bit t n = 1 then t - 2 ^ n else t) t

/-- The way that a tree of `d` levels points to. -/
def treeVictim (d t : Nat) : Nat := (List.range d).foldl (fun w i => 2 * w + bit t (2 ^ i - 1 + w)) 0

/-! ## The L2 (03 R74 to R77) -/

/-- Its set: the channel and L[14:8] XOR L[21:15] (03 R74). -/
def l2SetOf (line : Nat) : Nat := let l := line % 0x800000; line / 0x800000 * 128 + (l % 128 ^^^ l / 128 % 128)

/-- A channel. -/
def State.chan (s : State) (ch : Nat) : Chan := tget {} s.m.chans ch

/-- Change a channel. -/
def State.modChan (s : State) (ch : Nat) (f : Chan → Chan) : State := s.onMod fun m => { m with chans := tmod {} m.chans ch f }

/-- A read of a line is pending at its channel. -/
def Chan.reading (c : Chan) (line : Nat) : Bool := c.reads.any fun w => lineKey (64 * w) == line

/-- The way that a new line takes in its set (03 R74, R75): a free one, else the tree's, else the lowest; never one whose line has a
read pending (log 9). -/
def State.l2Way (s : State) (line : Nat) : Option Nat :=
  let set := l2SetOf line
  let mine := s.m.l2.filter fun e => l2SetOf e.1 == set
  let busy (w : Nat) : Bool := mine.any fun e => e.2.way == w && (s.chan (line / 0x800000)).reading e.1
  match (List.range 16).find? (fun w => !(mine.any fun e => e.2.way == w)) with
  | some w => some w
  | none => (treeVictim 4 (tget 0 s.m.plru set).toNat :: List.range 16).find? (!busy ·)

/-- Allocate a line in a way, whose line leaves (03 R75). -/
def State.l2Alloc (s : State) (line way : Nat) : State :=
  s.onMod fun m =>
    { m with l2 := tset (m.l2.filter fun e => !(l2SetOf e.1 == l2SetOf line && e.2.way == way)) line { way := way } }

/-- The line of a location for an access that allocates where it is absent: the state with it, or none. -/
def State.l2Line (s : State) (line : Nat) (alloc : Bool) : Option State :=
  if (tget? s.m.l2 line).isSome then some s
  else if alloc then (s.l2Way line).map (s.l2Alloc line) else none

/-- An access to the bytes that a mask of the line names, all in the sector of k, at its slice bank (03 R75, R77, R78): `alloc` for
memory type 00, `fill` for operations that need the whole sector. Answers whether it hit. An access without a line goes to the channel;
a read of a poisoned sector is there a fill too, logged at every read (log 57). -/
def State.l2Touch (s : State) (k : Nat) (msk : BitVec 256) (write fill alloc : Bool) : State × Bool :=
  if !isHbm k then (s, true)
  else
    let line := lineKey k
    let sec := k / 64 % 4
    let hit := (tget? s.m.l2 line).isSome
    match s.l2Line line alloc with
    | none => ((if (!write || fill) && s.m.poisonS.contains (k / 64) then s.logFill k else s), false)
    | some s =>
      let e := tget { way := 0 } s.m.l2 line
      let need := (!write && (e.m &&& msk) != msk) || fill
      let filled := need && !e.v.getLsbD sec
      let ue := filled && s.m.poisonS.contains (k / 64)
      let s := if ue then s.logFill k else s
      let m' := if write then e.m ||| msk else e.m
      let secMask : BitVec 256 := BitVec.ofNat 256 ((2 ^ 64 - 1) * 2 ^ (64 * sec))
      let v := if filled || (m' &&& secMask) == secMask then e.v ||| BitVec.ofNat 4 (2 ^ sec) else e.v
      let whole := write && (m' &&& secMask) == secMask
      let p := if ue then e.poison ||| BitVec.ofNat 4 (2 ^ sec) else if whole then e.poison &&& ~~~(BitVec.ofNat 4 (2 ^ sec)) else e.poison
      (s.onMod fun m => { m with
          poisonS := if whole then sdel m.poisonS (k / 64) else m.poisonS
          injS := if whole then sdel m.injS (k / 64) else m.injS
          l2 := tset m.l2 line { e with v := v, m := m', poison := p }
          plru := tmod 0 m.plru (l2SetOf line) (fun t => BitVec.ofNat 15 (treeUse 4 t.toNat e.way)) },
        hit && !filled)

/-- An access to n bytes of one sector. -/
def State.l2Access (s : State) (k n : Nat) (write fill alloc : Bool) : State × Bool :=
  s.l2Touch k (BitVec.ofNat 256 ((2 ^ n - 1) * 2 ^ (k % 256))) write fill alloc

/-- The bytes of locations within the sector of k, as a mask of its line. -/
def sectorMask (k : Nat) (keys : List Nat) : BitVec 256 :=
  BitVec.ofNat 256 (keys.foldl (fun a i => if i / 64 = k / 64 then a ||| 2 ^ (i % 256) else a) 0)

/-- The HBM sectors among some locations. -/
def hbmSectors (keys : List Nat) : List Nat := keys.foldl (fun l k => if isHbm k then sadd l (k / 64) else l) []

/-- Accesses to HBM locations, one for each 64-byte sector among them. -/
def State.l2Sectors (s : State) (keys : List Nat) (write fill alloc : Bool) : State :=
  (hbmSectors keys).foldl (fun s w => (s.l2Touch (w * 64) (sectorMask (w * 64) keys) write fill alloc).1) s

/-- Writes of HBM locations, one for each sector; `fill` for a capability store, which fills its sector first (03 R78). -/
def State.l2Writes (s : State) (keys : List Nat) (fill alloc : Bool) : State := s.l2Sectors keys true fill alloc

/-- A line whose poisoned sectors have been written in full outside the L2 is clean again (14 R353). -/
def Mod.cleanL2 (m : Mod) (keys : List Nat) : Mod :=
  { m with l2 := m.l2.map fun e =>
      (e.1, { e.2 with poison := BitVec.ofNat 4 ((List.range 4).foldl (fun a i =>
        let k := hbmKey (e.1 / 0x800000) (e.1 % 0x800000 * 256 + 64 * i)
        if e.2.poison.getLsbD i && !((keysFrom k 64).all keys.contains) then a + 2 ^ i else a) 0) }) }

/-- Write back and invalidate the line of a location, without a change of data (16 R355, 14 R351). -/
def State.l2Drop (s : State) (k : Nat) : State := s.onMod fun m => { m with l2 := tdel m.l2 (lineKey k) }

/-- The location reads as poisoned data in an access; `whole` for one that needs its whole sector (16 R379, 03 R76, R78). -/
def State.poisonedFor (s : State) (whole : Bool) (k : Nat) : Bool :=
  s.poisoned k || (whole && isHbm k && s.m.poisonS.contains (k / 64) &&
    match tget? s.m.l2 (lineKey k) with
    | some ln => !ln.v.getLsbD (keyL k % 256 / 64)
    | none => true)

/-- The poison site and place of a location (16 R380, R382): site, sub, address. -/
def State.poisonSite (s : State) (k : Nat) : Nat × Nat × Nat :=
  if isL1 k then (0, l1Sub k, k)
  else if (tget? s.m.l2 (lineKey k)).any (fun ln => ln.v.getLsbD (keyL k % 256 / 64)) then (1, keyL k / 1024 % 16, hbmPa k)
  else (2, keyL k / 1024 % 16, hbmPa k)

/-! ## Waiting at a channel (03 R82 to R84) -/

/-- A read of a location needs its channel (03 R75): its sector is to be filled. -/
def State.needsFill (s : State) (k : Nat) (whole : Bool) : Bool :=
  match tget? s.m.l2 (lineKey k) with
  | none => true
  | some ln => !ln.v.getLsbD (keyL k % 256 / 64) && (whole || !ln.m.getLsbD (keyL k % 256))

/-- The bank of a location among all banks of the channels. -/
def bankOf (k : Nat) : Nat := keyCh k * 16 + keyL k / 1024 % 16

/-- The bank of a location is under refresh, or its channel waits to begin an all-bank refresh (03 R82, R83). -/
def State.inRefresh (s : State) (k : Nat) : Bool :=
  isHbm k && let c := s.chan (keyCh k); c.all || c.allWait || c.banks.contains (keyL k / 1024 % 16)

/-- Whose read it is, where several wait for one bank (03 R83): a hart's own or its walker's, an engine operation's, or another's, which
stands at its channel. -/
inductive Reader where
  | hart (n : Nat)
  | walk (n : Nat)
  | op (key : Nat)
  | other
deriving DecidableEq, Repr

/-- The wait of a reader for the sector of a location: bank and stamp. -/
def State.readerWait (s : State) (r : Reader) (k : Nat) : Option (Nat × Nat) :=
  match r with
  | .hart n => (s.hartAt n).chanWait
  | .walk n => (s.hartAt n).chanWait
  | .op o => (tget? s.m.ops o).bind (·.chanWait)
  | .other => ((s.chan (keyCh k)).others.find? (·.1 == k / 64)).map fun e => (bankOf k, e.2)

/-- A reader with its wait for the sector of a location set. -/
def State.setReaderWait (s : State) (r : Reader) (k : Nat) (w : Option (Nat × Nat)) : State :=
  if s.readerWait r k = w then s
  else match r with
    | .hart n => s.modHart n fun h => { h with chanWait := w }
    | .walk n => s.modHart n fun h => { h with chanWait := w }
    | .op o =>
      match tget? s.m.ops o with
      | some x => s.onMod fun m => { m with ops := tset m.ops o { x with chanWait := w } }
      | none => s
    | .other => s.modChan (keyCh k) fun c =>
      { c with others := c.others.filter (·.1 != k / 64) ++ (w.map fun x => (k / 64, x.2)).toList }

/-- Every wait for a bank, with its stamp. -/
def State.chanWaits (s : State) : List (Nat × Nat) :=
  s.cores.filterMap (fun n => (s.hartAt n).chanWait) ++ s.m.ops.filterMap (fun o => o.2.chanWait)
    ++ s.m.chans.flatMap fun e => e.2.others.map fun x => (bankOf (64 * x.1), x.2)

/-- The moment of a reader's arrival at the bank of a location, as a stamp: now, unless it waits there. -/
def State.arrivedAt (s : State) (r : Reader) (k : Nat) : Nat :=
  match s.readerWait r k with
  | some (b, t) => if b = bankOf k then t else s.m.mxStamp
  | none => s.m.mxStamp

/-- Another read arrived at the bank earlier and waits still (03 R83). -/
def State.outrun (s : State) (r : Reader) (k : Nat) : Bool :=
  s.chanWaits.any fun w => w.1 == bankOf k && decide (w.2 < s.arrivedAt r k)

/-- The bank of a location keeps a read waiting: it is under refresh, or the channel waits to begin an all-bank refresh and the read
arrived after the slot that asks for it (03 R82, R83). -/
def State.bankHeld (s : State) (r : Reader) (k : Nat) : Bool :=
  isHbm k && let c := s.chan (keyCh k)
    c.all || c.banks.contains (keyL k / 1024 % 16) || (c.allWait && decide (c.allAt ≤ s.arrivedAt r k))

/-- Reads that have arrived at a channel and wait there, which began to wait before a moment (03 R82). -/
def State.waitsAt (s : State) (ch before : Nat) : Bool := s.chanWaits.any fun w => w.1 / 16 == ch && decide (w.2 < before)

/-- STALL at a moment (03 R84): with the cycles of a wait that is not over. -/
def Chan.stalled (c : Chan) (now : Nat) : Nat :=
  min (c.stall + (match c.stallFrom with | some t => (now - t) / mclkUnits | none => 0)) (2 ^ 48 - 1)

/-- The first read that waits for the refresh under way begins a time that STALL counts (03 R84). -/
def State.stallBegins (s : State) (ch at0 : Nat) : State :=
  s.modChan ch fun c => { c with stallFrom := c.stallFrom.or (some at0) }

/-- A read begins to wait at the bank of a location. -/
def State.queueAt (s : State) (r : Reader) (k : Nat) : State :=
  if (s.readerWait r k).any (·.1 == bankOf k) then s
  else (s.setReaderWait r k (some (bankOf k, s.m.mxStamp))).onMod fun m => { m with mxStamp := m.mxStamp + 1 }

/-- A read of a reader begins the fill of a sector, or goes to the channel past the L2: its instruction counts a miss (23 R454). -/
def State.beginsFill (s : State) (r : Reader) : State :=
  match r with
  | .hart n => if (s.hartAt n).l2Miss then s else s.modHart n fun h => { h with l2Miss := true }
  | _ => s

/-- A read whose sector is to be filled, at the channel of a location (03 R75, R82, R83): it goes on (true), or it waits: for a refresh,
for an earlier read of the bank, for a way, or for its data where `pends` says that they do not come at once (log 46). -/
def State.sectorRead (s : State) (r : Reader) (at0 : Nat) (alloc : Bool) (k : Nat) : State × Bool :=
  let ch := keyCh k
  if (s.chan ch).reads.contains (k / 64) then (s, false)
  else if s.bankHeld r k then ((s.queueAt r k).stallBegins ch at0, false)
  else if s.outrun r k then (s.queueAt r k, false)
  else if alloc && (s.l2Line (lineKey k) true).isNone then (s, false)
  else
    let s := s.beginsFill r
    if s.pends.headD false then
      let s := { s.setReaderWait r k none with pends := s.pends.tail }
      let s := (s.l2Line (lineKey k) alloc).getD s
      (s.modChan ch fun c => { c with reads := sadd c.reads (k / 64) }, false)
    else ({ s.setReaderWait r k none with pends := s.pends.tail }, true)

/-- A hart or an engine operation waits for no bank any more. -/
def State.stopsWaiting (s : State) (r : Reader) : State := if r = .other then s else s.setReaderWait r 0 none

/-- A read of some locations at its channels, before it is performed, by a reader that arrives at `at0`: it goes on (true) once no
sector of it waits. `whole` where it needs its sectors whole, `alloc` where it allocates. -/
def State.channelRead (s : State) (r : Reader) (at0 : Nat) (keys : List Nat) (whole alloc : Bool) : State × Bool :=
  let served (w : Nat) : Bool := (s.chan (keyCh (64 * w))).served.contains w
  let need := keys.filter fun k => isHbm k && s.needsFill k whole && !served (k / 64)
  let firsts := (hbmSectors need).filterMap fun w => need.find? (· / 64 == w)
  let (s, ok) := firsts.foldl (fun (p : State × Bool) k => if p.2 then p.1.sectorRead r at0 alloc k else p) (s, true)
  if ok then
    let done := (hbmSectors keys).filter served
    (done.foldl (fun s w => s.modChan (keyCh (64 * w)) fun c => { c with served := sdel c.served w }) (s.stopsWaiting r), true)
  else (s, false)

/-- A write of some locations waits at its channel (03 R83): it goes past the L2 to a bank under refresh, it fills its sector first
from one, or no way of its set is free of pending reads. -/
def State.writeWaits (s : State) (keys : List Nat) (fill alloc : Bool) : Bool :=
  keys.any fun k => isHbm k &&
    ((s.inRefresh k && ((fill && s.needsFill k true) || (!alloc && (tget? s.m.l2 (lineKey k)).isNone)))
      || (alloc && (s.l2Line (lineKey k) true).isNone))

end Sys2Proof.Machine
end

