-- ==== Sys2Proof/Machine/Image.lean ====
section
/-! DEFINITION. The records of a save image (15 R366) and of the undo area (16 R389) as bytes: what the spec lays out, with the
CRC-32Cs; bytes that it does not lay out are open (log 35). -/

namespace Sys2Proof.Machine

/-- Byte i of a number. -/
def byteOf (v i : Nat) : Byte := BitVec.ofNat 8 (v / 256 ^ i)

/-- The CRC-32C of bytes. -/
def crcOf (l : List Byte) : Nat := (~~~(l.foldl (fun c b => crcBytes 1 c b.toNat) 0xFFFFFFFF#32)).toNat

/-- A record with the CRC-32C of its bytes at offset `o`, computed with that word as zero. -/
def withCrc (l : List Byte) (o : Nat) : List Byte :=
  let zero := l.zipIdx.map fun e => if o ≤ e.2 ∧ e.2 < o + 4 then 0 else e.1
  let crc := crcOf zero
  zero.zipIdx.map fun e => if o ≤ e.2 ∧ e.2 < o + 4 then byteOf crc (e.2 - o) else e.1

/-- Bytes with their CRC-32C after them. -/
def crcEnded (l : List Byte) : List Byte := l ++ splitBytes 4 (crcOf l)

/-- Bytes end with the CRC-32C of those before. -/
def crcGood (l : List Byte) : Bool := l == crcEnded (l.take (l.length - 4))

/-- The gang header, of a gang whose harts, by LCORE, and Hearths, by logical Tray, are given. -/
def Gang.header (g : Gang) (harts : Tbl Hart) (hearths : List Nat) (time : Nat) (open0 : Nat → Byte) : List Byte :=
  let h0 : Hart := tget {} harts 0
  let hmap := hearths.zipIdx.foldl (fun a e => a + e.1 * 4 ^ e.2) 0
  crcEnded ((List.range 0xFFFC).map fun i =>
    if i < 0x40 then byteOf g.lrec.toNat i
    else if i < 0x48 then byteOf h0.id.gangsz.toNat (i - 0x40)
    else if i < 0x50 then byteOf time (i - 0x48)
    else if i < 0x58 then byteOf (b2n g.forced + 4 * b2n g.roll.isSome) (i - 0x50)
    else if i < 0xD8 then byteOf hmap (i - 0x58)
    else if i < 0xF8 then byteOf ((h0.id.dom.toList.getD ((i - 0xD8) / 8) 0).toNat) ((i - 0xD8) % 8)
    else if i < 0x100 then byteOf (b2n g.opalBlack + 2 * g.opalAt) (i - 0xF8)
    else open0 i)

/-- A logical-Tray record. -/
def trayRecord (open0 : Nat → Byte) : List Byte := crcEnded ((List.range 0x1FFC).map open0)

/-- Byte i of a hart record below 0x3400: the registers and the token queue. -/
def Hart.recordByte (h : Hart) (open0 : Nat → Byte) (i : Nat) : Byte :=
  if i < 0x1000 then open0 i
  else if i < 0x1200 then
    let x : Cap := h.c.toList.getD ((i - 0x1000) / 32) {}
    if (i - 0x1000) % 32 < 16 then byteOf (x.addr.toNat + x.md.toNat * 2 ^ 64) ((i - 0x1000) % 32) else open0 i
  else if i < 0x1A00 then byteOf ((h.v.toList.getD ((i - 0x1200) / 64) 0).toNat) ((i - 0x1200) % 64)
  else if i < 0x1A40 then
    match h.mx.tokens[(i - 0x1A00) / 8]? with
    | some x => byteOf x.toNat ((i - 0x1A00) % 8)
    | none => open0 i
  else open0 i

/-- A hart record; `near` are the bytes and the tagged granules of its near window, where it has one. -/
def Hart.record (h : Hart) (mset : Bool) (near : Option (List Nat × List Nat)) (open0 : Nat → Byte) : List Byte :=
  withCrc ((List.range 0x20000).map fun i =>
    if i < 0x3400 then h.recordByte open0 i
    else if mset then 0
    else match near with
      | none => open0 i
      | some (bytes, tags) =>
        if i < 0x3600 then BitVec.ofNat 8 (((List.range 8).map fun b => b2n (tags.contains (8 * (i - 0x3400) + b)) * 2 ^ b).foldl (· + ·) 0)
        else if 0x10000 ≤ i then BitVec.ofNat 8 (bytes.getD (i - 0x10000) 0)
        else open0 i) 0xFFC

/-- A hart with what its record's laid-out bytes hold: ADDR and metadata of its c-registers, its v-registers and tokens. -/
def Hart.ofRecord (h : Hart) (r : List Byte) : Hart :=
  let num (o n : Nat) : Nat := joinBytes ((r.drop o).take n)
  { h with
    c := Vector.ofFn fun k => { h.c[k] with addr := w64 (num (0x1000 + 32 * k.val) 8), md := w64 (num (0x1008 + 32 * k.val) 8) }
    v := Vector.ofFn fun k => BitVec.ofNat 512 (num (0x1200 + 64 * k.val) 64)
    mx := { h.mx with tokens := h.mx.tokens.mapIdx fun i _ => w64 (num (0x1A00 + 8 * i) 8) } }

/-- The near window of a hart record: its bytes and its tagged granules. -/
def nearOfRecord (r : List Byte) : List Nat × List Nat :=
  ((r.drop 0x10000).map (·.toNat), (List.range 4096).filter fun g => bit ((r.getD (0x3400 + g / 8) 0).toNat) (g % 8) == 1)

/-- Bytes at a physical address. -/
def State.paBytes (s : State) (pa n : Nat) : List Byte := (List.range n).map fun i => mget s.m.mem (paKey s.m (pa + i))

/-! ## The Garnet log (16 R386) -/

/-- The header: format, boot count, SUSPTH, CRC-32C. -/
def GLog.header (g : GLog) : List Byte :=
  crcEnded ((List.range 0xFFC).map fun i =>
    if i < 2 then byteOf 1 i
    else if 4 ≤ i ∧ i < 8 then byteOf g.boot (i - 4)
    else if 8 ≤ i ∧ i < 10 then byteOf g.susp (i - 8)
    else Config.freeGarnetByte i)

/-- Byte i of the log. The journal's ring begins at its first record (log 70). -/
def GLog.byte (g : GLog) (i : Nat) : Byte :=
  if i < 0x1000 then g.header.getD i 0
  else if i < 0x26000 then byteOf (tget 0 g.counters (i / 2 * 2)) (i % 2)
  else if i < 0x27000 then
    match g.suspects[(i - 0x26000) / 8]? with
    | none => 0
    | some (off, boot) => if i % 8 < 2 then byteOf (garnetUnit off) (i % 8) else if i % 8 < 4 then Config.freeGarnetByte i else byteOf boot (i % 8 - 4)
  else
    let j := ((i - 0x27000) / 32 + journalCap - (g.written - g.journal.length) % journalCap) % journalCap
    match g.journal[j]? with
    | some r => byteOf r.word ((i - 0x27000) % 32)
    | none => 0

/-! ## The undo area (16 R388, R389; log 37) -/

/-- The bytes of a snapshot set. -/
def Gang.snapBytes (g : Gang) : Nat := 0x10000 + 0x2000 * ((g.size + 7) / 8) + 0x3400 * g.size

/-- The area begins here. -/
def Roll.base (r : Roll) : Nat := bits r.cfg.toNat 47 16 * 0x10000
/-- A snapshot set begins here. -/
def Gang.setPa (g : Gang) (r : Roll) (k : Nat) : Nat := r.base + k * g.snapBytes
/-- The retry count lies here. -/
def Gang.retryPa (g : Gang) (r : Roll) : Nat := r.base + 2 * g.snapBytes
/-- Entry i of the undo log. -/
def Gang.undoPa (g : Gang) (r : Roll) (i : Nat) : Nat := g.retryPa r + 64 + 320 * i
/-- The number of entries that the log holds. -/
def Gang.undoCap (g : Gang) (r : Roll) : Nat := (2 ^ (bits r.cfg.toNat 11 8 + 24) - 2 * g.snapBytes - 64) / 320

/-- Write bytes at a physical address in HBM. -/
def Mod.putPa (m : Mod) (pa : Nat) (l : List Byte) : Mod :=
  let cells : List Host.Cell := (l.zipIdx.map fun e => (paKey m (pa + e.2), e.1)).filter fun c => isHbm c.1
  let keys := cells.map (·.1)
  ({ m with mem := msets m.mem cells, tags := m.tags.filter fun g => !(keys.any (· / 16 == g)) }.unpoison keys).cleanL2 keys

/-- The bytes of an undo entry: its header and its old contents. -/
def Undo.entry (u : Undo) (open0 : Nat → Byte) : List Byte :=
  let off := if u.kind = 2 then u.index else u.index * 256
  let first := (u.tags.headD 0) / 16 * 16
  let head := u.kind + 4 * u.hearth + 0x100 * off + (u.tags.map fun g => 2 ^ (g - first)).foldl (· + ·) 0 * 2 ^ 36
  splitBytes 8 head ++ (List.range 56).map (fun i => open0 (8 + i)) ++
    match u.kind with
    | 0 => u.bytes.map (BitVec.ofNat 8)
    | 1 => u.bytes.flatMap (splitBytes 16)
    | _ => (List.range 256).map fun i => open0 (64 + i)

/-- Write bytes into the undo area: a task queue that owns one of them is undefined (08 R184). -/
def State.putUndo (s : State) (pa : Nat) (l : List Byte) : State :=
  ((if s.m.ctxs.isEmpty then s else s.disturb ((List.range l.length).map fun i => paKey s.m (pa + i)))).onMod (·.putPa pa l)

/-- An undo entry as its bytes in the undo area say: the contents of a tile-table entry, which have no layout there, are `u`'s (log 37). -/
def Undo.ofEntry (u : Undo) (b : List Byte) : Undo :=
  let head := joinBytes (b.take 8)
  let kind := bits head 1 0
  let off := bits head 35 8
  let index := if kind < 2 then off / 256 else off
  let first := l1Key (bits head 3 2) (index * 256) / 16
  { kind := kind, hearth := bits head 3 2, index := index, tile := u.tile
    bytes := match kind with
      | 0 => (b.drop 64).map (·.toNat)
      | 1 => (List.range 16).map fun i => joinBytes ((b.drop (64 + 16 * i)).take 16)
      | _ => []
    tags := if kind = 0 then ((List.range 16).filter fun i => bit head (36 + i) == 1).map (first + ·) else [] }

/-- The undo log as it stands in HBM (16 R389). -/
def State.undoLog (s : State) (g : Gang) (r : Roll) : List Undo := r.log.zipIdx.map fun e => e.1.ofEntry (s.paBytes (g.undoPa r e.2) 320)

/-- The record of LCORE l in the current snapshot set. -/
def Gang.snapPa (g : Gang) (r : Roll) (set l : Nat) : Nat := g.setPa r set + 0x10000 + 0x2000 * ((g.size + 7) / 8) + 0x3400 * l

/-- A hart of the current snapshot set, as its record in HBM says (16 R389, R391). -/
def State.snapHart (s : State) (g : Gang) (r : Roll) (l : Nat) (h : Hart) : Hart := h.ofRecord (s.paBytes (g.snapPa r r.set l) 0x3400)

/-- The first address of the undo area with an uncorrectable error: of the log's entries, of the current snapshot set, of the retry
count. -/
def State.undoBad (s : State) (g : Gang) (r : Roll) : Option Nat :=
  let bad (pa : Nat) : Bool := let k := paKey s.m pa; isHbm k && s.poisoned k
  let entries := (List.range r.log.length).map (g.undoPa r)
  match entries.find? fun pa => (List.range 6).any fun i => bad (pa + min 319 (64 * i)) with
  | some pa => some pa
  | none =>
    if s.m.poisonS.isEmpty && s.m.l2.all (·.2.poison == 0) then none
    else (((List.range (g.snapBytes / 64)).map fun i => g.setPa r r.set + 64 * i) ++ [g.retryPa r]).find? bad

/-- A hart's snapshot goes into the set not in use: bytes 0 to 0x33FF of its record. -/
def State.writeSnap (s : State) (gang lc : Nat) (h : Hart) : State :=
  match s.gang? gang with
  | none => s
  | some g =>
    match g.roll with
    | none => s
    | some r =>
      let s := s.modGang gang fun g => { g with roll := some { r with next := tset r.next lc h } }
      let body := withCrc ((List.range 0x3400).map (h.recordByte (Config.freeImageByte s.tick))) 0xFFC
      { s with tick := s.tick + 1 }.putUndo (g.snapPa r (1 - r.set) lc) body

/-- The set not in use becomes current: its header and Tray records are written, and the retry count is 0. -/
def State.writeSet (s : State) (g : Gang) (r : Roll) (harts : Tbl Hart) (hearths : List Nat) : State :=
  let to0 := g.setPa r (1 - r.set)
  let at0 (base : Nat) : Nat → Byte := fun i => Config.freeImageByte s.tick (base + i)
  let trays := (List.range ((g.size + 7) / 8)).flatMap fun k => trayRecord (at0 (0x10000 + 0x2000 * k))
  ({ s with tick := s.tick + 1 }.putUndo to0 (g.header harts hearths s.nowNs (at0 0) ++ trays)).putUndo (g.retryPa r) (splitBytes 8 0)

end Sys2Proof.Machine
end

