-- ==== Sys2Proof/Machine/Xlate.lean ====
section
/-! DEFINITION. Translation (01 R31 to R41): the die TLB, the walk cache, the walk and its A and D bits, which go through the L2. -/

namespace Sys2Proof.Machine

/-- Why a translation gives no address, each with the state its reads have left: a reason and level; an uncorrectable error in a table entry, with its site, SUB and address
(16 R380, R382) and whether ERRINJ planted it; or a table entry that has still to come from its channel. -/
inductive XErr where
  | fault (reason level : Nat) (s : State)
  | ue (site sub addr : Nat) (inj : Bool) (s : State)
  | wait (s : State)
deriving DecidableEq, Repr

/-- A leaf as translated: its TLB entry. -/
abbrev Leaf := TlbE

/-- The physical address a leaf gives for a VA. -/
def leafPa (e : TlbE) (va : Nat) : Nat := if e.block then e.pa + va % 0x20000000 else e.pa + va % 0x10000

/-! ## The die TLB (01 R36) -/

/-- The TLB set of an entry on a die (01 R36). -/
def tlbSet (die va : Nat) (block : Bool) : Nat := die * 512 + (if block then va / 0x20000000 % 512 else va / 0x10000 % 512)

/-- A TLB entry translates a VA of a context. -/
def tlbHit (ctx va : Nat) (e : TlbE) : Bool :=
  e.ctx == ctx && (if e.block then e.vpn == va / 0x20000000 else e.vpn == va / 0x10000)

/-- Look up the die TLB, the page set and the block set: set, way and entry. -/
def tlbFind (m : Mod) (die ctx va : Nat) : Option (Nat × Nat × TlbE) :=
  let probe (block : Bool) : Option (Nat × Nat × TlbE) :=
    let set := tlbSet die va block
    ((tget [] m.tlb set).find? fun e => e.2.block == block && tlbHit ctx va e.2).map fun e => (set, e.1, e.2)
  (probe false).or (probe true)

/-- A way of a TLB set is used (log 9). -/
def tlbUse (m : Mod) (set way : Nat) : Mod := { m with tlbLru := tmod 0 m.tlbLru set fun t => BitVec.ofNat 7 (treeUse 3 t.toNat way) }

/-- Install an entry: in the way that holds its page or block already, else a free one, else the one its pseudo-LRU tree names
(log 9). -/
def tlbPut (m : Mod) (die va : Nat) (e : TlbE) : Mod :=
  let set := tlbSet die va e.block
  let ways := tget [] m.tlb set
  let same := (ways.find? fun x => x.2.ctx == e.ctx && x.2.vpn == e.vpn && x.2.block == e.block).map (·.1)
  let way := (same.or (tfree ways 8)).getD (treeVictim 3 (tget 0 m.tlbLru set).toNat)
  tlbUse { m with tlb := tset m.tlb set (tset ways way e) } set way

/-! ## Table entries (01 R31, R33) -/

/-- Read a table entry through the L2; a table must lie wholly in backed HBM (03 R73). A poisoned entry is logged as its fill is
(03 R76). -/
def pte (s : State) (r : Reader) (at0 table idx level : Nat) : Except XErr (State × Nat) :=
  if !(paHbm table && paBacked table) then .error (.fault 5 level s)
  else
    let k := paKey s.m (table + 8 * idx)
    let keys := keysFrom k 8
    match s.channelRead r at0 keys false true with
    | (s, false) => .error (.wait s)
    | (s, true) =>
      let bad := keys.any (s.poisonedFor false)
      let (site, sub, addr) := s.poisonSite k
      let inj := s.poisonInj k
      let s := (s.l2Access k 8 false false true).1
      if bad then .error (.ue site sub addr inj s) else .ok (s, joinBytes (keys.map (mget s.m.mem)))

/-- Check a leaf entry's own form and give the TLB entry with the physical address of the page-table entry (01 R33). -/
def leafOf (s : State) (ctx va level : Nat) (block : Bool) (e : Nat) : Except XErr TlbE :=
  if bit e 0 = 0 then .error (.fault 0 level s)
  else if bits e 15 11 ≠ 0 ∨ bits e 10 9 = 3 ∨ bit e 1 = 1 ∨ (block ∧ bits e 28 16 ≠ 0) then .error (.fault 3 level s)
  else .ok { ctx := ctx, vpn := if block then va / 0x20000000 else va / 0x10000, block := block, pa := bits e 47 16 * 0x10000, bits := bits e 10 0 }

/-- Check a table entry and give the next table (01 R33). -/
def tableOf (s : State) (e level : Nat) : Except XErr Nat :=
  if bit e 0 = 0 then .error (.fault 0 level s)
  else if bits e 15 11 ≠ 0 ∨ bit e 1 = 0 then .error (.fault 3 level s)
  else .ok (bits e 47 16 * 0x10000)

/-- The walk cache of a die: level-1 and level-2 table entries, the most recent first (01 R37). -/
def walkFind (m : Mod) (die ctx va : Nat) (lvl2 : Bool) : Option Nat :=
  ((tget [] m.walks die).find? fun e => e.ctx == ctx && e.block == lvl2 && e.vpn == (if lvl2 then va / 0x20000000 else va / 0x40000000000)).map (·.pa)

/-- Keep a table entry in the walk cache. -/
def walkPut (s : State) (die ctx va : Nat) (lvl2 : Bool) (table : Nat) : State :=
  let e : TlbE := { ctx := ctx, vpn := if lvl2 then va / 0x20000000 else va / 0x40000000000, block := lvl2, pa := table, bits := 0 }
  s.onMod fun m => { m with walks := tmod [] m.walks die fun l => (e :: l.filter (· != e)).take 256 }

/-- The walk (01 R31, R33): the leaf with the physical address of its entry, and the state with the walk cache updated. -/
def walk (s : State) (r : Reader) (at0 die ctx va : Nat) : Except XErr (State × TlbE × Nat) := do
  let c := s.ctx ctx
  if !c.ptEn then .error (.fault 4 0 s)
  else
    let i2 := va / 0x20000000 % 8192
    let last (s : State) (t : Nat) : Except XErr (State × TlbE × Nat) := do
      let (s, e) ← pte s r at0 t (va / 0x10000 % 8192) 3
      let leaf ← leafOf s ctx va 3 false e
      .ok (s, leaf, t + 8 * (va / 0x10000 % 8192))
    let (s, l2tab) ← (match walkFind s.m die ctx va false with
      | some t => .ok (s, t)
      | none => do
        let (s, e) ← pte s r at0 (c.ptTable.toNat * 0x10000) (va / 0x40000000000 % 8192) 1
        let t ← tableOf s e 1
        .ok (walkPut s die ctx va false t, t) : Except XErr (State × Nat))
    match walkFind s.m die ctx va true with
    | some t => last s t
    | none => do
      let (s, e) ← pte s r at0 l2tab i2 2
      if bit e 0 = 1 ∧ bit e 1 = 0 then
        let leaf ← leafOf s ctx va 2 true e
        .ok (s, leaf, l2tab + 8 * i2)
      else
        let t ← tableOf s e 2
        last (walkPut s die ctx va true t) t

/-- What a translated access is, for the leaf checks. -/
structure Acc where
  rd : Bool := false
  wr : Bool := false
  x : Bool := false
  atomic : Bool := false
  user : Bool := false
  check : Bool := true

/-- The leaf checks of R33, step 3; the reason of the first that fails. -/
def leafReason (e : TlbE) (a : Acc) : Option Nat :=
  if !(paBacked e.pa && paBacked (e.pa + (if e.block then 0x1FFFFFFF else 0xFFFF))) || (a.x && !paHbm e.pa) then some 5
  else if !a.check then none
  else if (a.rd && bit e.bits 2 = 0) || (a.wr && bit e.bits 3 = 0) || (a.x && bit e.bits 4 = 0) then some 1
  else if a.user && bit e.bits 5 = 0 then some 2
  else if a.atomic && !paHbm e.pa then some 5
  else none

/-- Set bits of a page-table entry with an atomic OR at the L2 (01 R34, 03 R78); the granule's tag clears (01 R23). -/
def orPte (s : State) (pa mask : Nat) : State :=
  let k := paKey s.m pa
  let s := (s.l2Access k 8 true true true).1
  let old := joinBytes ((keysFrom k 8).map (mget s.m.mem))
  s.onMod fun m => { m with mem := msets m.mem ((keysFrom k 8).zip (splitBytes 8 (old ||| mask))), tags := sdel m.tags (k / 16) }

/-- A walk's leaf with its A and, for a write, D bit set in memory as it is installed (01 R33, R34). -/
def install (s : State) (r : Reader) (at0 die ctx v : Nat) (a : Acc) : Except XErr (State × TlbE) :=
  match walk s r at0 die ctx v with
  | .error x => .error x
  | .ok (s, e, pa) =>
    match leafReason e a with
    | some reason => .error (.fault reason (if e.block then 2 else 3) s)
    | none =>
      let mask := 0x80 + (if a.wr then 0x100 else 0)
      if e.bits ||| mask = e.bits then .ok (s.onMod (tlbPut · die v e), e)
      else
        match s.channelRead r at0 (keysFrom (paKey s.m pa) 8) true true with
        | (s, false) => .error (.wait s)
        | (s, true) => .ok ((orPte s pa mask).onMod (tlbPut · die v { e with bits := e.bits ||| mask }), { e with bits := e.bits ||| mask })

/-- Translate (01 R33, R34, R36) for a reader whose access begins at `at0`: a TLB hit whose A and D bits suffice is used; otherwise the
walker walks, sets A and, for a write, D, and installs the leaf. -/
def translate (s : State) (r : Reader) (at0 die ctx : Nat) (va : Word) (a : Acc) : Except XErr (State × TlbE) :=
  let v := a55 va
  match tlbFind s.m die ctx v with
  | some (set, way, e) =>
    match leafReason e a with
    | some reason => .error (.fault reason (if e.block then 2 else 3) s)
    | none =>
      if bit e.bits 7 = 1 && (!a.wr || bit e.bits 8 = 1) then .ok (s.onMod (tlbUse · set way), e) else install s r at0 die ctx v a
  | none => install s r at0 die ctx v a

end Sys2Proof.Machine
end

