-- ==== Sys2Proof/Machine/Flags.lean ====
section
/-! DEFINITION. ARSTAT flags (06 R144) and the arithmetic environment an instruction samples at issue (06 R139, R141, R143). -/

namespace Sys2Proof.Machine

/-- A set of ARSTAT flags: [0] NV, [1] OF, [2] SAT, [3] CSAT. -/
abbrev Flags := BitVec 4

/-- A NaN was produced, or converted to an integer. -/
def fNV : Flags := 1
/-- A float result overflowed. -/
def fOF : Flags := 2
/-- A saturating integer instruction clipped. -/
def fSAT : Flags := 4
/-- A conversion clipped. -/
def fCSAT : Flags := 8

/-- A flag if a condition holds. -/
def flagIf (b : Bool) (f : Flags) : Flags := if b then f else 0

/-- The sampled arithmetic environment: RM (0 nearest-even, 1 toward zero, 2 up, 3 down), SATF and FLUSHCTL. -/
structure FEnv where
  rm : Nat := 0
  satf : Bool := false
  flush : BitVec 8 := 0
deriving DecidableEq, Repr

/-- FI of a class (06 R141). -/
def FEnv.fi (e : FEnv) (cls : Nat) : Bool := e.flush.getLsbD (2 * cls)
/-- FO of a class (06 R141). -/
def FEnv.fo (e : FEnv) (cls : Nat) : Bool := e.flush.getLsbD (2 * cls + 1)

/-- The environment of a rounding field: 0 uses ROUNDCTL.RM, 1 nearest-even, 2 toward zero, 3 down (06 R139). -/
def Ctl.env (c : Ctl) (rnd : Nat) : FEnv where
  rm := match rnd with
    | 0 => c.round.toNat % 4
    | 1 => 0
    | 2 => 1
    | _ => 3
  satf := c.round.getLsbD 2
  flush := c.flush

/-- The environment a hart samples. -/
def State.env (s : State) (rnd : Nat) : FEnv := s.hart.ctl.env rnd

/-- Set flags in ARSTAT (06 R144). -/
def Hart.setFlags (h : Hart) (f : Flags) : Hart := { h with ctl := { h.ctl with arstat := h.ctl.arstat ||| f } }

/-- Set flags in ARSTAT of the hart whose turn it is. -/
def State.setFlags (s : State) (f : Flags) : State := s.onHart (·.setFlags f)

/-- Results of elements: their bits with the flags of each. -/
abbrev FRes := Nat × Flags

/-- The union of flags. -/
def orFlags (l : List Flags) : Flags := l.foldl (· ||| ·) 0

end Sys2Proof.Machine
end

