-- ==== Sys2Proof/Machine/Operands.lean ====
section
/-! DEFINITION. Element formats and their arithmetic: the formats of 06 R131 to R136, exact values, the one rounding (06 R138 to
R140), flushes (R142), conversions (R145) and the blocked formats (R146 to R148). -/

namespace Sys2Proof.Machine

/-! ## Formats (06 R131 to R135) -/

/-- A format code is defined (06 R131). -/
def fmtDefined (c : Nat) : Bool := decide (c ≤ 0x0C) || (decide (0x10 ≤ c) && decide (c ≤ 0x17))

/-- An integer format: width and signedness. -/
structure IntFmt where
  w : Nat
  signed : Bool
deriving DecidableEq, Repr

/-- A binary float format (06 R134, R135): width, mantissa bits, bias, encoding of the largest finite magnitude, of the infinity
if it has one, of the canonical NaN, and flush class. -/
structure FloatFmt where
  w : Nat
  m : Nat
  bias : Nat
  maxBits : Nat
  inf : Option Nat
  nan : Nat
  cls : Nat
deriving DecidableEq, Repr

/-- FP32 -/
def fp32 : FloatFmt := { w := 32, m := 23, bias := 127, maxBits := 0x7F7FFFFF, inf := some 0x7F800000, nan := 0x7FC00000, cls := 0 }
/-- FP16 -/
def fp16 : FloatFmt := { w := 16, m := 10, bias := 15, maxBits := 0x7BFF, inf := some 0x7C00, nan := 0x7E00, cls := 1 }
/-- BF16 -/
def bf16 : FloatFmt := { w := 16, m := 7, bias := 127, maxBits := 0x7F7F, inf := some 0x7F80, nan := 0x7FC0, cls := 1 }
/-- E4M3 -/
def e4m3 : FloatFmt := { w := 8, m := 3, bias := 7, maxBits := 0x7E, inf := none, nan := 0x7F, cls := 2 }
/-- E5M2 -/
def e5m2 : FloatFmt := { w := 8, m := 2, bias := 15, maxBits := 0x7B, inf := some 0x7C, nan := 0x7E, cls := 2 }
/-- The E2M1 element, whose code 0b1000 stands for the block's special value and is no encoding of this format. -/
def e2m1 : FloatFmt := { w := 4, m := 1, bias := 1, maxBits := 7, inf := none, nan := 8, cls := 3 }

/-- What the components of a format are. -/
inductive FmtKind where
  | raw
  | int (f : IntFmt)
  | flt (f : FloatFmt)
  | cint (f : IntFmt)
  | cflt (f : FloatFmt)
  | blocked
  | none
deriving DecidableEq, Repr

/-- The kind of a format code (06 R131). -/
def fmtKind (c : Nat) : FmtKind :=
  match c with
  | 0x00 => .raw
  | 0x01 => .int { w := 8, signed := true }
  | 0x02 => .int { w := 16, signed := true }
  | 0x03 => .int { w := 32, signed := true }
  | 0x04 => .int { w := 64, signed := true }
  | 0x05 => .int { w := 8, signed := false }
  | 0x06 => .int { w := 16, signed := false }
  | 0x07 => .int { w := 32, signed := false }
  | 0x08 => .int { w := 64, signed := false }
  | 0x09 => .cint { w := 16, signed := true }
  | 0x0A => .cint { w := 32, signed := true }
  | 0x0B => .int { w := 4, signed := true }
  | 0x0C => .int { w := 4, signed := false }
  | 0x10 => .flt fp32
  | 0x11 => .flt fp16
  | 0x12 => .flt bf16
  | 0x13 => .flt e4m3
  | 0x14 => .flt e5m2
  | 0x15 => .blocked
  | 0x16 => .blocked
  | 0x17 => .cflt bf16
  | _ => .none

/-- The value of w bits in an integer format (06 R133). -/
def IntFmt.val (f : IntFmt) (x : Nat) : Int := if f.signed then toSigned f.w x else (x % 2 ^ f.w : Nat)
/-- The smallest value. -/
def IntFmt.lo (f : IntFmt) : Int := if f.signed then -(2 ^ (f.w - 1) : Nat) else 0
/-- The largest value. -/
def IntFmt.hi (f : IntFmt) : Int := if f.signed then (2 ^ (f.w - 1) : Nat) - 1 else (2 ^ f.w : Nat) - 1
/-- An integer clipped to the range, and whether it clipped. -/
def IntFmt.clip (f : IntFmt) (x : Int) : Int × Bool :=
  if x < f.lo then (f.lo, true) else if f.hi < x then (f.hi, true) else (x, false)
/-- The bits of a value modulo 2^w. -/
def IntFmt.enc (f : IntFmt) (x : Int) : Nat := wrap f.w x

/-! ## Exact values -/

/-- An exact value: NaN, an infinity, or (-1)^neg * n * 2^e, where n = 0 is a signed zero. -/
inductive Val where
  | nan
  | inf (neg : Bool)
  | fin (neg : Bool) (n : Nat) (e : Int)
deriving DecidableEq, Repr

/-- The value is a NaN. -/
def Val.isNan : Val → Bool
  | .nan => true
  | _ => false

/-- The value is an infinity. -/
def Val.isInf : Val → Bool
  | .inf _ => true
  | _ => false

/-- Read a float encoding (06 R134, R135). -/
def FloatFmt.dec (f : FloatFmt) (x : Nat) : Val :=
  let x := x % 2 ^ f.w
  let neg := bit x (f.w - 1) == 1
  let a := x % 2 ^ (f.w - 1)
  if f.inf = some a then .inf neg
  else if f.maxBits < a then .nan
  else
    let e := a / 2 ^ f.m
    if e = 0 then .fin neg (a % 2 ^ f.m) (1 - (f.bias : Int) - f.m)
    else .fin neg (2 ^ f.m + a % 2 ^ f.m) ((e : Int) - f.bias - f.m)

/-- A float encoding is subnormal (06 R134). -/
def FloatFmt.subnormal (f : FloatFmt) (x : Nat) : Bool :=
  let a := x % 2 ^ (f.w - 1)
  a != 0 && decide (a < 2 ^ f.m)

/-- Read a float operand after its input flush (06 R142). -/
def FloatFmt.decIn (f : FloatFmt) (env : FEnv) (x : Nat) : Val :=
  if env.fi f.cls && f.subnormal x then .fin (bit x (f.w - 1) == 1) 0 0 else f.dec x

/-- The sign bit of an encoding. -/
def FloatFmt.signed (f : FloatFmt) (neg : Bool) (a : Nat) : Nat := a + b2n neg * 2 ^ (f.w - 1)

/-- Round n / 2^d to an integer in a mode, for a value of sign neg. -/
def roundShift (rm : Nat) (neg : Bool) (n d : Nat) : Nat :=
  let q := n / 2 ^ d
  let r := n % 2 ^ d
  if r = 0 then q
  else
    let up : Bool := match rm with
      | 0 => decide (2 ^ d < 2 * r) || (2 * r == 2 ^ d && q % 2 == 1)
      | 1 => false
      | 2 => !neg
      | _ => neg
    if up then q + 1 else q

/-- The overflow result of a format (06 R140), with its flags. -/
def FloatFmt.overflow (f : FloatFmt) (env : FEnv) (neg : Bool) : FRes :=
  let toMax : Bool := env.satf || env.rm == 1 || (env.rm == 2 && neg) || (env.rm == 3 && !neg)
  if toMax then (f.signed neg f.maxBits, fOF)
  else match f.inf with
    | some i => (f.signed neg i, fOF)
    | none => (f.nan, fOF ||| fNV)

/-- Round a nonzero magnitude n * 2^e: the encoding of a magnitude with the exponent unbounded above. -/
def FloatFmt.roundMag (f : FloatFmt) (rm : Nat) (neg : Bool) (n : Nat) (e : Int) : Nat :=
  let emin : Int := 1 - (f.bias : Int)
  let p : Int := (Nat.log2 n : Int) + e
  let top : Int := if emin ≤ p then p else emin
  let q : Int := top - f.m
  let k := if q ≤ e then n * 2 ^ (e - q).toNat else roundShift rm neg n (q - e).toNat
  (top - emin).toNat * 2 ^ f.m + k

/-- Flush a subnormal result (06 R142). -/
def FloatFmt.flushOut (f : FloatFmt) (env : FEnv) (x : Nat) : Nat :=
  if env.fo f.cls && f.subnormal x then f.signed (bit x (f.w - 1) == 1) 0 else x

/-- Round an exact value once to a format (06 R138 to R140, R142). A NaN is the canonical one; an infinity stays, or counts as
an overflow where the format has none. -/
def FloatFmt.round (f : FloatFmt) (env : FEnv) (v : Val) : FRes :=
  match v with
  | .nan => (f.nan, 0)
  | .inf neg =>
    match f.inf with
    | some i => (f.signed neg i, 0)
    | none => f.overflow env neg
  | .fin neg n e =>
    if n = 0 then (f.signed neg 0, 0)
    else
      let a := f.roundMag env.rm neg n e
      if f.maxBits < a then f.overflow env neg else (f.flushOut env (f.signed neg a), 0)

/-- Flip the sign of a value. -/
def Val.neg : Val → Val
  | .nan => .nan
  | .inf s => .inf (!s)
  | .fin s n e => .fin (!s) n e

/-- The signed numerator of a finite value over 2^k, where k is at most its exponent. -/
def numAt (neg : Bool) (n : Nat) (e k : Int) : Int :=
  let m : Nat := n * 2 ^ (e - k).toNat
  if neg then -(m : Int) else m

/-- A finite value of a signed numerator; zero takes the sign given. -/
def Val.ofInt (x : Int) (e : Int) (zneg : Bool) : Val := if x = 0 then .fin zneg 0 0 else .fin (decide (x < 0)) x.natAbs e

/-- An exact sum (06 R138): a NaN from opposite infinities sets NV; an exact zero sum of unlike signs is -0 when rounding down. -/
def Val.add (rm : Nat) (a b : Val) : Val × Flags :=
  match a, b with
  | .nan, _ => (.nan, 0)
  | _, .nan => (.nan, 0)
  | .inf s, .inf t => if s = t then (.inf s, 0) else (.nan, fNV)
  | .inf s, .fin .. => (.inf s, 0)
  | .fin .., .inf t => (.inf t, 0)
  | .fin s n e, .fin t k f =>
    if n = 0 ∧ k = 0 then (.fin (if s = t then s else rm == 3) 0 0, 0)
    else
      let z : Int := if e ≤ f then e else f
      (Val.ofInt (numAt s n e z + numAt t k f z) z (rm == 3), 0)

/-- An exact product; infinity times zero sets NV. -/
def Val.mul (a b : Val) : Val × Flags :=
  match a, b with
  | .nan, _ => (.nan, 0)
  | _, .nan => (.nan, 0)
  | .inf s, .inf t => (.inf (s != t), 0)
  | .inf s, .fin t k _ => if k = 0 then (.nan, fNV) else (.inf (s != t), 0)
  | .fin s n _, .inf t => if n = 0 then (.nan, fNV) else (.inf (s != t), 0)
  | .fin s n e, .fin t k f => (.fin (s != t) (n * k) (e + f), 0)

/-- A quotient, exact or with a sticky bit far below any rounding position (11 R250). -/
def Val.div (a b : Val) : Val × Flags :=
  match a, b with
  | .nan, _ => (.nan, 0)
  | _, .nan => (.nan, 0)
  | .inf _, .inf _ => (.nan, fNV)
  | .inf s, .fin t _ _ => (.inf (s != t), 0)
  | .fin s _ _, .inf t => (.fin (s != t) 0 0, 0)
  | .fin s n e, .fin t k f =>
    if k = 0 then (if n = 0 then (.nan, fNV) else (.inf (s != t), 0))
    else if n = 0 then (.fin (s != t) 0 0, 0)
    else
      let sh := 64 + Nat.log2 k
      let q := n * 2 ^ sh / k
      let st := if n * 2 ^ sh % k = 0 then 0 else 1
      (.fin (s != t) (2 * q + st) (e - f - sh - 1), 0)

/-- The integer square root by bits from position b down. -/
def isqrtGo (n : Nat) : Nat → Nat → Nat
  | 0, r => r
  | b + 1, r =>
    let c := r + 2 ^ b
    isqrtGo n b (if c * c ≤ n then c else r)

/-- A square root (11 R250). -/
def Val.sqrt (a : Val) : Val × Flags :=
  match a with
  | .nan => (.nan, 0)
  | .inf s => if s then (.nan, fNV) else (.inf false, 0)
  | .fin s n e =>
    if n = 0 then (.fin s 0 0, 0)
    else if s then (.nan, fNV)
    else
      let odd := e % 2 != 0
      let n := (if odd then 2 * n else n) * 2 ^ 96
      let e := (if odd then e - 1 else e) - 96
      let r := isqrtGo n 64 0
      let st := if r * r = n then 0 else 1
      (.fin false (2 * r + st) (e / 2 - 1), 0)

/-- Order of two values: none when a NaN takes part (06 R137); -0 equals +0. -/
def Val.cmp (a b : Val) : Option Ordering :=
  match a, b with
  | .nan, _ => none
  | _, .nan => none
  | .inf s, .inf t => some (if s = t then .eq else if s then .lt else .gt)
  | .inf s, .fin .. => some (if s then .lt else .gt)
  | .fin .., .inf t => some (if t then .gt else .lt)
  | .fin s n e, .fin t k f =>
    let z : Int := if e ≤ f then e else f
    let x := numAt s n e z
    let y := numAt t k f z
    some (if x < y then .lt else if x = y then .eq else .gt)

/-- The sign of a value that is no NaN. -/
def Val.sign : Val → Bool
  | .nan => false
  | .inf s => s
  | .fin s _ _ => s

/-- The smaller, or larger, of two encodings (06 R137): -0 lies below +0; a NaN beside a number yields the number. -/
def FloatFmt.minmax (f : FloatFmt) (env : FEnv) (max : Bool) (x y : Nat) : Nat :=
  let a := f.decIn env x
  let b := f.decIn env y
  let keep (v : Val) (x : Nat) : Nat := f.flushOut env (match v with | .fin s 0 _ => f.signed s 0 | _ => x % 2 ^ f.w)
  match a.cmp b with
  | some .lt => if max then keep b y else keep a x
  | some .gt => if max then keep a x else keep b y
  | some .eq => if a.sign = max then keep b y else keep a x
  | none => if !a.isNan then keep a x else if !b.isNan then keep b y else f.nan

/-! ## Conversions (06 R145) -/

/-- Round a finite value to an integer in a mode. -/
def roundInt (rm : Nat) (neg : Bool) (n : Nat) (e : Int) : Int :=
  let k := if 0 ≤ e then n * 2 ^ e.toNat else roundShift rm neg n (-e).toNat
  if neg then -(k : Int) else k

/-- A value to an integer format. -/
def toIntFmt (env : FEnv) (f : IntFmt) (v : Val) : FRes :=
  match v with
  | .nan => (0, fNV ||| fCSAT)
  | .inf neg => (f.enc (if neg then f.lo else f.hi), fCSAT)
  | .fin neg n e =>
    let (x, c) := f.clip (roundInt env.rm neg n e)
    (f.enc x, flagIf c fCSAT)

/-- The exact value of an integer. -/
def Val.int (x : Int) : Val := Val.ofInt x 0 false

/-- The value of a component in a format of kind int or flt, after its input flush. -/
def kindVal (env : FEnv) (k : FmtKind) (x : Nat) : Val :=
  match k with
  | .int f => Val.int (f.val x)
  | .cint f => Val.int (f.val x)
  | .flt f => f.decIn env x
  | .cflt f => f.decIn env x
  | _ => .nan

/-- A value converted to a component format (06 R145). -/
def kindRound (env : FEnv) (k : FmtKind) (v : Val) : FRes :=
  match k with
  | .int f => toIntFmt env f v
  | .cint f => toIntFmt env f v
  | .flt f => f.round env v
  | .cflt f => f.round env v
  | _ => (0, 0)

/-- The component width of a format: half its width for a complex one. -/
def FmtKind.cw : FmtKind → Nat
  | .raw => 8
  | .int f => f.w
  | .flt f => f.w
  | .cint f => f.w
  | .cflt f => f.w
  | _ => 0

/-- A complex format. -/
def FmtKind.complex : FmtKind → Bool
  | .cint _ => true
  | .cflt _ => true
  | _ => false

/-- Apply an operation to a real element, or to both components of a complex one of component width w. -/
def perComp (complex : Bool) (w : Nat) (f : Nat → FRes) (x : Nat) : FRes :=
  if complex then
    let (re, fr) := f (x % 2 ^ w)
    let (im, fi) := f (x / 2 ^ w % 2 ^ w)
    (re + im * 2 ^ w, fr ||| fi)
  else f x

/-- The same with two operands. -/
def perComp2 (complex : Bool) (w : Nat) (f : Nat → Nat → FRes) (x y : Nat) : FRes :=
  if complex then
    let (re, fr) := f (x % 2 ^ w) (y % 2 ^ w)
    let (im, fi) := f (x / 2 ^ w % 2 ^ w) (y / 2 ^ w % 2 ^ w)
    (re + im * 2 ^ w, fr ||| fi)
  else f x y

/-- Convert one element from a format to another (11 R256). -/
def convert (env : FEnv) (src dst : FmtKind) (x : Nat) : FRes :=
  if src.complex then
    let (re, fr) := kindRound env dst (kindVal env src (x % 2 ^ src.cw))
    let (im, fi) := kindRound env dst (kindVal env src (x / 2 ^ src.cw % 2 ^ src.cw))
    (re + im * 2 ^ dst.cw, fr ||| fi)
  else kindRound env dst (kindVal env src x)

/-! ## Blocked formats (06 R146 to R148) -/

/-- A value times 2^k. -/
def Val.scale (v : Val) (k : Int) : Val :=
  match v with
  | .fin s n e => .fin s n (e + k)
  | v => v

/-- Elements in a block of a block-length log. -/
def blockLen (blog : Nat) : Nat := 2 ^ (blog + 3)

/-- Bytes a block's elements occupy (06 R147). -/
def blockBytes (e2 : Bool) (blog : Nat) : Nat := if e2 then 2 ^ (blog + 2) else 2 ^ (blog + 3)

/-- Bytes of a group of 32 blocks. -/
def groupBytes (e2 : Bool) (blog : Nat) : Nat := 64 + 32 * blockBytes e2 blog

/-- The offset of a block's header from the base (06 R147). -/
def headerOff (e2 : Bool) (blog blk : Nat) : Nat := blk / 32 * groupBytes e2 blog + 2 * (blk % 32)

/-- The offset of a block's elements. -/
def elemsOff (e2 : Bool) (blog blk : Nat) : Nat := blk / 32 * groupBytes e2 blog + 64 + blk % 32 * blockBytes e2 blog

/-- Decode an element code under its block header (06 R146), after the input flush of R142. -/
def decBlocked (env : FEnv) (e2 : Bool) (header code : Nat) : Val :=
  let x := header % 256
  let sp := header / 256 % 256
  if e2 then
    if code % 16 = 8 then e4m3.dec sp
    else if x = 255 then .nan
    else (e2m1.decIn env (code % 16)).scale ((x : Int) - 127)
  else if x = 255 then .nan
  else (e4m3.decIn env (code % 256)).scale ((x : Int) - 127)

/-- The magnitude of a finite value as numerator and exponent. -/
def Val.mag : Val → Nat × Int
  | .fin _ n e => (n, e)
  | _ => (0, 0)

/-- The larger of two magnitudes. -/
def maxMag (a b : Nat × Int) : Nat × Int :=
  match (Val.fin false a.1 a.2).cmp (Val.fin false b.1 b.2) with
  | some .lt => b
  | _ => a

/-- The largest finite magnitude. -/
def amax (l : List Val) : Nat × Int := l.foldl (fun a v => maxMag a v.mag) (0, 0)

/-- The scale code of a block: `top` is the largest exponent of the element format (06 R148). -/
def scaleCode (top : Int) (l : List Val) : Nat :=
  let (n, e) := amax l
  if n = 0 then 127
  else
    let x : Int := (Nat.log2 n : Int) + e - top + 127
    if x < 0 then 0 else if 254 < x then 254 else x.toNat

/-- The magnitude of a value reaches 2^k. -/
def Val.reaches (v : Val) (k : Int) : Bool :=
  match v with
  | .inf _ => true
  | .fin _ n e => n != 0 && decide (k ≤ (Nat.log2 n : Int) + e)
  | .nan => false

/-- Encode a block in E2M1B (06 R148): header, codes, flags. A value stands beside its source bits, by which R148 compares. -/
def encE2M1B (env : FEnv) (l : List (Nat × Val)) : Nat × List Nat × Flags :=
  let x := scaleCode 2 (l.map (·.2))
  let sc : Int := (x : Int) - 127
  let sat : FEnv := { env with satf := true, flush := 0 }
  let one (v : Val) : Nat × Val × Flags :=
    match v with
    | .nan => (0, .inf false, 0)
    | .inf neg => (e2m1.signed neg 7, .fin false 0 0, fCSAT)
    | .fin neg n e =>
      let y := Val.fin neg n (e - sc)
      let c := (e2m1.round sat y).1
      let c := if c = 8 ∨ (env.fo 3 ∧ (c = 1 ∨ c = 9)) then 0 else c
      let q := (e2m1.dec c).scale sc
      let err := (Val.add 0 v q.neg).1
      (c, (match err with | .fin _ n e => .fin false n e | w => w), flagIf (y.reaches 3) fCSAT)
  let r := l.map fun e => one e.2
  let worst := r.foldl (fun (a : Val) e => if a.cmp e.2.1 = some .lt then e.2.1 else a) (.fin false 0 0)
  let flags := orFlags (r.map (·.2.2))
  let codes := r.map (·.1)
  let zero : Bool := match worst with | .fin _ 0 _ => true | _ => false
  if zero then (x, codes, flags)
  else
    match (l.zip r).find? fun e => e.2.2.1.cmp worst == some .eq with
    | none => (x, codes, flags)
    | some ((kb, kv), (_, ke, _)) =>
      if kv.isNan then (0x7F00 + x, (l.zip codes).map fun e => if e.1.2.isNan then 8 else e.2, flags)
      else
        let sp := (e4m3.round { sat with rm := env.rm } kv).1
        let d := (Val.add 0 kv (e4m3.dec sp).neg).1
        let d : Val := match d with | .fin _ n e => .fin false n e | w => w
        if d.cmp ke = some .lt then
          (sp * 256 + x, (l.zip codes).map fun e => if e.1.1 = kb then 8 else e.2, flags)
        else (x, codes, flags)

/-- Encode a block in E4M3B (06 R148). -/
def encE4M3B (env : FEnv) (l : List (Nat × Val)) : Nat × List Nat × Flags :=
  let x := scaleCode 8 (l.map (·.2))
  let sc : Int := (x : Int) - 127
  let sat : FEnv := { env with satf := true }
  let one (v : Val) : Nat × Flags :=
    match v with
    | .nan => (0x7F, 0)
    | .inf neg => (e4m3.signed neg 0x7E, fCSAT)
    | .fin neg n e =>
      let y := Val.fin neg n (e - sc)
      ((e4m3.round sat y).1, flagIf (y.reaches 9) fCSAT)
  let r := l.map fun e => one e.2
  (x, r.map (·.1), orFlags (r.map (·.2)))

/-- Encode a block in either form. -/
def encBlock (env : FEnv) (e2 : Bool) (l : List (Nat × Val)) : Nat × List Nat × Flags :=
  if e2 then encE2M1B env l else encE4M3B env l

/-- Element codes packed little-endian (06 R132). -/
def packCodes (w : Nat) (l : List Nat) : Nat := l.foldr (fun c r => c % 2 ^ w + r * 2 ^ w) 0

/-! ## BF16 and CI16 at the atomic units (02 R54) -/

/-- BADD of one lane: nearest-even, never flushed, no flag. -/
def baddLane (x y : Nat) : Nat := (bf16.round {} ((bf16.dec x).add 0 (bf16.dec y)).1).1

/-- Apply a lane operation to n lanes of 16 bits. -/
def lanes16 (n : Nat) (f : Nat → Nat → Nat) (x y : Nat) : Nat :=
  ((List.range n).map fun i => f (bits x (16 * i + 15) (16 * i)) (bits y (16 * i + 15) (16 * i)) * 2 ^ (16 * i)).foldl (· + ·) 0

/-- The new value of an AMO (02 R53) on n bytes. -/
def amoNew (code n old v : Nat) : Nat :=
  let w := 8 * n
  let o := old % 2 ^ w
  let v := v % 2 ^ w
  match code with
  | 0 => (o + v) % 2 ^ w
  | 1 => o &&& v
  | 2 => o ||| v
  | 3 => o ^^^ v
  | 4 => if toSigned w o ≤ toSigned w v then o else v
  | 5 => if toSigned w v ≤ toSigned w o then o else v
  | 6 => min o v
  | 7 => max o v
  | 8 => v
  | 9 => lanes16 (n / 2) (fun x y => (x + y) % 2 ^ 16) o v
  | _ => lanes16 (n / 2) baddLane o v

end Sys2Proof.Machine
end

