-- ==== Sys2Proof/Machine/Dev.lean ====
section
/-! DEFINITION. The device registers of physical quarter 11 (18 R409): error banks (16 R383), the power register block (17 R398 to
R406) and the Distributor block (16 R387, R388, R392). -/

namespace Sys2Proof.Machine

/-- The power block begins here in quarter 11. -/
def powerBase : Nat := 0x100000
/-- The Distributor block begins here. -/
def distBase : Nat := 0x110000

/-- STAT of an error bank (16 R383). -/
def ErrBank.stat (b : ErrBank) : Nat := b.count + 0x100 * b2n b.overflow + 0x200 * b2n b.nack + 0x10000 * b.seq

/-- A site-table entry (16 R385). -/
def Site.word (e : Site) : Nat :=
  e.sub % 65536 + 0x10000 * (e.site % 16) + 0x100000 * (e.cnt % 16) + 0x1000000 + e.start % 2 ^ 64 / 2 ^ 25 * 2 ^ 25

/-- The aligned doubleword at byte o of an error bank. -/
def ErrBank.reg (b : ErrBank) (o : Nat) : Nat :=
  let part (r : Option ErrRec) (o : Nat) : Nat := match r with
    | some r => r.word / 2 ^ (8 * o) % 2 ^ 64
    | none => 0
  if o < 0x20 then part b.first o
  else if o < 0x40 then part b.latest (o - 0x20)
  else if o = 0x40 then b.stat
  else if 0x80 ≤ o then (match tget? b.sites ((o - 0x80) / 8) with
    | some e => e.word
    | none => 0)
  else 0

/-- PWRSTAT (17 R406). -/
def Power.stat (p : Power) : Nat :=
  p.ovsh % 65536 + 0x10000 * (p.capstep % 16) + 0x100000 * (p.slkstep % 16) + 0x1000000 * b2n p.throttled
    + 0x100000000 * min p.droops 65535 + 0x1000000000000 * min p.wover 65535

/-- The withdrawal bits of Trays 64 i to 64 i + 63. -/
def Mod.wdWord (m : Mod) (i : Nat) : Nat :=
  ((List.range 64).map fun j => b2n (tget {} m.trays (64 * i + j)).wd * 2 ^ j).foldl (· + ·) 0

/-- Four 16-bit values as a doubleword. -/
def four16 (f : Nat → Nat) : Nat := f 0 % 65536 + 0x10000 * (f 1 % 65536) + 0x100000000 * (f 2 % 65536) + 0x1000000000000 * (f 3 % 65536)

/-- The aligned doubleword at offset x of quarter 11; bytes that no block defines are zero. -/
def devReg (m : Mod) (x : Nat) : Nat :=
  if x < 0x51C00 then (tget {} m.banks (x / 256)).reg (x % 256)
  else if x < powerBase then 0
  else if x < distBase then
    let y := x - powerBase
    if y < 0x2000 then four16 fun i => tget 0 m.power.table (y / 2 + i)
    else if y < 0x3000 then (tget {} m.trays ((y - 0x2000) / 8)).enacc % 2 ^ 64
    else if y < 0x3400 then four16 fun i => (tget {} m.trays ((y - 0x3000) / 2 + i)).bud
    else if y = 0x3400 then m.power.pcap % 65536 + 0x10000 * (m.power.droophold % 256)
    else if y = 0x3408 then m.power.stat
    else if y < 0x3610 then
      ((List.range 8).map fun j => (tget {} m.trays (y - 0x3410 + j)).temp % 256 * 256 ^ j).foldl (· + ·) 0
    else 0
  else
    let z := x - distBase
    if z < 0x40 then m.wdWord (z / 8)
    else if z < 0xC0 then (tget {} m.ctxs ((z - 0x40) / 8)).rollcfg.toNat
    else 0

/-- A byte of quarter 11. -/
def devByte (m : Mod) (x : Nat) : Nat := devReg m (roundDown x 8) / 256 ^ (x % 8) % 256

/-- The byte any observer reads at a location. -/
def State.byteAt (s : State) (k : Nat) : Byte := if isDev k then BitVec.ofNat 8 (devByte s.m (k - devBase)) else s.peek k

/-- The number at a list of locations. -/
def State.numAt (s : State) (keys : List Nat) : Nat := joinBytes (keys.map s.byteAt)

/-- The bytes of v selected by a byte mask over those of old. -/
def mergeBytes (old v mask : Nat) : Nat :=
  joinBytes ((List.range 8).map fun i => BitVec.ofNat 8 (if bit mask i = 1 then v / 256 ^ i else old / 256 ^ i))

/-! ## Undo (16 R389 to R392) -/

/-- Write one undo entry back: a restore of R23, with tags, without deltas or stale marks (07 R164). -/
def Mod.undo (m : Mod) (u : Undo) : Mod :=
  let h := tget {} m.hearths u.hearth
  if u.kind = 0 then
    let k := l1Key u.hearth (u.index * 256)
    { m with
      mem := msets m.mem ((keysFrom k 256).zip (u.bytes.map (BitVec.ofNat 8)))
      tags := u.tags.foldl sadd (m.tags.filter fun g => !(decide (k / 16 ≤ g) && decide (g < k / 16 + 16))) }.unpoison (keysFrom k 256)
  else if u.kind = 1 then
    let f := (u.bytes.zip (List.range 16)).foldl (fun f e => tset f (u.index * 16 + e.2) (BitVec.ofNat 128 e.1)) h.facets
    { m with
      hearths := tset m.hearths u.hearth { h with facets := f }
      flipF := (List.range 16).foldl (fun t i => tdel t (flipKey u.hearth (u.index * 16 + i))) m.flipF }
  else if u.kind = 3 then m
  else
    let t := match u.tile with
      | some t => tset h.tiles u.index t
      | none => tdel h.tiles u.index
    { m with hearths := tset m.hearths u.hearth { h with tiles := t } }

/-- Write every entry back, the newest first. -/
def Mod.undoAll (m : Mod) (l : List Undo) : Mod := l.reverse.foldl Mod.undo m

/-- A rollback: every entry goes back, the newest first. A task queue that owns one of the bytes is undefined (08 R184). -/
def State.undoAll (s : State) (l : List Undo) : State :=
  (l.foldl (fun s u => if u.kind = 0 then s.disturb (keysFrom (l1Key u.hearth (u.index * 256)) 256) else s) s).onMod (·.undoAll l)

/-- Clear the logged bits set for a gang. -/
def State.unmark (s : State) (gang : Nat) : State :=
  match (s.gang? gang).bind (·.roll) with
  | none => s
  | some r =>
    let s := r.marks.foldl (fun s e => s.modHearth e.1 fun h => { h with logged := sdel h.logged e.2 }) s
    s.modGang gang fun g => { g with roll := some { r with marks := [] } }

/-- Empty the log of a gang and clear the logged bits set for it (16 R389): a boundary. -/
def State.newSuperstep (s : State) (gang : Nat) : State :=
  (s.unmark gang).modGang gang fun g => { g with roll := g.roll.map fun r => { r with log := [], noundo := false } }

/-- A saved image of a context references a code object (18 R423). -/
def State.imaged (s : State) (ctx handle : Nat) : Bool :=
  s.m.gangs.any fun g => g.2.ctx == ctx && g.2.handle == handle && (g.2.st == .saved || g.2.st == .poisoned || g.2.st == .rollRestoring)

/-- Deferred unloads of a context that no saved image holds up any more are done (18 R423). -/
def State.unloadDue (s : State) (ctx : Nat) : State :=
  let due := (s.ctx ctx).unloads.filter fun h => !s.imaged ctx h
  if due.isEmpty then s
  else s.modCtx ctx fun c => { c with objs := c.objs.filter fun o => !due.contains o.handle, unloads := c.unloads.filter fun h => !due.contains h }

/-- A gang enters a restore list (15 R356); an arrival during RESERVE is noted (15 R359). -/
def State.restoreArrives (s : State) (key prio gang : Nat) : State :=
  s.onMod fun m => { m with dist := { m.dist with
    restores := tmod [] m.dist.restores key (· ++ [gang])
    txn := { m.dist.txn with arrive := if m.dist.txn.st = .reserve then max m.dist.txn.arrive (prio + 1) else m.dist.txn.arrive } } }

/-- The operations that a saved image owns, and their entries, are dropped; the rows that these held become stale (02 R63). -/
def Mod.dropOwned (m : Mod) (keys : List Nat) : Mod :=
  let hearth (e : Nat × Hearth) : Nat × Hearth :=
    let h := e.2
    let rows := ((h.locks.filter fun x => keys.contains x.2.owner).map (·.2.range.rows)).flatten
      ++ ((h.lands.filter fun x => keys.contains x.2.owner).map (·.2.range.rows)).flatten
    (e.1, Hearth.restale { h with locks := h.locks.filter fun x => !keys.contains x.2.owner, lands := h.lands.filter fun x => !keys.contains x.2.owner } rows)
  { m with ops := m.ops.filter fun o => !keys.contains o.1, hearths := m.hearths.map hearth }

/-- An error in the undo area met by a relaunch (16 R392): RESTORE_POISONED with EINFO[11:8] = 1, and the gang is discarded. -/
def State.relaunchFails (s : State) (gang : Nat) (g : Gang) (pa : Nat) : State :=
  let s := (s.unmark gang).modCtx g.ctx fun c => { c with images := c.images.filter (·.gang != gang) }
  ((s.onMod fun m => { m with gangs := tdel m.gangs gang }).unloadDue g.ctx).report g.ctx gang 4352 { cause := 0x43, val := w64 pa, info := 0x100 }

/-- Relaunch a poisoned rollback gang from its last snapshot (16 R392): the log goes back into L1, and the gang waits to be placed
as a restored gang. An error met meanwhile discards the gang. Another gang number has no effect. -/
def State.rollRelaunch (s : State) (gang : Nat) : State :=
  match s.gang? gang with
  | some g =>
    match g.roll with
    | some r =>
      if g.st = .poisoned then
        let free (s : State) : State := s.modCtx g.ctx fun c => { c with images := c.images.filter (·.gang != gang) }
        let s := s.onMod (·.dropOwned (g.savedOps.map (·.1)))
        match s.undoBad g r with
        | some pa => s.relaunchFails gang g pa
        | none =>
          let s := (s.undoAll (s.undoLog g r)).newSuperstep gang
          let s := s.modGang gang fun g => { g with
            st := .rollRestoring, saved := r.cur, savedBars := r.curBars, savedTrays := r.curTrays, trayBars := r.curTrayBars
            savedOps := [], image := none }
          (free s).restoreArrives (8 * g.ctx + g.prio) g.prio gang
      else s
    | none => s
  | none => s

/-! ## Writes -/

/-- Withdraw Trays, or store the map (16 R387): `mask` selects the bits written. A placement that has
reserved a Tray withdrawn goes back to SELECT, unless an arrival of higher PRIO has ended it already (15 R359). -/
def State.wdWrite (s : State) (full : Bool) (mask v : Nat) : State :=
  let s := (List.range 512).foldl (fun s t =>
    if bit mask t = 0 then s
    else if bit v t = 1 then (if (s.tray t).wd then s else s.modTray t fun x => { x with wd := true })
    else if full && (s.tray t).wd then s.modTray t fun x => { x with wd := false }
    else s) s
  let hit := s.m.dist.txn.st == .reserve && !s.m.dist.txn.superseded && s.m.dist.txn.reserved.any fun t => bit mask t == 1 && bit v t == 1
  if hit then s.onMod fun m => { m with dist := { m.dist with txn := { m.dist.txn with
      st := .select, plan := [], reserved := m.dist.txn.reserved.filter fun t => bit mask t == 0 || bit v t == 0 } } } else s

/-- Write bytes of the aligned doubleword at offset x of quarter 11: `mask` names the bytes, `full` that the writer is level F or
the host. -/
def State.devWrite (s : State) (full : Bool) (x v mask : Nat) : State :=
  let new := mergeBytes (devReg s.m x) v mask
  let low := mergeBytes 0 v mask
  if x < 0x51C00 then
    let o := x % 256
    let upd (f : ErrBank → ErrBank) : State := s.onMod fun m => { m with banks := tmod {} m.banks (x / 256) f }
    if o = 0x40 then (if bit low 9 = 1 then upd fun b => { b with nack := false } else s)
    else if o = 0x48 then upd (·.ack low)
    else s
  else if x < powerBase then s
  else if x < distBase then
    let y := x - powerBase
    let pw (f : Power → Power) : State := s.onMod fun m => { m with power := f m.power }
    if y < 0x2000 then
      if full then pw fun p => { p with table := (List.range 4).foldl (fun t i => tset t (y / 2 + i) (bits new (16 * i + 15) (16 * i))) p.table }
      else s
    else if y < 0x3000 then s.modTray ((y - 0x2000) / 8) fun t => { t with enacc := new }
    else if y < 0x3400 then
      (List.range 4).foldl (fun s i => s.modTray ((y - 0x3000) / 2 + i) fun t => { t with bud := bits new (16 * i + 15) (16 * i) }) s
    else if y = 0x3400 then pw fun p => { p with pcap := max 100 (min 950 (bits new 15 0)), droophold := bits new 23 16 }
    else if y = 0x3408 then (if bits low 15 0 ≠ 0 then pw fun p => { p with ovsh := 0 } else s)
    else s
  else
    let z := x - distBase
    if z < 0x40 then
      let sh := 64 * (z / 8)
      let bm := mergeBytes 0 (2 ^ 64 - 1) mask
      s.wdWrite full (bm * 2 ^ sh) (v % 2 ^ 64 * 2 ^ sh)
    else if z < 0xC0 then s.modCtx ((z - 0x40) / 8) fun c => { c with rollcfg := w64 (bit new 0 + bits new 11 8 * 0x100 + bits new 47 16 * 0x10000) }
    else if z = 0xC0 then s.rollRelaunch (bits low 11 0)
    else s

/-- Write bytes of quarter 11, one register at a time in ascending order (04 R86). -/
def State.devWrites (s : State) (full : Bool) (cells : List Host.Cell) : State :=
  let regs := cells.foldl (fun l c => sadd l ((c.1 - devBase) / 8)) []
  regs.foldl (fun s r =>
    let mine := cells.filter fun c => (c.1 - devBase) / 8 == r
    s.devWrite full (8 * r) (mine.foldl (fun a c => a + c.2.toNat * 256 ^ (c.1 % 8)) 0) (mine.foldl (fun a c => a ||| 2 ^ (c.1 % 8)) 0)) s

end Sys2Proof.Machine
end

