-- ==== Sys2Proof/Machine/Facet.lean ====
section
/-! DEFINITION. Declared tiles and their facets (07), the undo log of rollback (16 R390) and every effect of a write at its home
(01 R23, 03 R75 and R76, 07 R158, 16 R379). -/

namespace Sys2Proof.Machine

/-! ## The undo log (16 R390) -/

/-- An entry goes into a gang's undo log and into its undo area; with a full log the superstep is marked NOUNDO. The logged bit is the
gang's until its next boundary. -/
def State.appendUndo (s : State) (gang : Nat) (g : Gang) (r : Roll) (e : Undo) (code : Nat) : State :=
  let r := { r with marks := (e.hearth, code) :: r.marks }
  let put (s : State) (r : Roll) : State := s.modGang gang fun g => { g with roll := some r }
  if g.undoCap r ≤ r.log.length then put s { r with noundo := true }
  else
    let bytes := e.entry (Config.freeImageByte s.tick)
    { (put s { r with log := r.log ++ [e] }) with tick := s.tick + 1 }.putUndo (g.undoPa r r.log.length) bytes

/-- Log the old contents of a unit before its first write after a boundary: for every gang with rollback that `mine` accepts. The unit's
logged bit counts for the gangs whose boundary has not cleared it. -/
def State.logUndo (s : State) (mine : Gang → Bool) (hearth kind index : Nat) (u : State → Undo) : State :=
  let code := index * 4 + kind
  let done (r : Roll) : Bool := (s.hearth hearth).logged.contains code && r.marks.contains (hearth, code)
  let gs := s.m.gangs.filter fun g => g.2.roll.any (!done ·) && g.2.st != .saved && g.2.st != .poisoned && mine g.2
  if gs.isEmpty then s
  else
    let s := if kind = 0 then s.scrub (keysFrom (l1Key hearth (index * 256)) 256) else s
    let e := u s
    let s := s.modHearth e.hearth fun h => { h with logged := sadd h.logged code }
    gs.foldl (fun s g => match g.2.roll with
      | some r => s.appendUndo g.1 g.2 r e code
      | none => s) s

/-- The 256-byte block of an L1 offset, as an undo entry. -/
def undoBlock (hearth off : Nat) (s : State) : Undo :=
  let k := l1Key hearth (off / 256 * 256)
  { kind := 0, hearth := hearth, index := off / 256, bytes := (keysFrom k 256).map (fun i => (mget s.m.mem i).toNat)
    tags := (List.range 16).filterMap (fun i => if s.m.tags.contains (k / 16 + i) then some (k / 16 + i) else none), tile := none }

/-- A block of 16 facet records as an undo entry. -/
def undoFacets (hearth rec0 : Nat) (s : State) : Undo :=
  { kind := 1, hearth := hearth, index := rec0 / 16
    bytes := (List.range 16).map (fun i => (tget 0 (s.hearth hearth).facets (rec0 / 16 * 16 + i)).toNat), tags := [], tile := none }

/-- A tile-table entry as an undo entry. -/
def undoTile (hearth idx : Nat) (s : State) : Undo :=
  { kind := 2, hearth := hearth, index := idx, bytes := [], tags := [], tile := tget? (s.hearth hearth).tiles idx }

/-- Log the L1 block of a location before it is written (16 R390). -/
def State.logL1 (s : State) (k : Nat) : State :=
  s.logUndo (fun g => (s.ctx g.ctx).regions.any fun r => regionMatch r.2 (keyHearth k) (keyOff k / 0x10000)) (keyHearth k) 0 (keyOff k / 256)
    (undoBlock (keyHearth k) (keyOff k))

/-! ## Tiles and facet records (07 R152 to R155) -/

/-- The element width of a tile in bits. -/
def Tile.w (t : Tile) : Nat := let k := fmtKind t.fmt; if k.complex then 2 * k.cw else k.cw
/-- Bytes of a row's elements. -/
def Tile.rowBytes (t : Tile) : Nat := t.cols * t.w / 8
/-- Bytes from the base to the end of the last row. -/
def Tile.span (t : Tile) : Nat := (t.rows - 1) * t.pitch + t.rowBytes
/-- Records of a tile's run, in units of 16. -/
def Tile.runLen (t : Tile) : Nat := roundUp (t.rows + t.cols) 16
/-- The location of the byte where element (i, j) begins. -/
def Tile.elemKey (t : Tile) (hearth i j : Nat) : Nat := l1Key hearth (t.base + i * t.pitch + j * t.w / 8)

/-- The bits of element (i, j). -/
def Tile.elem (t : Tile) (m : Mod) (hearth i j : Nat) : Nat :=
  let k := t.elemKey hearth i j
  if t.w = 4 then (mget m.mem k).toNat / (if j % 2 = 0 then 1 else 16) % 16
  else joinBytes ((keysFrom k (t.w / 8)).map (mget m.mem))

/-- The float components' sums: a NaN or infinity anywhere gives none; else the exact sum and the exact sum of magnitudes. -/
def floatSums (f : FloatFmt) (l : List Nat) : Option (Val × Val) :=
  l.foldl (fun a x =>
    match a, f.dec x with
    | some (s, t), .fin neg n e => some ((s.add 0 (.fin neg n e)).1, (t.add 0 (.fin false n e)).1)
    | _, _ => none) (some (.fin false 0 0, .fin false 0 0))

/-- The integer sum of a list modulo 2^32. -/
def intSum (f : IntFmt) (l : List Nat) : Nat := wrap 32 ((l.map f.val).foldl (· + ·) 0)

/-- A facet record of four words (07 R154). -/
def mkFacet (f0 f1 f2 f3 : Nat) : BitVec 128 := BitVec.ofNat 128 (f0 % 2 ^ 32 + (f1 % 2 ^ 32) * 2 ^ 32 + (f2 % 2 ^ 32) * 2 ^ 64 + f3 * 2 ^ 96)

/-- Word i of a record. -/
def facetW (r : BitVec 128) (i : Nat) : Nat := r.toNat / 2 ^ (32 * i) % 2 ^ 32
/-- STALE -/
def facetStale (r : BitVec 128) : Bool := r.getLsbD 96
/-- NONFIN -/
def facetNonfin (r : BitVec 128) : Bool := r.getLsbD 97

/-- A float facet of a signed sum, or two for a complex format, and an absolute sum, or NONFIN. -/
def floatFacet (sums : Option (Val × Val)) (im : Option (Option (Val × Val))) : BitVec 128 :=
  let r (v : Val) : Nat := (fp32.round {} v).1
  match sums, im with
  | some (s, a), none =>
    if r a = 0x7F800000 then mkFacet 0 0 0 2 else mkFacet (r s) (r a) 0 0
  | some (s, a), some (some (si, ai)) =>
    let t := (a.add 0 ai).1
    if r t = 0x7F800000 then mkFacet 0 0 0 2 else mkFacet (r s) (r si) (r t) 0
  | _, _ => mkFacet 0 0 0 2

/-- The facets of a line from its elements (07 R155). -/
def lineFacet (fmt : Nat) (l : List Nat) : BitVec 128 :=
  match fmtKind fmt with
  | .int f => mkFacet (intSum f l) 0 0 0
  | .cint f => mkFacet (intSum f l) (intSum f (l.map (· / 2 ^ f.w))) 0 0
  | .flt f => floatFacet (floatSums f l) none
  | .cflt f => floatFacet (floatSums f l) (some (floatSums f (l.map (· / 2 ^ f.w))))
  | _ => 0

/-- Elements of row i. -/
def Tile.row (t : Tile) (m : Mod) (hearth i : Nat) : List Nat := (List.range t.cols).map fun j => t.elem m hearth i j
/-- Elements of column j. -/
def Tile.col (t : Tile) (m : Mod) (hearth j : Nat) : List Nat := (List.range t.rows).map fun i => t.elem m hearth i j
/-- Line n of a tile: row n, or column n - rows. -/
def Tile.line (t : Tile) (m : Mod) (hearth n : Nat) : List Nat := if n < t.rows then t.row m hearth n else t.col m hearth (n - t.rows)
/-- The facets of line n as it stands now. -/
def Tile.fresh (t : Tile) (m : Mod) (hearth n : Nat) : BitVec 128 := lineFacet t.fmt (t.line m hearth n)

/-- Write a facet record, logging its block first (16 R390). -/
def State.setFacet (s : State) (ctx hearth r : Nat) (x : BitVec 128) : State :=
  (s.logUndo (fun g => g.ctx == ctx) hearth 1 (r / 16) (undoFacets hearth r)).modHearth hearth fun h => { h with facets := tset h.facets r x }

/-- The stored record of line n. -/
def State.facet (s : State) (hearth : Nat) (t : Tile) (n : Nat) : BitVec 128 := tget 0 (s.hearth hearth).facets (t.run + n)

/-- A facet record that ERRINJ has flipped is read: one flipped bit is corrected, with a record of SEV 0; more are uncorrectable, and the
record is made again from the present data with STALE = 1, with a record of SEV 1 (16 R379, 14 R355; log 30). -/
def State.scrubRecord (s : State) (hearth : Nat) (t : Tile) (n : Nat) : State :=
  let key := flipKey hearth (t.run + n)
  match tget? s.m.flipF key with
  | none => s
  | some x =>
    let s := s.onMod fun m => { m with flipF := tdel m.flipF key }
    let place := if n < t.rows then n else 0x8000 + (n - t.rows)
    let addr := l1Key hearth t.base
    match flipCount (x.setWidth 64) with
    | 0 => s
    | 1 => s.logErr (0x500 + hearth) 0 5 place addr 0 0xFF true
    | _ => (s.setFacet t.ctx hearth (t.run + n) (t.fresh s.m hearth n ||| mkFacet 0 0 0 1)).logErr (0x500 + hearth) 1 5 place addr 0 0xFF true

/-- The flipped records of a tile are read. -/
def State.scrubTile (s : State) (hearth : Nat) (t : Tile) : State :=
  if s.m.flipF.isEmpty then s else (List.range (t.rows + t.cols)).foldl (fun s n => s.scrubRecord hearth t n) s

/-- Generate every record of a tile from the present data with STALE = 0 (07 R155, 12 R278). -/
def State.regenTile (s : State) (hearth : Nat) (t : Tile) : State :=
  (List.range (t.rows + t.cols)).foldl (fun s n => s.setFacet t.ctx hearth (t.run + n) (t.fresh s.m hearth n)) s

/-- The elements of a tile that a list of L1 offsets touches: (row, column). -/
def Tile.touched (t : Tile) (offs : List Nat) : List (Nat × Nat) :=
  (offs.foldl (fun l o =>
    if o < t.base ∨ t.base + t.span ≤ o then l
    else
      let i := (o - t.base) / t.pitch
      let b := (o - t.base) % t.pitch
      if t.rowBytes ≤ b then l
      else if t.w = 4 then sadd (sadd l (i * t.cols + 2 * b)) (i * t.cols + 2 * b + 1)
      else sadd l (i * t.cols + b * 8 / t.w)) []).map fun e => (e / t.cols, e % t.cols)

/-- The change of a record when an element of an integer tile goes from x to y (07 R158). -/
def facetDelta (fmt x y : Nat) (r : BitVec 128) : BitVec 128 :=
  let d (f : IntFmt) (x y w : Nat) : Nat := wrap 32 ((w : Int) + f.val y - f.val x)
  match fmtKind fmt with
  | .int f => mkFacet (d f x y (facetW r 0)) (facetW r 1) (facetW r 2) (facetW r 3)
  | .cint f => mkFacet (d f x y (facetW r 0)) (d f (x / 2 ^ f.w) (y / 2 ^ f.w) (facetW r 1)) (facetW r 2) (facetW r 3)
  | _ => r ||| mkFacet 0 0 0 1

/-- The facet effect of a write: `old` is the module before it (07 R158). -/
def State.facetWrites (s : State) (old : Mod) (hearth : Nat) (offs : List Nat) : State :=
  (s.hearth hearth).tiles.foldl (fun s e =>
    let t := e.2
    let s := if (t.touched offs).isEmpty then s else s.scrubTile hearth t
    (t.touched offs).foldl (fun s ij =>
      let x := t.elem old hearth ij.1 ij.2
      let y := t.elem s.m hearth ij.1 ij.2
      let s := s.setFacet t.ctx hearth (t.run + ij.1) (facetDelta t.fmt x y (s.facet hearth t ij.1))
      s.setFacet t.ctx hearth (t.run + t.rows + ij.2) (facetDelta t.fmt x y (s.facet hearth t (t.rows + ij.2)))) s) s

/-! ## A write at its home -/

/-- Write bytes of memory at their homes in order, with every effect a write has: the undo log, the bytes, the tags of the granules
touched, poison, facets. Cells are L1, HBM, host or peer bytes; an address that answers nothing discards them. -/
def State.writeCells (s : State) (cells : List Host.Cell) : State :=
  let cells := cells.filter fun c => c.1 != noKey
  let keys := cells.map (·.1)
  let s := s.disturb keys
  let s := if s.m.flips.isEmpty then s else s.scrub (keys.filter fun k => !((keysFrom (k / 8 * 8) 8).all keys.contains))
  let blocks := keys.foldl (fun l k => if isL1 k then sadd l (k / 256) else l) []
  let s := blocks.foldl (fun s b => s.logL1 (256 * b)) s
  let old := s.m
  let gran := keys.foldl (fun l k => sadd l (k / 16)) []
  let s := s.onMod fun m =>
    ({ m with mem := msets m.mem cells, tags := if m.tags.isEmpty then [] else m.tags.filter fun g => !(gran.contains g) }).unpoison keys
  if old.hearths.all (·.2.tiles.isEmpty) then s
  else
    (List.range 4).foldl (fun s h =>
      let offs := keys.filterMap fun k => if isL1 k && keyHearth k == h then some (keyOff k) else none
      if offs.isEmpty then s else s.facetWrites old h offs) s

/-- Write cells anywhere, device registers included. `full` is level F or the host. -/
def State.writeAny (s : State) (full : Bool) (cells : List Host.Cell) : State :=
  let dev := cells.filter fun c => isDev c.1
  let s := s.writeCells (cells.filter fun c => !isDev c.1)
  if dev.isEmpty then s else s.devWrites full dev

/-- Write a tag at the granule of a location, after its bytes (01 R23); host and peer memory hold none (01 R22). -/
def State.writeTag (s : State) (k : Nat) (t : Bool) : State :=
  if isL1 k || isHbm k then s.onMod fun m => { m with tags := if t then sadd m.tags (k / 16) else sdel m.tags (k / 16) } else s

/-! ## The check (07 R156) -/

/-- The value of an FP32 word. -/
def fp32Val (x : Nat) : Val := fp32.dec x
/-- |a - b| for values. -/
def Val.dist (a b : Val) : Val :=
  match (a.add 0 b.neg).1 with
  | .fin _ n e => .fin false n e
  | v => v
/-- a exceeds b. -/
def Val.gt (a b : Val) : Bool := a.cmp b == some .gt

/-- Differs (07 R156) for float words: the stored signed words and the absolute word against the actual sums, with tau over n. -/
def floatDiffers (n : Nat) (ss : List Nat) (rs : List Val) (sa : Nat) (ra : Val) : Bool :=
  let bad (x : Nat) : Bool := match fp32Val x with | .fin .. => false | _ => true
  if ss.any bad || bad sa then true
  else
    let m := if (fp32Val sa).gt ra then fp32Val sa else ra
    let tau := ((Val.fin false n (-23)).mul m).1
    (ss.zip rs).any (fun p => ((fp32Val p.1).dist p.2).gt tau) || ((fp32Val sa).dist ra).gt tau

/-- Differs (07 R156): stored record s and recomputed record r of a line of n elements. -/
def facetDiffers (fmt n : Nat) (s r : BitVec 128) : Bool :=
  match fmtKind fmt with
  | .int _ => facetW s 0 != facetW r 0 || facetW s 1 != facetW r 1 || facetW s 2 != facetW r 2
  | .cint _ => facetW s 0 != facetW r 0 || facetW s 1 != facetW r 1 || facetW s 2 != facetW r 2
  | .flt _ =>
    if facetNonfin s || facetNonfin r then facetNonfin s != facetNonfin r
    else floatDiffers n [facetW s 0] [fp32Val (facetW r 0)] (facetW s 1) (fp32Val (facetW r 1))
  | .cflt _ =>
    if facetNonfin s || facetNonfin r then facetNonfin s != facetNonfin r
    else floatDiffers n [facetW s 0, facetW s 1] [fp32Val (facetW r 0), fp32Val (facetW r 1)] (facetW s 2) (fp32Val (facetW r 2))
  | _ => false

/-- The integer that makes a component's sum right, if it lies in the element range. -/
def intCandidate (f : IntFmt) (sum : Nat) (others : List Nat) : Option Nat :=
  let x := wrap 32 ((sum : Int) - (others.map f.val).foldl (· + ·) 0)
  let v : Int := if f.signed then toSigned 32 x else x
  if f.lo ≤ v ∧ v ≤ f.hi then some (f.enc v) else none

/-- The float that makes a component's sum right, if finite. -/
def floatCandidate (f : FloatFmt) (sum : Nat) (others : List Nat) : Option Nat :=
  match floatSums f others with
  | none => none
  | some (s, _) =>
    let (x, fl) := f.round {} ((fp32Val sum).add 0 s.neg).1
    match f.dec x with
    | .fin .. => if fl &&& fOF = 0 then some x else none
    | _ => none

/-- Candidate (07 R156): the value that satisfies the row's record, given the other elements of the row. -/
def candidate (fmt : Nat) (rowRec : BitVec 128) (others : List Nat) : Option Nat :=
  match fmtKind fmt with
  | .int f => intCandidate f (facetW rowRec 0) others
  | .cint f =>
    match intCandidate f (facetW rowRec 0) others, intCandidate f (facetW rowRec 1) (others.map (· / 2 ^ f.w)) with
    | some x, some y => some (x + y * 2 ^ f.w)
    | _, _ => none
  | .flt f => floatCandidate f (facetW rowRec 0) others
  | .cflt f =>
    match floatCandidate f (facetW rowRec 0) others, floatCandidate f (facetW rowRec 1) (others.map (· / 2 ^ f.w)) with
    | some x, some y => some (x + y * 2 ^ f.w)
    | _, _ => none
  | _ => none

/-- What a check finds. -/
inductive Checked where
  | ok
  | fix (i j v : Nat)
  | refuse (reason i j : Nat) (noRow : Bool)
deriving DecidableEq, Repr

/-- CheckTile (07 R156) over a matrix of elements: `differs` says whether line n, a row or rows + a column, is bad as it stands, and `cand`
gives the value that makes row i right, given the other elements of the row. -/
def checkWith (rows cols : Nat) (elem : Nat → Nat → Nat) (differs : Nat → List Nat → Bool) (cand : Nat → List Nat → Option Nat) : Checked :=
  let rowL (i : Nat) : List Nat := (List.range cols).map (elem i)
  let colL (j : Nat) : List Nat := (List.range rows).map (elem · j)
  let br := (List.range rows).filter fun i => differs i (rowL i)
  let bc := (List.range cols).filter fun j => differs (rows + j) (colL j)
  match br, bc with
  | [], [] => .ok
  | [i], [j] =>
    match cand i (((List.range cols).filter (· != j)).map (elem i)) with
    | none => .refuse 3 i j false
    | some v =>
      let rowV := (List.range cols).map fun k => if k = j then v else elem i k
      let colV := (List.range rows).map fun k => if k = i then v else elem k j
      if differs i rowV || differs (rows + j) colV then .refuse 2 i j false else .fix i j v
  | _, _ => .refuse 1 (br.headD 0) (bc.headD 0) br.isEmpty

/-- CheckTile over a tile's elements and its stored records; a line without one is unchecked and passes. -/
def checkLines (fmt rows cols : Nat) (elem : Nat → Nat → Nat) (stored : Nat → Option (BitVec 128)) : Checked :=
  checkWith rows cols elem
    (fun n l => match stored n with | none => false | some s => facetDiffers fmt l.length s (lineFacet fmt l))
    (fun i l => candidate fmt ((stored i).getD 0) l)

/-- Write element (i, j) of a tile without touching its records. -/
def State.writeElem (s : State) (hearth : Nat) (t : Tile) (i j v : Nat) : State :=
  let k := t.elemKey hearth i j
  let s := (s.disturb [k]).logL1 k
  let cells : List Host.Cell :=
    if t.w = 4 then
      let o := (mget s.m.mem k).toNat
      [(k, BitVec.ofNat 8 (if j % 2 = 0 then o / 16 * 16 + v % 16 else o % 16 + v % 16 * 16))]
    else (keysFrom k (t.w / 8)).zip (splitBytes (t.w / 8) v)
  s.onMod fun m => ({ m with mem := msets m.mem cells, tags := cells.foldl (fun (g : List Nat) (c : Host.Cell) => sdel g (c.1 / 16)) m.tags }).unpoison (cells.map Prod.fst)

/-- The declared tile whose bounding box holds an L1 offset range and begins at it. -/
def Hearth.tileAt (h : Hearth) (base : Nat) : Option (Nat × Tile) := h.tiles.find? (·.2.base == base)

/-- Count a check's outcome for a context on a Hearth (07 R167). -/
def State.countFacet (s : State) (ctx hearth : Nat) (corr : Bool) : State :=
  s.modCtx ctx fun c =>
    if corr then { c with facetCorr := tmod 0 c.facetCorr hearth (fun n => min (n + 1) 0xFFFFFFFF) }
    else { c with facetMism := tmod 0 c.facetMism hearth (fun n => min (n + 1) 0xFFFFFFFF) }

/-- EINFO of FACET_MISMATCH and FACET_CORRECTED (07 R168). -/
def facetInfo (origin : Nat) (user : Bool) (reason : Nat) (imp : Bool) (i j : Nat) : Word :=
  w64 (origin + 8 * b2n user + 0x100 * reason + 0x4000 * b2n imp + 0x10000 * (i % 4096) + 0x100000000 * (j % 4096))

/-- CheckTile on a declared tile (07 R156, R167): stale lines are recomputed, a correction is written, and the outcome is counted
and logged. A poisoned word of L1 is read as it stands (log 79). -/
def State.checkTile (s : State) (hearth : Nat) (t : Tile) (rptc : Bool) : State × Checked :=
  let n := t.rows + t.cols
  let s := (s.scrubTile hearth t).scrub ((List.range t.rows).flatMap fun i => keysFrom (t.elemKey hearth i 0) t.rowBytes)
  let stored (k : Nat) : Option (BitVec 128) := let r := s.facet hearth t k; if facetStale r then none else some r
  let res := checkLines t.fmt t.rows t.cols (t.elem s.m hearth) stored
  let stale := (List.range n).filter fun k => facetStale (s.facet hearth t k)
  let s' := stale.foldl (fun s k => s.setFacet t.ctx hearth (t.run + k) (t.fresh s.m hearth k)) s
  match res with
  | .ok => (s', .ok)
  | .fix i j v =>
    let s' := (s'.writeElem hearth t i j v).countFacet t.ctx hearth true
    (s'.logErr (0x500 + hearth) 0 5 i (t.elemKey hearth i j) 0 (if rptc then 0x24 else 0xFF) false, res)
  | .refuse _ i j noRow =>
    let s' := s'.countFacet t.ctx hearth false
    (s'.logErr (0x500 + hearth) 2 5 (if noRow then 0x8000 + j else i) (l1Key hearth t.base) 0 0x23 false, res)

end Sys2Proof.Machine
end

