-- ==== Sys2Proof/Machine/Access.lean ====
section
/-! DEFINITION. How a hart reaches memory: the dereference check (01 R29), the store buffer (04 R89, R90), loads (10 R231), stores
(10 R232), atomics (10 R236), records read through a capability, replay capture (14 R353) and the fetch of a code line (09 R190 to
R193, 16 R396). -/

namespace Sys2Proof.Machine

/-! ## Replay pages (14 R353) -/

/-- The number of the replay page of a physical address. -/
def pageOfPa (pa : Nat) : Nat := pa / 0x10000
/-- The number of the replay page of an L1 location: a granule of a Hearth. -/
def pageOfL1 (k : Nat) : Nat := 0x100000000 + k / 0x10000

/-- The runs of locations that make a page: first location and length. -/
def pageRuns (m : Mod) (page : Nat) : List (Nat × Nat) :=
  if 0x100000000 ≤ page then [((page - 0x100000000) * 0x10000, 0x10000)]
  else (List.range 16).map fun i => (paKey m (page * 0x10000 + 4096 * i), 4096)

/-- Copy a run of bytes, tags and codes without any other effect. -/
def Mod.copyRaw (m : Mod) (src dst len : Nat) : Mod :=
  let mine := (m.mem.filter fun c => decide (src ≤ c.1) && decide (c.1 < src + len)).map fun c => (c.1 - src + dst, c.2)
  let tags := (m.tags.filter fun g => decide (src / 16 ≤ g) && decide (g < (src + len) / 16)).map fun g => g - src / 16 + dst / 16
  { m with
    mem := msets (m.mem.filter fun c => !(decide (dst ≤ c.1) && decide (c.1 < dst + len))) mine
    tags := tags.foldl sadd (m.tags.filter fun g => !(decide (dst / 16 ≤ g) && decide (g < (dst + len) / 16))) }.copyCodes src dst len

/-- Copy whole pages, run by run of 4 KiB. -/
def Mod.copyPage (m : Mod) (src dst : Nat) : Mod :=
  let cut (l : List (Nat × Nat)) : List Nat := l.flatMap fun r => (List.range (r.2 / 4096)).map fun i => r.1 + 4096 * i
  ((cut (pageRuns m src)).zip (cut (pageRuns m dst))).foldl (fun m p => m.copyRaw p.1 p.2 4096) m

/-- The locations of a page. -/
def pageKeys (m : Mod) (page : Nat) : List Nat := (pageRuns m page).flatMap fun r => keysFrom r.1 r.2

/-- Capture a page before the hart on core n first writes it in a pass (14 R353): `own` says that the write issued in an open pass,
which may have closed since. -/
def State.capture (s : State) (n : Nat) (own : Bool) (page : Nat) : State :=
  let r := (s.hartAt n).rep
  if !own || r.phase == 0 || r.pages.contains page then s
  else if 64 ≤ r.pages.length then s.modHart n fun h => { h with rep := { h.rep with ovf := true } }
  else
    let s := (s.disturb (pageKeys s.m (r.save.toNat + r.pages.length))).scrub (pageKeys s.m page)
    let s := s.onMod (·.copyPage page (r.save.toNat + r.pages.length))
    s.modHart n fun h => { h with rep := { h.rep with pages := h.rep.pages ++ [page] } }

/-- Write a captured page back, with its tags (14 R353): a restore path of R23, with the facet effects of R158. -/
def State.restorePage (s : State) (n idx page : Nat) : State :=
  let r := (s.hartAt n).rep
  let runs := pageRuns s.m page
  let s := runs.foldl (fun s run =>
    if isL1 run.1 then (List.range 256).foldl (fun s i => s.logL1 (run.1 + 256 * i)) s else s) s
  let s := s.disturb (pageKeys s.m page)
  let old := s.m
  let s := s.onMod (·.copyPage (r.save.toNat + idx) page)
  let s := s.onMod fun m => m.cleanL2 (pageKeys m page)
  runs.foldl (fun s run =>
    if isL1 run.1 && !(s.hearth (keyHearth run.1)).tiles.isEmpty then
      s.facetWrites old (keyHearth run.1) ((keysFrom run.1 run.2).map keyOff)
    else s) s

/-! ## The dereference check (01 R29) -/

/-- The permissions an access needs. -/
structure Need where
  rd : Bool := false
  wr : Bool := false
  sc : Bool := false
  eng : Bool := false

/-- Steps 1 to 3: tag, seal, form. -/
def State.capUse (s : State) (c : Cap) (creg : Nat) (a : Word) (kind n : Nat) : R Unit :=
  if !c.tag then raise s 0x10 a (einfo kind s.user creg 0 0 n)
  else if c.seal then raise s 0x13 a (einfo kind s.user creg 0 0 n)
  else if c.malformed then raise s 0x11 a (einfo kind s.user creg 3 0 n)
  else .ok ()

/-- The reason of the first missing permission: 0 R, 1 W, 3 SC, 5 ENG (01 R29, 12 R265). -/
def Cap.lacks (c : Cap) (need : Need) : Option Nat :=
  if need.rd && !c.has 0 then some 0
  else if need.wr && !c.has 1 then some 1
  else if need.sc && !c.has 4 then some 3
  else if need.eng && !c.has 5 then some 5
  else none

/-- Steps 4 to 7: canonical, permissions, bounds. -/
def State.capRange (s : State) (c : Cap) (creg : Nat) (a : Word) (kind n : Nat) (need : Need) : R Unit :=
  let info (r : Nat) : Word := einfo kind s.user creg r 0 n
  if !canonical a then raise s 0x11 a (info 2)
  else match c.lacks need with
    | some r => raise s 0x12 a (info r)
    | none =>
      match c.bounds? with
      | none => raise s 0x11 a (info 3)
      | some (base, top) =>
        if a55 a < base then raise s 0x11 a (info 0)
        else if top < a55 a + n then raise s 0x11 a (info 1)
        else .ok ()

/-- Bytes of an access as resolved: locations, memory type, whether the destination is shared (01 R28), replay pages. -/
structure Span where
  keys : List Nat := []
  mt : Nat := 0
  shd : Bool := false
  pages : List Nat := []

/-- What an access is. -/
structure Deref where
  creg : Nat
  kind : Nat
  need : Need
  size : Nat
  eva : Word
  check : Bool := true

/-- The access needs write permission. -/
def Deref.store (d : Deref) : Bool := d.need.wr

/-- Steps 9 to 11 for n bytes in one 64 KiB page or window (01 R29, R18, R33). -/
def State.resolveRun (s : State) (d : Deref) (a : Word) (n : Nat) : R (State × Span) :=
  let info (r l : Nat) : Word := einfo d.kind s.user d.creg r l d.size
  if inSpan a then
    match window s.cur s.hart.ctl.nearctl a.toNat with
    | .error r => raise s 0x18 d.eva (info r 0)
    | .ok t =>
      let keys := (List.range n).map (t.key s.m)
      let pages := keys.map pageOfL1
      match t with
      | .l1 h o =>
        let c := s.ctx s.hart.ctx
        match if d.check then regionReason c h (o / 0x10000) { rd := d.need.rd, wr := d.need.wr, eng := false } else none with
        | some r => raise s 0x18 d.eva (info r 0)
        | none => .ok (s, { keys := keys, shd := regionShared c h (o / 0x10000), pages := pages })
      | _ => .ok (s, { keys := keys, pages := pages })
  else if !s.miller && d.check then raise s 0x15 d.eva (info 0 0)
  else
    let miss := (tlbFind s.m s.die s.hart.ctx (a55 a)).isNone
    match translate s (.walk s.cur) s.hart.clock s.die s.hart.ctx a { rd := d.need.rd, wr := d.need.wr, atomic := d.kind == 2, user := s.user, check := d.check } with
    | .error (.fault r l s) => raise s (if d.store then 0x17 else 0x16) d.eva (info r l)
    | .error (.ue site sub addr inj s) => ueStop s d.kind site sub addr inj a
    | .error (.wait s) => .error (.wait false 0x10 s)
    | .ok (s, e) =>
      let pa := leafPa e (a55 a)
      .ok (s.onHart fun h => { h with walked := h.walked + b2n miss }, { keys := (List.range n).map fun i => paKey s.m (pa + i), mt := bits e.bits 10 9, shd := bit e.bits 6 == 1 || bits pa 47 46 == 2, pages := List.replicate n (pageOfPa pa) })

/-- Join two spans. -/
def Span.append (x y : Span) : Span :=
  { keys := x.keys ++ y.keys, mt := max x.mt y.mt, shd := x.shd || y.shd, pages := x.pages ++ y.pages }

/-- Steps 9 to 11 for n bytes, page by page; `fuel` bounds the pages. -/
def State.resolve (s : State) (d : Deref) : Nat → Word → Nat → R (State × Span)
  | 0, _, _ => .ok (s, {})
  | fuel + 1, a, n =>
    let here := min n (0x10000 - a.toNat % 0x10000)
    match s.resolveRun d a here with
    | .error e => .error e
    | .ok (s, x) =>
      if n ≤ here then .ok (s, x)
      else match s.resolve d fuel (a + w64 here) (n - here) with
        | .error e => .error e
        | .ok (s, y) => .ok (s, x.append y)

/-- CheckCap (01 R29, steps 1 to 11) for n bytes at a; `aligned` asks for step 8. -/
def State.checkCap (s : State) (c : Cap) (creg : Nat) (a : Word) (kind n : Nat) (need : Need) (aligned : Bool) : R (State × Span) :=
  match s.capUse c creg a kind n with
  | .error e => .error e
  | .ok () =>
    match s.capRange c creg a kind n need with
    | .error e => .error e
    | .ok () =>
      if aligned && a.toNat % n != 0 then raise s 0x14 a (einfo kind s.user creg 0 0 n)
      else s.resolve { creg := creg, kind := kind, need := need, size := n, eva := a } (n / 0x10000 + 2) a n

/-- Wait for room in the store buffer. -/
def guardRoom (ok : Bool) (s : State) : R Unit := if ok then .ok () else .error (.wait false 0x0E s)

/-- Wait for a read at its channel; the cycles under a refresh are counted as such (14 R350). -/
def guardRead (ok : Bool) (keys : List Nat) (s : State) : R Unit :=
  if ok then .ok () else .error (.wait false (if keys.any s.inRefresh then 0x1C else 0x10) s)

/-! ## Waiting on engines -/

/-- Flush a Kneader window (13 R300, R309): every eligible command becomes dispatchable. -/
def MxSt.flush (x : MxSt) (age : Bool) : MxSt :=
  if x.queue.any (·.stage == .eligible) then
    { x with
      queue := x.queue.map fun c => if c.stage = .eligible then { c with stage := .ready } else c
      fl := if age then x.fl else min (x.fl + 1) 65535
      age := if age then min (x.age + 1) 65535 else x.age }
  else x

/-- Flush the window of the hart on core n. -/
def State.flushWindow (s : State) (n : Nat) : State := s.modHart n fun h => { h with mx := h.mx.flush false }

/-- The owner number of a matrix command's entries: 2^20 and the core and the sequence number of the command. -/
def mxOwner (core seq : Nat) : Nat := 0x100000 + core * 0x10000 + seq % 0x10000

/-- The owner number of the entry that a tile check of the hart on a core holds (07 R157). -/
def chkOwner (core : Nat) : Nat := 0x20000000 + core

/-- The owner number is a matrix command's. -/
def isMxOwner (o : Nat) : Bool := decide (0x100000 ≤ o) && decide (o < 0x20000000)

/-- Commands in the window: entered and not dispatched (13 R300). -/
def MxSt.window (x : MxSt) : List MxCmd := x.queue.filter fun c => c.stage == .eligible || c.stage == .ready

/-- A wait on an entry flushes the window that holds its command (13 R309). -/
def State.flushOwner (s : State) (owner : Nat) : State :=
  let core := (owner - 0x100000) / 0x10000
  if isMxOwner owner && (s.hartAt core).mx.window.any (fun c => mxOwner core c.seq == owner) then s.flushWindow core else s

/-- An entry of the store buffer or a queue whose parity is bad is consumed (16 R379, R380). -/
def State.queueBad {α : Type} (s : State) (kind : Nat) (va : Word) : R α := ueStop s kind 4 (s.cur % 8) 0 false va

/-- Entry 0 of a queue of the hart whose entries have bad parity by number from `base` leaves it (16 R379). -/
def Hart.popBad (h : Hart) (base : Nat) : Hart :=
  if h.poison.isEmpty then h
  else { h with poison := (sdel h.poison base).map fun x => if base < x ∧ x < base + 16 then x - 1 else x }

/-- Entry 0 of a queue is read: its parity (16 R379, R380). -/
def State.queueParity (s : State) (base : Nat) : R Unit := if s.hart.poison.contains base then s.queueBad 0 0 else .ok ()

/-- The numbers under which `poison` lists a hart's tokens, received payloads and dispensed record with bad parity. -/
def badTokens : Nat := 64
/-- Received payloads. -/
def badPayloads : Nat := 80
/-- A dispensed record. -/
def badGiven : Nat := 96

/-- A location is remote for the hart: its natural scope is not DIE (04 R86). -/
def State.remote (s : State) (k : Nat) : Bool := scopeOf s.die k != 1

/-- The limit of RMTCTL has passed since the present instruction issued its remote access, or passes in this turn (02 R59, R60). -/
def State.late (s : State) : Bool :=
  let h := s.hart
  let limit := h.ctl.rmt.toNat * (256 * mclkUnits)
  limit != 0 && decide (h.since.getD h.clock + limit ≤ h.clock + s.delay * cycleUnits (s.coreStep s.cur))

/-- EINFO of a REMOTE_TIMEOUT (02 R67): HEARTH is 0 where the target is no byte of L1 (log 58). -/
def State.timeoutInfo (s : State) (kind creg n reason k : Nat) : Word :=
  einfo67 kind s.user creg reason n false 0 (if isL1 k then keyHearth k else 0)

/-- Precise REMOTE_TIMEOUT of a load or atomic (02 R60, 18 R409; 10 R234 row 5). -/
def State.readRemote (s : State) (kind creg n reason : Nat) (va : Word) (keys : List Nat) : R Unit :=
  if keys.contains noKey then raise s 0x1A va (s.timeoutInfo kind creg n 3 noKey)
  else if keys.any s.remote && s.late then raise s 0x1A va (s.timeoutInfo kind creg n reason (keys.headD 0))
  else .ok ()

/-- The present instruction's remote access has issued (02 R60). -/
def State.issuedRemote (s : State) (keys : List Nat) : State :=
  if s.hart.since.isNone && keys.any s.remote then s.onHart fun h => { h with since := some h.clock } else s

/-- A poison check, ranges apart (10 R234 row 4): the fill comes first, and the site is where the access found the data (16 R380). -/
def State.readPoison (s : State) (kind : Nat) (va : Word) (keys : List Nat) (whole alloc : Bool) : R Unit :=
  match keys.find? (s.poisonedFor whole) with
  | none => .ok ()
  | some k =>
    let (site, sub, addr) := s.poisonSite k
    ueStop (s.l2Sectors keys false whole alloc) kind site sub addr (s.poisonInj k) va

/-- The counter events of a read by class (02 R50, 14 R350). -/
def State.readEvents (s : State) (k : Nat) : List Nat :=
  if !isL1 k then []
  else if keyHearth k ≠ s.die then [0x0C]
  else if s.miller then [0x0B]
  else
    let t := trayOf s.cur % 128
    let o := keyOff k
    if o / 512 % 128 = t then [0x08] else if o / 4096 % 16 = t / 8 then [0x09] else if o / 16384 % 4 = t / 32 then [0x0A] else [0x0B]

/-! ## Loads -/

/-- The bytes of held stores of a paired stream over what memory gives (16 R394). -/
def heldOver (held : List SbEntry) (k : Nat) (b : Byte) : Byte :=
  held.foldl (fun b e => ((e.cells.find? (·.1 == k)).map (·.2)).getD b) b

/-- What the store buffer says of a read of some locations (04 R89): the youngest entry that overlaps them all the way, a wait, or
nothing. -/
inductive Fwd where
  | from (e : SbEntry)
  | wait
  | none
deriving DecidableEq, Repr

/-- Entries that overlap locations. -/
def SbEntry.overlaps (e : SbEntry) (keys : List Nat) : Bool := e.cells.any fun c => keys.contains c.1

/-- A store to a device register. -/
def SbEntry.device (e : SbEntry) : Bool := isDev (e.cells.headD (noKey, 0)).1

/-- Forwarding from the store buffer; a capability load takes a capability store's entry only (04 R89). Entries of other buffers
and posted stores that overlap are waited for (04 R87). An access to a device register follows every earlier one (03 R77), and an address
that answers nothing is no location of any store (18 R409). -/
def Hart.forward (h : Hart) (keys : List Nat) (cap : Bool) : Fwd :=
  if keys.contains noKey then .none
  else if keys.any isDev then (if h.sb.any SbEntry.device || h.posted.any SbEntry.device then .wait else .none) else
  match h.sb.reverse.find? (·.overlaps keys) with
  | some e =>
    if keys.all (fun k => e.cells.any (·.1 == k)) && (!cap || e.cap) then .from e else .wait
  | Option.none => if h.posted.any (·.overlaps keys) then .wait else .none

/-- A range of bytes that an access reads or writes, as resolved: number, address, size and span. -/
structure VAcc where
  i : Nat
  a : Word
  n : Nat
  span : Span

/-- The atomicity unit of an access of the hart on a core to a location, in bytes (04 R99). -/
def atomUnit (core k : Nat) : Nat := if isMillerNo core && !isL1 k && !isDev k then 32 else 8

/-- The piece of an access in which a location lies, by its first location; a capability access is one piece (04 R99). -/
def pieceOf (core : Nat) (whole : Bool) (k : Nat) : Nat := let u := if whole then 64 else atomUnit core k; k / u * u

/-- The pieces of some locations, ascending. -/
def piecesOf (core : Nat) (whole : Bool) (keys : List Nat) : List Nat := keys.foldl (fun l k => sadd l (pieceOf core whole k)) []

/-- Which of the pieces left a turn performs: those that `splits` names among them, or all (04 R99). -/
def State.chosen (s : State) (pieces : List Nat) : List Nat :=
  match s.splits with
  | [] => pieces
  | p :: _ => if pieces.length ≤ 1 then pieces else pieces.zipIdx.filterMap fun e => if p.contains e.2 then some e.1 else none

/-- The pieces of some locations in the order given, each with how many of its locations lie there side by side. -/
def pieceRuns (core : Nat) (whole : Bool) (keys : List Nat) : List (Nat × Nat) :=
  (keys.foldl (fun l k =>
    let p := pieceOf core whole k
    match l with
    | (q, n) :: r => if q = p then (q, n + 1) :: r else (p, 1) :: l
    | [] => [(p, 1)]) []).reverse

/-- How many of some locations a turn writes, in the order given: all, or those of as many pieces as `splits` says (04 R99). -/
def State.leading (s : State) (runs : List (Nat × Nat)) : Nat :=
  (match s.splits with
    | [] => runs
    | p :: _ => if runs.length ≤ 1 then runs else runs.take p.length).foldl (fun (n : Nat) (e : Nat × Nat) => n + e.2) 0

/-- A choice of pieces is used up. -/
def State.splitUsed {α : Type} (s : State) (pieces : List α) : State := if pieces.length ≤ 1 then s else { s with splits := s.splits.tail }

/-- Fixed bytes are dropped by pieces, those in whose piece a location that `hit` names lies, and tags with them. -/
def Hart.dropEarly (h : Hart) (core : Nat) (hit : Nat → Bool) : Hart :=
  if h.early.isEmpty then h
  else
    let gone := (h.early.filter fun c => hit c.1).map fun c => pieceOf core false c.1
    let left := h.early.filter fun c => !gone.contains (pieceOf core false c.1)
    { h with early := left, earlyTags := h.earlyTags.filter fun e => left.any (·.1 == 16 * e.1) && left.any (·.1 == 16 * e.1 + 8) }

/-- A load has read some locations, `used` of them as they were fixed: it takes the fixed bytes of its pieces with it, and of the
die-local ones, whose loads are performed in order, those fixed before its own, or all where it read one at present (04 R88, R92). -/
def Hart.afterLoad (h : Hart) (core : Nat) (keys used : List Nat) : Hart :=
  if h.early.isEmpty then h
  else
    let near (k : Nat) : Bool := scopeOf (dieOf core) k == 1
    let now := keys.any fun k => near k && !used.contains k
    let last := (h.early.zipIdx.filter fun e => near e.1.1 && used.contains e.1.1).foldl (fun m e => max m (e.2 + 1)) 0
    let older := ((h.early.take (if now then h.early.length else last)).filter fun c => near c.1).map (·.1)
    h.dropEarly core fun k => keys.contains k || older.contains k

/-- The value of a byte as its piece is read: fixed earlier for this load (04 R92), else the present one. -/
def State.fixedByte (s : State) (early : Bool) (k : Nat) : Byte :=
  match if early then s.hart.early.find? (·.1 == k) else none with
  | some c => c.2
  | none => heldOver s.hart.pair.held k (s.byteAt k)

/-- The loads of a paired stream are performed by both cores (14 R347): what the odd core has read, where it differs from what the even one
reads, shows as a mismatch. -/
def State.pairLoad (s : State) (cells : List Host.Cell) : State :=
  if !s.hart.pair.on then s
  else
    let cells := cells.filter fun c => !(s.hart.pair.held.any (·.overlaps [c.1]))
    let odd := (s.hartAt (s.cur ^^^ 1)).early
    let differs := cells.any fun c => odd.any fun o => o.1 == c.1 && o.2 != c.2
    (s.onHart fun h => { h with pair := { h.pair with loads := h.pair.loads ++ cells, differs := h.pair.differs || differs } }).modHart (s.cur ^^^ 1)
      fun h => { h with early := h.early.filter fun o => !(cells.any (·.1 == o.1)) }

/-- Some pieces of a load are read (10 R234 rows 4 and 5; 03 R75): their bytes are fixed; `early` where it may take bytes fixed before. A
remote load that waits at its channel meets its limit too (02 R60). -/
def State.readPieces (s : State) (kind creg : Nat) (far early : Bool) (l : List VAcc) (take : Nat → Bool) : R State := do
  let whole := kind == 3
  let part := (l.map fun v => (v, v.span.keys.filter take)).filter fun e => !e.2.isEmpty
  let alloc (v : VAcc) : Bool := v.span.mt == 0 && !far
  let s := part.foldl (fun s e => s.scrub e.2) s
  let (s, ok) := part.foldl (fun (p : State × Bool) e => if p.2 then p.1.channelRead (.hart s.cur) s.hart.clock e.2 whole (alloc e.1) else p) (s, true)
  if !ok then forR (fun _ e => s.readRemote kind creg e.1.n 0 e.1.a e.2) () part
  guardRead ok (part.flatMap (·.2)) s
  forR (fun _ e => s.readPoison kind e.1.a e.2 whole (alloc e.1)) () part
  forR (fun _ e => s.readRemote kind creg e.1.n 0 e.1.a e.2) () part
  let s := part.foldl (fun s e => s.l2Sectors e.2 false whole (alloc e.1)) s
  let keys := part.flatMap (·.2)
  let cells : List Host.Cell := keys.map fun k => (k, s.fixedByte early k)
  let used := if early then keys.filter fun k => s.hart.early.any (·.1 == k) else []
  .ok ((s.onHart fun h => { h.afterLoad s.cur keys used with got := h.got ++ cells }).pairLoad cells)

/-- The bytes that a range read: of a store-buffer entry that serves it, with what later stores of the hart hold (16 R394), else as
fixed. -/
def loadedBytes (held : List SbEntry) (got : List Host.Cell) (v : VAcc) (f : Fwd) : Nat :=
  joinBytes (v.span.keys.map fun k =>
    match f with
    | .from e => heldOver held k (((e.cells.find? (·.1 == k)).map (·.2)).getD 0)
    | _ => ((got.find? (·.1 == k)).map (·.2)).getD 0)

/-- The transaction of a location (02 R51): its Tray row in L1; a location elsewhere stands alone. -/
def transactionOf (k : Nat) : Nat × Bool := if isL1 k then (k / 512, true) else (k, false)

/-- The events that a load counts (14 R350): its class, that of its first byte (log 51), and whether the L2 served it. -/
def State.loadEvents (s : State) (keys : List Nat) : List Nat :=
  (match keys with | k :: _ => s.readEvents k | [] => []) ++ (if keys.any isHbm then [if s.hart.l2Miss then 0x19 else 0x18] else [])

/-- Read resolved ranges as one load (10 R231, R234 rows 3 to 5; 11 R258, R259): each row's trap goes to its lowest failing range. A
transaction below its watermarks is read though another waits (02 R65), in the order that `splits` gives, and the load ends with its
last piece (04 R99). The values by range, the tag of the first range's first granule, and the events counted. -/
def State.loads (s : State) (kind creg : Nat) (far acq : Bool) (l : List VAcc) : R (State × List Nat × Bool × List Nat) := do
  let whole := kind == 3
  let fwd := l.map fun v => (v, s.hart.forward v.span.keys whole)
  let direct := (fwd.filter fun e => match e.2 with | .none => true | _ => false).map (·.1)
  let fixed (k : Nat) : Bool := s.hart.got.any (·.1 == k)
  forR (fun _ e =>
    match e.1.span.keys.findSome? fun k => if fixed k then none else match s.markOf k with | .frozen x h => some (x, h) | _ => none with
    | some (x, h) => raise s 0x21 e.1.a (einfo67 kind s.user creg 0 e.1.n false x h)
    | none => .ok ()) () fwd
  let waits (k : Nat) : Option Nat := match s.markOf k with | .wait o => some o | _ => none
  let held := (fwd.filter fun e => match e.2 with | .from _ => true | _ => false).findSome? fun e => e.1.span.keys.findSome? waits
  if let some o := held then .error (.wait false 0x0D (s.flushOwner o))
  if fwd.any (fun e => match e.2 with | .wait => true | _ => false) then .error (.wait false 0x10 s)
  let s := s.issuedRemote (l.flatMap (·.span.keys))
  forR (fun _ e => match e.2 with | .from b => if b.bad then s.queueBad kind e.1.a else .ok () | _ => .ok ()) () fwd
  let keys := direct.flatMap (·.span.keys)
  let left := piecesOf s.cur whole (keys.filter (!fixed ·))
  let held := (keys.filter fun k => !fixed k && (waits k).isSome).map transactionOf
  let open0 := left.filter fun p => !held.contains (transactionOf p)
  let sel := (s.chosen left).filter open0.contains
  let s := s.splitUsed left
  if sel.isEmpty && !left.isEmpty then
    match (keys.filter (!fixed ·)).findSome? waits with
    | some o =>
      match direct.find? fun v => v.span.keys.any s.remote && s.late with
      | some v => raise s 0x1A v.a (s.timeoutInfo kind creg v.n 0 (v.span.keys.headD 0))
      | none => .error (.wait false 0x0D (s.flushOwner o))
    | none => .error (.wait false 0x10 s)
  let etag := if whole && !acq then tget? s.hart.earlyTags (keys.headD 0 / 16) else none
  let s ← s.readPieces kind creg far (!acq && (!whole || etag.isSome)) direct fun k => sel.contains (pieceOf s.cur whole k) && !fixed k
  if sel.length < left.length then .error (.wait false 0x10 s)
  let heldTag (v : VAcc) (t : Bool) : Bool := s.hart.pair.held.foldl (fun t e => if e.overlaps v.span.keys then e.tag else t) t
  let tag := match fwd with
    | (v, .from e) :: _ => heldTag v e.tag
    | (v, _) :: _ => heldTag v (etag.getD (s.tagAt (v.span.keys.headD 0)))
    | [] => false
  let own := fwd.any fun e => match e.2 with | .from _ => true | _ => false
  let s := if acq then s.onHart fun h => { h with early := [], earlyTags := [] }
    else if own then s.onHart fun h => h.dropEarly s.cur fun k => scopeOf s.die k == 1 else s
  .ok (s.onHart fun h => { h with got := [] }, fwd.map (fun e => loadedBytes s.hart.pair.held s.hart.got e.1 e.2), tag, s.loadEvents keys)

/-- Read n resolved bytes as a load: the state, the value, the tag and the events counted. -/
def State.loadSpan (s : State) (kind creg : Nat) (va : Word) (x : Span) (n : Nat) (far acq : Bool) : R (State × Nat × Bool × List Nat) := do
  let (s, vals, tag, ev) ← s.loads kind creg far acq [{ i := 0, a := va, n := n, span := x }]
  .ok (s, vals.headD 0, tag, ev)

/-- A checked read of n bytes through a capability, as a load of kind 0: R29, then the traps of R234. `align` is 0 or the
alignment it needs, which fails as step 8 of R29. The state, the value, the tag of its first granule and the events. -/
def State.readCap (s : State) (c : Cap) (creg : Nat) (a : Word) (n align : Nat) : R (State × Nat × Bool × List Nat) := do
  s.capUse c creg a 0 n
  s.capRange c creg a 0 n { rd := true }
  guardTrap (align == 0 || a.toNat % align == 0) s 0x14 a (einfo 0 s.user creg 0 0 n)
  let (s, x) ← s.resolve { creg := creg, kind := 0, need := { rd := true }, size := n, eva := a } (n / 0x10000 + 2) a n
  s.loadSpan 0 creg a x n false false

/-! ## Stores -/

/-- A byte a store writes. -/
structure SByte where
  va : Word
  key : Nat
  page : Nat
  mt : Nat
  val : Byte

/-- The bytes of a value at a span. -/
def Span.bytes (x : Span) (a : Word) (v : Nat) : List SByte :=
  ((x.keys.zip x.pages).zip (splitBytes x.keys.length v)).zipIdx.map fun e =>
    { va := a + w64 e.2, key := e.1.1.1, page := e.1.1.2, mt := x.mt, val := e.1.2 }

/-- What the entries of one store share; `far` is the hint that keeps a store out of the L2 (10 R233). -/
structure SbHead where
  n : Nat
  cap : Bool := false
  tag : Bool := false
  rel : Bool := false
  creg : Nat
  far : Bool := false

/-- The cells, ascending, with one more; a location already there is replaced. -/
def putCell (l : List Host.Cell) (c : Host.Cell) : List Host.Cell :=
  match l with
  | [] => [c]
  | d :: r => if c.1 = d.1 then c :: r else if c.1 < d.1 then c :: d :: r else d :: putCell r c

/-- Add a byte to the entry of its 64-byte block, or begin one (04 R89, 11 R259). A block is one of locations, so two addresses of a
location fall in one entry (01 R12); addresses that answer nothing have blocks of their own (18 R409). -/
def addByte (die : Nat) (lvl : Level) (hd : SbHead) (l : List SbEntry) (b : SByte) : List SbEntry :=
  let here (e : SbEntry) : Bool :=
    (e.cells.headD (0, 0)).1 / 64 == b.key / 64 && (b.key != noKey || e.va.toNat / 64 == b.va.toNat / 64)
  if l.any here then
    l.map fun e => if here e then { e with cells := putCell e.cells (b.key, b.val) } else e
  else
    l ++ [{ va := b.va, n := hd.n, cap := hd.cap, tag := hd.tag, rel := hd.rel, lvl := lvl, page := b.page, creg := hd.creg
            scope := scopeOf die b.key, mt := if hd.far then max b.mt 1 else b.mt, cells := [(b.key, b.val)] }]

/-- The store-buffer entries of a store. -/
def State.entries (s : State) (hd : SbHead) (l : List SByte) : List SbEntry :=
  let es := l.foldl (addByte s.die s.hart.lvl hd) []
  es.zipIdx.map fun e =>
    { e.1 with
      issued := s.hart.clock, limit := s.hart.ctl.rmt.toNat, ord := s.hart.storeNo + e.2, pass := s.hart.rep.phase == 1
      whole := if es.length ≤ 1 then [] else l.map (·.key) }

/-- A store that retires finds its place in the L2 (23 R454): its line is there, or a store before it in the buffer brings it, and a
capability store's sector is filled. -/
def State.storeHits (s : State) (e : SbEntry) : Bool :=
  let k := (e.cells.headD (noKey, 0)).1
  let before := (s.hart.posted ++ s.hart.sb).filter fun x => x.mt == 0 && x.cells.any fun c => isHbm c.1
  if e.cap then !s.needsFill k true || before.any fun x => x.cap && x.cells.any (·.1 / 64 == k / 64)
  else (tget? s.m.l2 (lineKey k)).isSome || before.any fun x => x.cells.any (lineKey ·.1 == lineKey k)

/-- The events that a store counts as it retires (14 R349, R350; 23 R454): an access to another Hearth, and one of the L2. -/
def State.storeEvents (s : State) (es : List SbEntry) : List Nat :=
  let first (e : SbEntry) : Nat := (e.cells.headD (noKey, 0)).1
  let far := es.any fun e => isL1 (first e) && keyHearth (first e) != s.die
  let l2 := es.filter fun e => isHbm (first e)
  (if far then [0x0C] else []) ++ (if l2.isEmpty then [] else [if l2.all s.storeHits then 0x18 else 0x19])

/-- Some more cells of a store-buffer entry are performed at their home, for the hart on core n (04 R85, R90; 01 R23). -/
def State.performCells (s : State) (n : Nat) (e : SbEntry) (cells : List Host.Cell) : State :=
  let s := if e.done ≠ 0 then s else if (e.cells.headD (noKey, 0)).1 = noKey then s else s.capture n e.pass e.page
  let s := s.l2Writes (cells.map (·.1)) e.cap (e.mt == 0)
  let s := s.writeAny (e.lvl == .f) cells
  if e.cap then s.writeTag (e.cells.headD (noKey, 0)).1 e.tag else s

/-- What is left of a store-buffer entry is performed. -/
def State.perform (s : State) (n : Nat) (e : SbEntry) : State := s.performCells n e (e.cells.drop e.done)

/-- The next pieces of an entry are performed, in ascending address order (02 R52, 04 R99): all that are left, or as many as `splits`
says. The entry as it then stands. -/
def State.performNext (s : State) (n : Nat) (e : SbEntry) : State × SbEntry :=
  let rest := e.cells.drop e.done
  let runs := pieceRuns n e.cap (rest.map (·.1))
  let k := s.leading runs
  ((if k = 0 then s else s.performCells n e (rest.take k)).splitUsed runs, { e with done := e.done + k })

/-- The entry is performed whole. -/
def SbEntry.over (e : SbEntry) : Bool := decide (e.cells.length ≤ e.done)

/-- The imprecise report of a store (02 R60): cause, reason, ENTRY and HEARTH. -/
def SbEntry.report (e : SbEntry) (cause reason entry hearth : Nat) : Async where
  cause := cause
  val := e.va
  info := einfo67 (if e.cap then 4 else 1) (e.lvl == .u) e.creg reason e.n true entry hearth
  ord := e.ord + 1

/-- The Hearth that a report of a store names (02 R67): that of its target byte; 0 where that is no byte of L1 (log 58). -/
def SbEntry.hearth (e : SbEntry) : Nat := let k := (e.cells.headD (noKey, 0)).1; if isL1 k then keyHearth k else 0

/-- A store at its target: refused by the range-lock check (02 R60), or performed. -/
def State.arrive (s : State) (n : Nat) (e : SbEntry) : State :=
  match s.lockHit (e.cells.map (·.1)) with
  | some (entry, reason, hearth) => s.modHart n fun h => { h with asy := h.asy ++ [e.report 0x19 reason entry hearth] }
  | none => s.perform n e

/-- The oldest entry may leave the buffer: one that is performed on its die waits, as a release, until every earlier store is performed
and acknowledged (04 R95), and to a device register until every earlier one is performed (03 R77); any other is posted in its turn
(04 R90). -/
def Hart.canDrain (h : Hart) : Bool :=
  match h.sb with
  | [] => false
  | e :: _ => e.scope != 1 || ((!e.rel || h.posted.isEmpty) && (!e.device || !h.posted.any SbEntry.device))

/-- The locations that the next pieces of an entry write wait at their channel (03 R83). -/
def State.entryWaits (s : State) (e : SbEntry) : Bool := s.writeWaits ((e.cells.drop e.done).map (·.1)) false (e.mt == 0)

/-- A capability store fills its sector before it is performed (03 R78): a read at its channel, which it waits for as any read does
(03 R82, R83). -/
def State.entryFills (s : State) (e : SbEntry) : State × Bool :=
  if e.cap && e.done == 0 then s.channelRead .other s.m.now (e.cells.map (·.1)) true (e.mt == 0) else (s, true)

/-- A state that an unfinished access has left, where it differs from the one before. -/
def moved (s t : State) : Option State := if t = s then none else some t

/-- The next pieces of an entry of the hart on core n are performed, and `put` sets what is left of it; none, or what it has asked of its
channel, while it waits. -/
def State.entryTurn (s : State) (n : Nat) (e : SbEntry) (put : SbEntry → Hart → Hart) : Option State :=
  if s.entryWaits e then none
  else
    match s.entryFills e with
    | (t, false) => moved s t
    | (t, true) => let (t, e) := t.performNext n e; some (t.modHart n (put e))

/-- The target of a store answers now: where it is host or peer memory, its window is bound or its port up (18 R409). -/
def State.answers (s : State) (e : SbEntry) : Bool :=
  let k := (e.cells.headD (noKey, 0)).1
  k != noKey && (!isOut k || paKey s.m (e.page * 0x10000 + e.va.toNat % 0x10000) != noKey)

/-- The oldest entry of the store buffer of core n leaves (04 R89, R90): of a die-local one the next pieces are performed, and it leaves
with its last; one to an address that answers nothing is reported (18 R409); any other is posted. None while it cannot. -/
def State.drain? (s : State) (n : Nat) : Option State :=
  let h := s.hartAt n
  match h.sb with
  | [] => none
  | e :: rest =>
    if !h.canDrain then none
    else if e.scope = 1 then s.entryTurn n e fun e h => { h with sb := if e.over then rest else e :: rest }
    else
      let s := s.setHartAt n { h with sb := rest }
      if !s.answers e then some (s.modHart n fun h => { h with asy := h.asy ++ [e.report 0x1A 3 0 0] })
      else some (s.modHart n fun h => { h with posted := h.posted ++ [e] })

/-- The same, unless it cannot. -/
def State.drainOne (s : State) (n : Nat) : State := (s.drain? n).getD s

/-- What a held entry adds to the fingerprint (16 R394): its address, its data in doublewords, its size. -/
def SbEntry.note (e : SbEntry) : List Word :=
  let v := joinBytes (e.cells.map (·.2))
  [e.va] ++ (List.range (ceilDiv e.cells.length 8)).map (fun i => w64 (v / 2 ^ (64 * i))) ++ [w64 e.cells.length]

/-- A load's value fixed earlier does not outlast a store of the hart to the location (04 R87). -/
def Hart.forgetEarly (h : Hart) (core : Nat) (es : List SbEntry) : Hart := h.dropEarly core fun k => es.any fun e => e.cells.any (·.1 == k)

/-- Entries of a store whose checks have passed enter the buffer, in a paired stream the held buffer (16 R393), as far as there is room;
for the rest the store waits at issue, and takes no event (04 R89, 11 R259). -/
def State.enterStore (s : State) (es : List SbEntry) : R State :=
  let s := s.onHart fun h => h.forgetEarly s.cur es
  if s.hart.pair.on then
    .ok (s.onHart fun h => { h with entering := none, pair := { h.pair with held := h.pair.held ++ es, notes := h.pair.notes ++ es.flatMap SbEntry.note, due := h.pair.due || decide (512 ≤ h.pair.held.length + h.pair.acts.length + es.length) } })
  else
    let room := 16 - s.hart.sb.length
    let s := s.onHart fun h => { h with sb := h.sb ++ es.take room }
    if es.length ≤ room then .ok (s.onHart fun h => { h with entering := none })
    else .error (.wait false 0x0E (s.onHart fun h => { h with entering := some (es.drop room) }))

/-- The entries of one store, made in its order (02 R60), enter the buffer; the store counts its events as it retires. -/
def State.enterNew (s : State) (es : List SbEntry) : R State :=
  (s.onHart fun h => { h with storeNo := h.storeNo + es.length, ev := h.ev ++ s.storeEvents es }).enterStore es

/-- A scalar or capability store finds its entry's room before its checks are settled, and waits at issue for it (04 R89). -/
def State.enqueue (s : State) (es : List SbEntry) : R State := do
  guardRoom (s.hart.pair.on || decide (s.hart.sb.length + es.length ≤ 16)) s
  s.enterNew es

/-- CheckRangeLock on the own Hearth (02 R62; 10 R234 row 2). -/
def State.checkLock (s : State) (kind creg n : Nat) (va : Word) (keys : List Nat) (anyHearth : Bool) : R Unit :=
  match s.lockHit (keys.filter fun k => isL1 k && (anyHearth || keyHearth k == s.die)) with
  | some (e, r, h) => raise s 0x19 va (einfo67 kind s.user creg r n false e h)
  | none => .ok ()

/-! ## Scalar accesses (10 R230 to R236) -/

/-- Size (R208): bytes of a size code. -/
def sizeOf (sz : Nat) : Nat :=
  match sz with
  | 0 => 1 | 1 => 1 | 2 => 2 | 3 => 2 | 4 => 4 | 5 => 4 | 6 => 8 | _ => 16

/-- The address of a scalar access. -/
def scalarAddr (c : Cap) (sz : Nat) (off : BitVec 12) : Word := c.addr + off.signExtend 64 * w64 (sizeOf sz)

/-- A loaded value extended as its size code says (10 R231). -/
def extendLoad (sz v : Nat) : Word :=
  match sz with
  | 0 => (BitVec.ofNat 8 v).signExtend 64
  | 2 => (BitVec.ofNat 16 v).signExtend 64
  | 4 => (BitVec.ofNat 32 v).signExtend 64
  | _ => w64 v

/-- Load (10 R231): the c-register value, with the state and the events counted. -/
def State.load (s : State) (b : CReg) (sz : Nat) (off : BitVec 12) (far acq : Bool) : R (State × Cap × List Nat) := do
  let c := s.rc b
  let n := sizeOf sz
  let kind := if sz = 7 then 3 else 0
  let a := scalarAddr c sz off
  let (s, x) ← s.checkCap c b.val a kind n { rd := true } true
  let (s, v, t, ev) ← s.loadSpan kind b.val a x n far acq
  if sz = 7 then .ok (s, { tag := t && c.has 3, md := if t && c.has 3 then w64 (v / 2 ^ 64) else 0, addr := w64 v }, ev)
  else .ok (s, untagged (extendLoad sz v), ev)

/-- A copy reads or writes L1: it has an issue event to wait for (04 R100); another's is performed at once. -/
def CopyCmd.inL1 (c : CopyCmd) : Bool := inSpan c.src || !c.receivers.isEmpty || inSpan c.dstVa || (c.xf != 0 && inSpan c.metaVa)

/-- Every engine operation that the hart issued has performed its issue event (12 R262). -/
def Hart.issued (h : Hart) : Bool := h.cpq.all (!·.inL1)

/-- Store (10 R232). -/
def State.store (s : State) (a b : CReg) (ord : Bool) (sz : Nat) (off : BitVec 12) (far : Bool) : R State := do
  let c := s.rc b
  let d := s.rc a
  let n := sizeOf sz
  let tagged := sz == 7 && d.tag
  let kind := if sz = 7 then 4 else 1
  let va := scalarAddr c sz off
  let (s, x) ← s.checkCap c b.val va kind n { wr := true, sc := tagged } true
  guardTrap (!(tagged && !d.has 6 && x.shd)) s 0x12 va (einfo kind s.user b.val 4 0 n)
  guardWait s.hart.issued false s
  s.checkLock kind b.val n va x.keys false
  let v := if sz = 7 then d.addr.toNat + (if d.tag then d.md.toNat else 0) * 2 ^ 64 else d.addr.toNat
  s.enqueue (s.entries { n := n, cap := sz == 7, tag := tagged, rel := ord, creg := b.val, far := far } (x.bytes va v))

/-- Everything the hart did before is performed: its buffer and its posted stores are empty (04 R91, R95). -/
def Hart.performed (h : Hart) : Bool := h.sb.isEmpty && h.posted.isEmpty

/-- An atomic at its home (10 R236): `f` gives the new value of the old one, or none. The old value with the state and events. -/
def State.atomic (s : State) (b : CReg) (w : Bool) (f : Nat → Option Nat) : R (State × Nat × List Nat) := do
  let c := s.rc b
  let n := if w then 8 else 4
  let a := c.addr
  let (s, x) ← s.checkCap c b.val a 2 n { rd := true, wr := true } true
  guardWait s.hart.issued false s
  s.checkLock 2 b.val n a x.keys false
  guardWait s.hart.performed false s
  let s := s.issuedRemote x.keys
  s.checkLock 2 b.val n a x.keys true
  match s.marks x.keys with
  | .frozen e h => raise s 0x21 a (einfo67 2 s.user b.val 0 n false e h)
  | .wait o => if x.keys.any s.remote && s.late then raise s 0x1A a (s.timeoutInfo 2 b.val n 1 (x.keys.headD 0)) else .error (.wait false 0x0D (s.flushOwner o))
  | .pass =>
  let (s, ok) := (s.scrub x.keys).channelRead (.hart s.cur) s.hart.clock x.keys true (x.mt == 0)
  if !ok then s.readRemote 2 b.val n 1 a x.keys
  guardRead ok x.keys s
  s.readPoison 2 a x.keys true (x.mt == 0)
  let k0 := x.keys.headD 0
  let old := s.numAt x.keys
  let act (s : State) : State :=
    match f old with
    | none => s
    | some v => (s.capture s.cur (s.hart.rep.phase == 1) (x.pages.headD 0)).writeAny (s.hart.lvl == .f) (x.keys.zip (splitBytes n v))
  if k0 ≠ noKey ∧ x.keys.any s.remote ∧ s.late then
    let s1 := { s with tick := s.tick + 1 }
    (if Config.freePerformed s.tick then act (s1.l2Access k0 n (f old).isSome true (x.mt == 0)).1 else s1).readRemote 2 b.val n 1 a x.keys
  else s.readRemote 2 b.val n 1 a x.keys
  let s := (s.l2Access k0 n (f old).isSome true (x.mt == 0)).1
  .ok ((act s).onHart fun h => { h with early := [], earlyTags := [] }, old, s.loadEvents x.keys)

/-! ## Fetch (01 R16, 09 R190 to R193, 16 R396) -/

/-- The state of a code-heap line of a context: its publication, if the line lies in loaded text. -/
def Ctx.pub (c : Ctx) (va : Word) : Option Pub :=
  c.objs.findSome? fun o =>
    if o.textVa ≤ va && decide (va.toNat < o.textVa.toNat + 64 * o.lines) then
      let ln := (va.toNat - o.textVa.toNat) / 64
      some (((o.fns.find? fun f => decide (f.1 ≤ ln) && decide (ln < f.1 + f.2.1)).map (·.2.2)).getD .unpublished)
    else none

/-- The code heap of a context holds a line. -/
def Ctx.inHeap (c : Ctx) (va : Word) : Bool :=
  decide (c.heapVa.toNat ≤ va.toNat) && decide (va.toNat < c.heapVa.toNat + 64 * c.heapLines)

/-- EINFO of a fetch fault (01 R30): KIND 5. The rule gives a fetch no access size: SIZE is 0 (log 59). -/
def State.fetchInfo (s : State) (creg reason level : Nat) : Word := einfo 5 s.user creg reason level 0

/-- Translate a fetch through the micro-TLB and the die TLB (01 R36). -/
def State.fetchXlate (s : State) (va : Word) : Except XErr (State × TlbE) :=
  let ctx := s.hart.ctx
  let acc : Acc := { x := true, user := s.user }
  match s.hart.utlb.find? (tlbHit ctx (a55 va)) with
  | some e =>
    match leafReason e acc with
    | some r => .error (.fault r (if e.block then 2 else 3) s)
    | none => .ok (s, e)
  | none =>
    let miss := (tlbFind s.m s.die ctx (a55 va)).isNone
    match translate s (.walk s.cur) s.hart.clock s.die ctx va acc with
    | .error e => .error e
    | .ok (s, e) => .ok (s.onHart fun h => { (h.count 0x1A (b2n miss)) with utlb := (e :: h.utlb.filter (· != e)).take 16 }, e)

/-- Fetch the 64-byte line at an address (09 R190): translation, publication, then the line, whose bytes the hart keeps until
FENCE.I. `creg` is the register that authorised the address (01 R30). -/
def State.fetchLine (s : State) (va : Word) (creg : Nat) : R (State × Nat) :=
  let line := va &&& ~~~(0x3F#64)
  if !canonical va then raise s 0x16 va (s.fetchInfo creg 0 0)
  else if inSpan va then raise s 0x18 va (s.fetchInfo creg 4 0)
  else
    match s.fetchXlate va with
    | .error (.fault r l s) => raise s 0x16 va (s.fetchInfo creg r l)
    | .error (.ue site sub addr inj s) => ueStop s 5 site sub addr inj va
    | .error (.wait s) => .error (.wait false 0x10 s)
    | .ok (s, e) =>
      match (s.ctx s.hart.ctx).pub line with
      | some .unpublished => raise s 0x35 line 0
      | some .retired => raise s 0x37 line 0
      | _ =>
        let pa := leafPa e (a55 line)
        let k0 := paKey s.m pa
        match tget? s.hart.lines k0 with
        | some l => .ok (s, l)
        | none =>
          let keys := keysFrom k0 64
          let alloc := bits e.bits 10 9 == 0
          match s.channelRead (.walk s.cur) s.hart.clock keys false alloc with
          | (s, false) => (guardRead false keys s).map fun _ => (s, 0)
          | (s, true) =>
            match s.readPoison 5 va keys false alloc with
            | .error e => .error e
            | .ok () =>
              let s := (s.l2Access k0 64 false false alloc).1
              let l := s.peeks keys
              .ok (s.onHart fun h => { h.count 0x1B 1 with lines := tset h.lines k0 l }, l)

/-- Fetch the line of a PC, named by `va` in a fault of its fetch, and check it and the PC (09 R192, R193): ILLEGAL_LINE with the
lowest REASON. The line itself. -/
def State.fetchNamed (s : State) (va pc : Word) (creg : Nat) : R (State × Nat) := do
  let (s, l) ← s.fetchLine va creg
  match checkLine l with
  | some r => raise s 0x01 (pc &&& ~~~(0x3F#64)) (w64 (5 + 0x100 * r))
  | none =>
    guardTrap (pcNamesHead pc.toNat (lineHC l)) s 0x01 (pc &&& ~~~(0x3F#64)) 0x305
    .ok (s, l)

/-- The same for the instruction at a PC: a fault of its fetch names the head (01 R16, R41). -/
def State.fetchPc (s : State) (pc : Word) (creg : Nat) : R (State × Nat) := s.fetchNamed pc pc creg

/-- The branch whose slot the instruction at the PC is, by their places (09 R193, R203): the head before it, which for head 1 is the last
head of the line before. That line is read to find it; where it cannot be read the address is a free value (log 6). -/
def State.branchOfSlot (s : State) : R (State × Word) :=
  let line := s.hart.pc &&& ~~~(0x3F#64)
  if 1 < s.hart.pc.toNat / 2 % 32 then .ok (s, s.hart.pc - 2)
  else
    match s.fetchLine (line - 64) 0 with
    | .error (.wait p ev s) => .error (.wait p ev s)
    | .error (.trap ..) => .ok ({ s with tick := s.tick + 1 }, Config.freeBranch s.tick)
    | .ok (s, l) =>
      if (checkLine l).isNone then .ok (s, line - 64 + w64 (2 * lineHC l)) else .ok ({ s with tick := s.tick + 1 }, Config.freeBranch s.tick)

/-- A control transfer may not stand in a delay slot (09 R205): EVAL is the address of the first branch. -/
def State.notInSlot (s : State) : R Unit :=
  match s.hart.slot with
  | none => .ok ()
  | some sl =>
    match sl.src with
    | some a => raise s 0x02 a 0
    | none =>
      match s.branchOfSlot with
      | .error e => .error e
      | .ok (s, a) => raise s 0x02 a 0

end Sys2Proof.Machine
end

