-- ==== Sys2Proof/Machine/Scalar.lean ====
section
/-! DEFINITION. Integer instructions, immediates and CADD (10 R218 to R223). -/

namespace Sys2Proof.Machine

/-! ## Shared forms -/

/-- The outcome type of a meaning. -/
abbrev Out := Host.Outcome State Fault Refusal

/-- A two-address form of class ALU (10 R219): c[A] := f(c[A], c[B]). -/
def compact2 (maj : Nat) (f : Word → Word → Word) (n : Fin 4) (a b : CReg) (s : State) : Out :=
  complete do
    s.readyC [a, b]
    .ok ((s.setX a (f (s.ra a) (s.ra b))).retire { s := n, maj := maj })

/-- A three-address form of class ALU (10 R220): c[A] := f(c[B], c[C]). -/
def alu3 (maj : Nat) (f : Word → Word → Word) (n : Fin 4) (a b c : CReg) (s : State) : Out :=
  complete do
    s.readyC [b, c]
    .ok ((s.setX a (f (s.ra b) (s.ra c))).retire { s := n, maj := maj })

/-- A unary form of class ALU. -/
def alu2 (maj : Nat) (f : Word → Word) (n : Fin 4) (a b : CReg) (s : State) : Out :=
  complete do
    s.readyC [b]
    .ok ((s.setX a (f (s.ra b))).retire { s := n, maj := maj })

/-- A three-address form of class Multiply, latency 3 (09 R199). -/
def mul3 (maj : Nat) (f : Word → Word → Word) (n : Fin 4) (a b c : CReg) (s : State) : Out :=
  complete do
    s.readyC [b, c]
    .ok ((s.onHart (·.setCFix a (untagged (f (s.ra b) (s.ra c))) 3 maj)).retire { s := n, maj := maj })

/-- 1 or 0 as a word. -/
def bool1 (b : Bool) : Word := if b then 1 else 0

/-- The shift amount y mod 64. -/
def sh64 (y : Word) : Nat := y.toNat % 64

/-- Bits [127:64] of a product of integers. -/
def hi64 (p : Int) : Word := BitVec.ofInt 64 (p / 2 ^ 64)

/-- Divide (10 R221): quotient and remainder. -/
def divide (x y : Word) (signed : Bool) : Word × Word :=
  let a : Int := if signed then x.toInt else x.toNat
  let b : Int := if signed then y.toInt else y.toNat
  if b = 0 then (BitVec.allOnes 64, x)
  else
    let q := a.tdiv b
    (BitVec.ofInt 64 q, BitVec.ofInt 64 (a - b * q))

/-- Leading zero bits. -/
def clz64 (x : Word) : Nat := if x = 0 then 64 else 63 - log2Below 64 x.toNat

/-- Trailing zero bits. -/
def ctz64 (x : Word) : Nat := ((List.range 64).find? (x.getLsbD ·)).getD 64

/-- One bits. -/
def popc64 (x : Word) : Nat := ((List.range 64).filter (x.getLsbD ·)).length

/-- The eight bytes in reverse. -/
def bswap64 (x : Word) : Word := w64 (joinBytes (splitBytes 8 x.toNat).reverse)

/-! ## Compact forms (10 R219) -/

/-- R219: c[A] := x + y. -/
def execAddCompact (n : Fin 4) (a b : CReg) (s : State) : Out :=
  compact2 0x00 (· + ·) n a b s

/-- R219: c[A] := x - y. -/
def execSubCompact (n : Fin 4) (a b : CReg) (s : State) : Out :=
  compact2 0x01 (· - ·) n a b s

/-- R219: c[A] := x AND y. -/
def execAndCompact (n : Fin 4) (a b : CReg) (s : State) : Out :=
  compact2 0x02 (· &&& ·) n a b s

/-- R219: c[A] := x OR y. -/
def execOrCompact (n : Fin 4) (a b : CReg) (s : State) : Out :=
  compact2 0x03 (· ||| ·) n a b s

/-- R219: c[A] := x XOR y. -/
def execXorCompact (n : Fin 4) (a b : CReg) (s : State) : Out :=
  compact2 0x04 (· ^^^ ·) n a b s

/-- R219: c[A] := the value of c[B], untagged. -/
def execMov (n : Fin 4) (a b : CReg) (s : State) : Out :=
  alu2 0x05 id n a b s

/-- R219: the low 64 bits of the product, class Multiply. -/
def execMulCompact (n : Fin 4) (a b : CReg) (s : State) : Out :=
  mul3 0x06 (· * ·) n a a b s

/-- R219: x << (y mod 64). -/
def execShlCompact (n : Fin 4) (a b : CReg) (s : State) : Out :=
  compact2 0x07 (fun x y => x <<< sh64 y) n a b s

/-! ## Three-address forms (10 R220) -/

/-- R220: ADD. -/
def execAdd (n : Fin 4) (a b c : CReg) (s : State) : Out :=
  alu3 0x08 (· + ·) n a b c s

/-- R220: SUB. -/
def execSub (n : Fin 4) (a b c : CReg) (s : State) : Out :=
  alu3 0x08 (· - ·) n a b c s

/-- R220: AND. -/
def execAnd (n : Fin 4) (a b c : CReg) (s : State) : Out :=
  alu3 0x08 (· &&& ·) n a b c s

/-- R220: OR. -/
def execOr (n : Fin 4) (a b c : CReg) (s : State) : Out :=
  alu3 0x08 (· ||| ·) n a b c s

/-- R220: XOR. -/
def execXor (n : Fin 4) (a b c : CReg) (s : State) : Out :=
  alu3 0x08 (· ^^^ ·) n a b c s

/-- R220: ANDN. -/
def execAndn (n : Fin 4) (a b c : CReg) (s : State) : Out :=
  alu3 0x08 (fun x y => x &&& ~~~y) n a b c s

/-- R220: SHL. -/
def execShl (n : Fin 4) (a b c : CReg) (s : State) : Out :=
  alu3 0x09 (fun x y => x <<< sh64 y) n a b c s

/-- R220: SHR. -/
def execShr (n : Fin 4) (a b c : CReg) (s : State) : Out :=
  alu3 0x09 (fun x y => x >>> sh64 y) n a b c s

/-- R220: SAR. -/
def execSar (n : Fin 4) (a b c : CReg) (s : State) : Out :=
  alu3 0x09 (fun x y => x.sshiftRight (sh64 y)) n a b c s

/-- R220: ROR. -/
def execRor (n : Fin 4) (a b c : CReg) (s : State) : Out :=
  alu3 0x09 (fun x y => x.rotateRight (sh64 y)) n a b c s

/-- R220: MUL, class Multiply. -/
def execMul (n : Fin 4) (a b c : CReg) (s : State) : Out :=
  mul3 0x0A (· * ·) n a b c s

/-- R220: MULH, class Multiply. -/
def execMulh (n : Fin 4) (a b c : CReg) (s : State) : Out :=
  mul3 0x0A (fun x y => hi64 (x.toInt * y.toInt)) n a b c s

/-- R220: MULHU, class Multiply. -/
def execMulhu (n : Fin 4) (a b c : CReg) (s : State) : Out :=
  mul3 0x0A (fun x y => hi64 ((x.toNat * y.toNat : Nat) : Int)) n a b c s

/-- R220: MULHSU, class Multiply. -/
def execMulhsu (n : Fin 4) (a b c : CReg) (s : State) : Out :=
  mul3 0x0A (fun x y => hi64 (x.toInt * (y.toNat : Int))) n a b c s

/-- R221: DIV, interlocked. -/
def execDiv (n : Fin 4) (a b c : CReg) (s : State) : Out :=
  alu3 0x0B (fun x y => (divide x y true).1) n a b c s

/-- R221: DIVU, interlocked. -/
def execDivu (n : Fin 4) (a b c : CReg) (s : State) : Out :=
  alu3 0x0B (fun x y => (divide x y false).1) n a b c s

/-- R221: REM, interlocked. -/
def execRem (n : Fin 4) (a b c : CReg) (s : State) : Out :=
  alu3 0x0B (fun x y => (divide x y true).2) n a b c s

/-- R221: REMU, interlocked. -/
def execRemu (n : Fin 4) (a b c : CReg) (s : State) : Out :=
  alu3 0x0B (fun x y => (divide x y false).2) n a b c s

/-- R220: MIN. -/
def execMin (n : Fin 4) (a b c : CReg) (s : State) : Out :=
  alu3 0x0C (fun x y => if x.sle y then x else y) n a b c s

/-- R220: MAX. -/
def execMax (n : Fin 4) (a b c : CReg) (s : State) : Out :=
  alu3 0x0C (fun x y => if y.sle x then x else y) n a b c s

/-- R220: MINU. -/
def execMinu (n : Fin 4) (a b c : CReg) (s : State) : Out :=
  alu3 0x0C (fun x y => if x ≤ y then x else y) n a b c s

/-- R220: MAXU. -/
def execMaxu (n : Fin 4) (a b c : CReg) (s : State) : Out :=
  alu3 0x0C (fun x y => if y ≤ x then x else y) n a b c s

/-- R220: SEQ. -/
def execSeq (n : Fin 4) (a b c : CReg) (s : State) : Out :=
  alu3 0x0D (fun x y => bool1 (x == y)) n a b c s

/-- R220: SNE. -/
def execSne (n : Fin 4) (a b c : CReg) (s : State) : Out :=
  alu3 0x0D (fun x y => bool1 (x != y)) n a b c s

/-- R220: SLT. -/
def execSlt (n : Fin 4) (a b c : CReg) (s : State) : Out :=
  alu3 0x0D (fun x y => bool1 (x.slt y)) n a b c s

/-- R220: SLTU. -/
def execSltu (n : Fin 4) (a b c : CReg) (s : State) : Out :=
  alu3 0x0D (fun x y => bool1 (x.ult y)) n a b c s

/-- SELNZ and SELZ read c[A] as a third source and write it untagged (10 R220). -/
def sel3 (keep : Word → Bool) (n : Fin 4) (a b c : CReg) (s : State) : Out :=
  complete do
    s.readyC [b, c, a]
    .ok ((s.setX a (if keep (s.ra c) then s.ra a else s.ra b)).retire { s := n, maj := 0x0E })

/-- R220: y ≠ 0 ? x : c[A].ADDR. -/
def execSelnz (n : Fin 4) (a b c : CReg) (s : State) : Out :=
  sel3 (fun y => y == 0) n a b c s

/-- R220: y = 0 ? x : c[A].ADDR. -/
def execSelz (n : Fin 4) (a b c : CReg) (s : State) : Out :=
  sel3 (fun y => y != 0) n a b c s

/-- R220: CLZ. -/
def execClz (n : Fin 4) (a b : CReg) (s : State) : Out :=
  alu2 0x0F (fun x => w64 (clz64 x)) n a b s

/-- R220: CTZ. -/
def execCtz (n : Fin 4) (a b : CReg) (s : State) : Out :=
  alu2 0x0F (fun x => w64 (ctz64 x)) n a b s

/-- R220: POPC. -/
def execPopc (n : Fin 4) (a b : CReg) (s : State) : Out :=
  alu2 0x0F (fun x => w64 (popc64 x)) n a b s

/-- R220: BSWAP. -/
def execBswap (n : Fin 4) (a b : CReg) (s : State) : Out :=
  alu2 0x0F bswap64 n a b s

/-! ## Immediates (10 R222) -/

/-- Load an immediate. -/
def loadImm (maj : Nat) (x : Word) (n : Fin 4) (a : CReg) (s : State) : Out :=
  .next ((s.setX a x).retire { s := n, maj := maj })

/-- R222: the 16-bit immediate, sign-extended. -/
def execLi16 (n : Fin 4) (a : CReg) (imm : BitVec 16) (s : State) : Out :=
  loadImm 0x10 (imm.signExtend 64) n a s

/-- R222: the 32-bit immediate, sign-extended. -/
def execLi32 (n : Fin 4) (a : CReg) (imm : BitVec 32) (s : State) : Out :=
  loadImm 0x11 (imm.signExtend 64) n a s

/-- R222: the 64-bit immediate, sign-extended. -/
def execLi64 (n : Fin 4) (a : CReg) (imm : BitVec 64) (s : State) : Out :=
  loadImm 0x12 imm n a s

/-- R222: c[B].ADDR plus the 16-bit immediate. -/
def execAddi16 (n : Fin 4) (a b : CReg) (imm : BitVec 16) (s : State) : Out :=
  alu2 0x13 (· + imm.signExtend 64) n a b s

/-- R222: c[B].ADDR plus the 32-bit immediate. -/
def execAddi32 (n : Fin 4) (a b : CReg) (imm : BitVec 32) (s : State) : Out :=
  alu2 0x14 (· + imm.signExtend 64) n a b s

/-! ## CADD (10 R223) -/

/-- CADD on a source: the result, or none for a sealed, tagged source, which traps. -/
def cadd (c : Cap) (off : Word) : Option Cap :=
  let na := c.addr + off
  if !c.tag then some (untagged na)
  else if c.seal then none
  else if c.malformed || !canonical na || !c.representable na then some (untagged na)
  else some { c with addr := na }

/-- CADD after its sources are ready. -/
def caddTo (maj : Nat) (n : Fin 4) (a b : CReg) (off : Word) (s : State) : R State :=
  match cadd (s.rc b) off with
  | some c => .ok ((s.setC a c).retire { s := n, maj := maj })
  | none => raise s 0x13 (s.ra b) (einfo 0 s.user b.val 0 0 0)

/-- R223: the register form. -/
def execCaddReg (n : Fin 4) (a b c : CReg) (s : State) : Out :=
  complete do
    s.readyC [b, c]
    caddTo 0x15 n a b (s.ra c) s

/-- R223: the 16-bit form. -/
def execCadd16 (n : Fin 4) (a b : CReg) (imm : BitVec 16) (s : State) : Out :=
  complete do
    s.readyC [b]
    caddTo 0x16 n a b (imm.signExtend 64) s

/-- R223: the 32-bit form. -/
def execCadd32 (n : Fin 4) (a b : CReg) (imm : BitVec 32) (s : State) : Out :=
  complete do
    s.readyC [b]
    caddTo 0x17 n a b (imm.signExtend 64) s

end Sys2Proof.Machine
end

