-- ==== Sys2Proof/Machine/CapOps.lean ====
section
/-! DEFINITION. Capability operations (10 R224 to R229), all of class ALU. -/

namespace Sys2Proof.Machine

/-- EINFO of the capability operations (10 R228): KIND 0, SIZE 0. -/
def State.capInfo (s : State) (b : CReg) (reason : Nat) : Word := einfo 0 s.user b.val reason 0 0

/-- CapSource (10 R228): steps 1 to 3; COPEN accepts a sealed source. -/
def State.capSource (s : State) (b : CReg) (sealedOk : Bool) : R Unit :=
  let c := s.rc b
  if !c.tag then raise s 0x10 c.addr (s.capInfo b 0)
  else if c.seal && !sealedOk then raise s 0x13 c.addr (s.capInfo b 0)
  else if c.malformed then raise s 0x11 c.addr (s.capInfo b 3)
  else .ok ()

/-- A capability with its metadata fields replaced. -/
def Cap.withMd (c : Cap) (t b e blog fmt perm : Nat) : Cap := { c with md := mkMd t b e blog fmt perm }

/-- The smallest exponent from e up whose granules hold [base, top) in one mantissa, or 35 (10 R225). -/
def narrowExp (base top : Nat) : Nat → Nat → Nat
  | 0, _ => 35
  | n + 1, e => if roundUp top (2 ^ e) - roundDown base (2 ^ e) ≤ 0xFFFFF * 2 ^ e then e else narrowExp base top n (e + 1)

/-- CNARROW (10 R225): the result, or the cause and reason. -/
def narrow (c : Cap) (len : Nat) (exact : Bool) : Except Nat Cap :=
  let base := a55 c.addr
  let top := base + len
  if !canonical c.addr then .error 2
  else if 0x80000000000000 < top then .error 1
  else
    let e := narrowExp base top 35 0
    let b' := roundDown base (2 ^ e)
    let t' := roundUp top (2 ^ e)
    match c.bounds? with
    | none => .error 3
    | some (ob, ot) =>
      if b' < ob then .error 0
      else if ot < t' then .error 1
      else if exact && (b' != base || t' != top) then .error 4
      else .ok (c.withMd (t' / 2 ^ e % 0x100000) (b' / 2 ^ e % 0x100000) e c.blog c.fmt c.perm)

/-- CNARROW and CNARROW.X. -/
def narrowTo (exact : Bool) (n : Fin 4) (a b c : CReg) (s : State) : Out :=
  complete do
    s.readyC [b, c]
    s.capSource b false
    match narrow (s.rc b) (s.ra c).toNat exact with
    | .ok x => .ok ((s.setC a x).retire { s := n, maj := 0x28 })
    | .error r => raise s 0x11 (s.ra b) (s.capInfo b r)

/-- R225: CNARROW rounds outward. -/
def execCnarrow (n : Fin 4) (a b c : CReg) (s : State) : Out := narrowTo false n a b c s

/-- R225: CNARROW.X traps when rounding would be needed. -/
def execCnarrowX (n : Fin 4) (a b c : CReg) (s : State) : Out := narrowTo true n a b c s

/-- R226: CDROP removes the permissions of the mask. -/
def execCdrop (n : Fin 4) (a b c : CReg) (s : State) : Out :=
  complete do
    s.readyC [b, c]
    s.capSource b false
    let x := s.rc b
    .ok ((s.setC a { x with md := x.md &&& ~~~(s.ra c &&& 0xFF) }).retire { s := n, maj := 0x29 })

/-- R226: CFMT sets FMT and BLOG; an undefined FMT traps with FORMAT, EINFO as R228 says. -/
def execCfmt (n : Fin 4) (a b : CReg) (blog : Fin 8) (fmt : Fin 32) (s : State) : Out :=
  complete do
    s.readyC [b]
    s.capSource b false
    guardTrap (fmtDefined fmt.val) s 0x26 (w64 fmt.val) (s.capInfo b 0)
    let x := s.rc b
    .ok ((s.setC a (x.withMd x.t x.b x.e blog.val fmt.val x.perm)).retire { s := n, maj := 0x2A })

/-- CREAD (10 R227): field `func` of a capability. -/
def cread (func : Nat) (c : Cap) : Word :=
  if !c.tag then 0
  else
    match func with
    | 0 => (c.bounds?.map fun p => w64 p.1).getD (BitVec.allOnes 64)
    | 1 => (c.bounds?.map fun p => w64 p.2).getD (BitVec.allOnes 64)
    | 2 => (c.bounds?.map fun p => w64 (p.2 - p.1)).getD (BitVec.allOnes 64)
    | 3 => w64 c.perm
    | 4 => w64 c.fmt
    | 5 => w64 c.blog
    | 6 => 1
    | 7 => bool1 c.seal
    | _ => c.md

/-- CREAD of one field. -/
def creadTo (func : Nat) (n : Fin 4) (a b : CReg) (s : State) : Out :=
  complete do
    s.readyC [b]
    .ok ((s.setX a (cread func (s.rc b))).retire { s := n, maj := 0x2B })

/-- R227: the base. -/
def execCreadBase (n : Fin 4) (a b : CReg) (s : State) : Out := creadTo 0 n a b s
/-- R227: the top. -/
def execCreadTop (n : Fin 4) (a b : CReg) (s : State) : Out := creadTo 1 n a b s
/-- R227: the length. -/
def execCreadLen (n : Fin 4) (a b : CReg) (s : State) : Out := creadTo 2 n a b s
/-- R227: PERM. -/
def execCreadPerm (n : Fin 4) (a b : CReg) (s : State) : Out := creadTo 3 n a b s
/-- R227: FMT. -/
def execCreadFmt (n : Fin 4) (a b : CReg) (s : State) : Out := creadTo 4 n a b s
/-- R227: BLOG. -/
def execCreadBlog (n : Fin 4) (a b : CReg) (s : State) : Out := creadTo 5 n a b s
/-- R227: the tag. -/
def execCreadTag (n : Fin 4) (a b : CReg) (s : State) : Out := creadTo 6 n a b s
/-- R227: SEAL. -/
def execCreadShut (n : Fin 4) (a b : CReg) (s : State) : Out := creadTo 7 n a b s
/-- R227: bits [127:64]. -/
def execCreadMeta (n : Fin 4) (a b : CReg) (s : State) : Out := creadTo 8 n a b s

/-- R226: CSHUT sets SEAL. -/
def execCshut (n : Fin 4) (a b : CReg) (s : State) : Out :=
  complete do
    s.readyC [b]
    s.capSource b false
    let x := s.rc b
    .ok ((s.setC a { x with md := x.md ||| 0x80 }).retire { s := n, maj := 0x2C })

/-- R226: COPEN clears SEAL at level K or F. -/
def execCopen (n : Fin 4) (a b : CReg) (s : State) : Out :=
  complete do
    s.needLevel (.copen n a b) .k
    s.readyC [b]
    s.capSource b true
    let x := s.rc b
    .ok ((s.setC a { x with md := x.md &&& ~~~0x80#64 }).retire { s := n, maj := 0x2C })

/-- The context root capability at an address (01 R27). -/
def rootCap (addr : Word) : Cap := { tag := true, md := mkMd 0 0 35 0 0 0x7F, addr := addr }

/-- R229: CMINT needs level K or F. -/
def execCmint (n : Fin 4) (a b : CReg) (s : State) : Out :=
  complete do
    s.needLevel (.cmint n a b) .k
    s.readyC [b]
    .ok ((s.setC a (rootCap (s.ra b))).retire { s := n, maj := 0x2D })

/-- R229: CCLONE copies all 128 bits and the tag. -/
def execCclone (n : Fin 4) (a b : CReg) (s : State) : Out :=
  complete do
    s.readyC [b]
    .ok ((s.setC a (s.rc b)).retire { s := n, maj := 0x2E })

/-- CWITHIN (10 R229). -/
def within (b c : Cap) : Bool :=
  match b.bounds?, c.bounds? with
  | some (bb, bt), some (cb, ct) =>
    b.tag && c.tag && !b.seal && !c.seal && decide (bb ≤ cb) && decide (ct ≤ bt) && (c.perm &&& b.perm) == c.perm
  | _, _ => false

/-- R229: CWITHIN. -/
def execCwithin (n : Fin 4) (a b c : CReg) (s : State) : Out :=
  complete do
    s.readyC [b, c]
    .ok ((s.setX a (bool1 (within (s.rc b) (s.rc c)))).retire { s := n, maj := 0x2F })

end Sys2Proof.Machine
end

