-- ==== Sys2Proof/Machine/Pairing.lean ====
section
/-! DEFINITION. Intervals of a paired stream (14 R347, 16 R393 to R395). -/

namespace Sys2Proof.Machine

/-- The fingerprint of what an interval noted (16 R394). -/
def fingerprint (l : List Word) : BitVec 32 := ~~~(l.foldl crcWord 0xFFFFFFFF#32)

/-- The interval has begun: something retired, was noted or is held. -/
def Pair.begun (p : Pair) : Bool := p.count != 0 || !p.notes.isEmpty || !p.held.isEmpty || !p.acts.isEmpty

/-- Close the interval before going on: the hart waits for the exchange. In a delay slot the interval ends after the slot
(16 R393). -/
def State.pairGate (s : State) : R State :=
  if s.hart.pair.on && s.hart.pair.begun then
    let s := s.onHart fun h => { h with pair := { h.pair with due := true } }
    if s.hart.slot.isSome then .ok s else .error (.wait false 0x10 s)
  else .ok s

/-- What an instruction of a paired stream does outside the hart enters the held buffer (14 R347), and the fingerprint notes its address,
its data and its size (16 R393, R394). -/
def State.holdAct (s : State) (a : HeldAct) (va : Word) (data : List Byte) : State :=
  let v := joinBytes data
  s.onHart fun h => { h with pair := { h.pair with
    acts := h.pair.acts ++ [(h.pair.held.length, a)]
    notes := h.pair.notes ++ [va] ++ (List.range (ceilDiv data.length 8)).map (fun i => w64 (v / 2 ^ (64 * i))) ++ [w64 data.length]
    due := h.pair.due || decide (512 ≤ h.pair.held.length + h.pair.acts.length + 1) } }

/-- Something that an instruction does outside the hart: in a paired stream it is held until the interval matches (14 R347). -/
def State.orHold (s : State) (a : HeldAct) (va : Word) (data : List Byte) (now : State → R State) : R State :=
  if s.hart.pair.on then .ok (s.holdAct a va data) else now s

/-- The same where the instruction has a result: it waits until the entry is performed, which closes the interval; in a delay slot the
interval ends after the slot (16 R393), and it is performed at once (log 22). -/
def State.orHoldFor (s : State) (a : HeldAct) (va : Word) (data : List Byte) (now : State → R (State × Nat)) : R (State × Nat) :=
  if !s.hart.pair.on || s.hart.slot.isSome then now s
  else
    match s.hart.pair.got with
    | some n => .ok (s.onHart fun h => { h with pair := { h.pair with got := none } }, n)
    | none =>
      let t := if s.hart.pair.due then s else s.holdAct a va data
      .error (.wait false 0x10 (t.onHart fun h => { h with pair := { h.pair with due := true } }))

/-- An interval begins at the present state: it is the checkpoint (16 R393). -/
def State.checkpoint (s : State) : State :=
  let s := s.onHart fun h => { h with pair := { h.pair with notes := [], held := [], acts := [], flushing := false, loads := [], count := 0, due := false } }
  s.onMod fun m => { m with checkpoint := tset m.checkpoint s.cur s.hart }

/-- After an instruction performed once, in a paired stream, the next interval begins. -/
def State.pairOnce (s : State) : State := if s.hart.pair.on && !s.hart.pair.due then s.checkpoint else s

/-- The checkpoint's registers, control registers and PC in a hart whose buffers and clock go on (16 R393, R395); payloads that have come
meanwhile stay. -/
def Hart.reload (h o : Hart) : Hart :=
  { h with
    pc := o.pc, slot := o.slot, hc := o.hc, c := o.c, v := o.v, q := o.q, streams := o.streams, pend := o.pend, lvl := o.lvl
    kb := o.kb, fb := o.fb, shadow := o.shadow, perf := o.perf, poison := o.poison, ctl := o.ctl, id := o.id, rep := o.rep
    sync := { o.sync with rx := h.sync.rx, blk := h.sync.blk, given := h.sync.given, domres := h.sync.domres }
    pair := { h.pair with notes := [], held := [], acts := [], flushing := false, got := none, off := false, loads := [], count := 0, due := false } }

/-- A mismatch is logged in the Tray's bank, and its Garnet counters count both cores (16 R395, R386). -/
def State.logMismatch (s : State) (second : Bool) : State :=
  s.logErr (trayOf s.cur) (if second then 2 else 0) 8 (s.cur % 8) 0 0 (if second then 0x42 else 0xFF) s.hart.pair.inject

/-- The other core of a pair counts too, and what its loads of the interval read is gone. -/
def State.mirror (s : State) : State :=
  let p := s.hart.pair
  s.modHart (s.cur ^^^ 1) fun h => { h with pair := { h.pair with mat := p.mat, mism := p.mism, run := p.run }, early := [], earlyTags := [] }

/-- The exchange (16 R394, R395) for the hart whose turn it is: 16 cycles pass. After a match the held entries are performed in order,
stores at once where nothing else is held. The core of a pair whose stream went wrong has a free fingerprint (log 22). -/
def State.exchange (s : State) : State :=
  let p := s.hart.pair
  let s := (s.onHart (·.spend 16)).charge 16
  if !p.inject && !p.differs then
    let s := s.onHart fun h => { h with waiting := false, pair := { h.pair with mat := min (p.mat + 1) 0xFFFFFFFF, run := 0, due := false } }
    if p.acts.isEmpty then (s.onHart fun h => { h with sb := h.sb ++ p.held }).checkpoint.mirror
    else s.onHart fun h => { h with pair := { h.pair with flushing := true } }
  else
    let even := fingerprint p.notes
    let s := s.logMismatch (p.run != 0)
    let o := tget s.hart s.m.checkpoint s.cur
    let s := s.onHart fun h => { h.reload o with waiting := false }
    let s := if s.miller then s else s.retarget (trayOf s.cur)
    let mism := min (p.mism + 1) 65535
    if p.run = 0 then (s.onHart fun h => { h with pair := { h.pair with run := 1, mism := mism, inject := false, differs := false } }).mirror
    else
      let odd := Config.freeFingerprint s.tick
      let s := { s with tick := s.tick + 1 }.onHart fun h => { h with pair := { h.pair with run := 0, mism := mism, inject := false, differs := false } }
      s.mirror.trap 0x42 (w64 (even.toNat * 2 ^ 32 + odd.toNat)) 0

/-- An exchange is due and the hart does not stand between a branch and its slot (16 R393). -/
def State.exchangeDue (s : State) : Bool := s.hart.pair.on && s.hart.pair.due && !s.hart.pair.flushing && s.hart.slot.isNone

end Sys2Proof.Machine
end

