-- ==== Sys2Proof/Machine/Memory.lean ====
section
/-! DEFINITION. Loads, stores, atomics and fences (10 R230 to R238; 04 R88 to R97, R103). A load is performed
in program order, but for bytes that a turn of the agenda has fixed before it (04 R92; log 10); an LD.ACQ ends what
is fixed so (04 R94). -/

namespace Sys2Proof.Machine

/-- Load, with or without the hint. -/
def loadForm (far acq : Bool) (maj : Nat) (n : Fin 4) (a b : CReg) (sz : Fin 8) (off : BitVec 12) (s : State) : Out :=
  complete do
    s.readyC [b]
    let (s, v, ev) ← s.load b sz.val off far acq
    .ok ((s.setC a v).retire { s := n, maj := maj, ev := 0x03 :: ev })

/-- Store, with or without the hint. -/
def storeForm (far : Bool) (maj : Nat) (n : Fin 4) (a b : CReg) (ord : Bool) (sz : Fin 8) (off : BitVec 12) (s : State) : Out :=
  complete do
    s.readyC [b, a]
    let s ← s.store a b ord sz.val off far
    .ok (s.retire { s := n, maj := maj, ev := [0x04] })

/-- R231: a load; ORD makes it LD.ACQ. -/
def execLd (n : Fin 4) (a b : CReg) (ord : Bool) (sz : Fin 8) (off : BitVec 12) (s : State) : Out := loadForm false ord 0x18 n a b sz off s

/-- R232: a store; ORD makes it ST.REL. -/
def execSt (n : Fin 4) (a b : CReg) (ord : Bool) (sz : Fin 8) (off : BitVec 12) (s : State) : Out := storeForm false 0x19 n a b ord sz off s

/-- R233: a load with the remote hint. -/
def execLdFar (n : Fin 4) (a b : CReg) (ord : Bool) (sz : Fin 8) (off : BitVec 12) (s : State) : Out := loadForm true ord 0x1A n a b sz off s

/-- R233: a store with the remote hint. -/
def execStFar (n : Fin 4) (a b : CReg) (ord : Bool) (sz : Fin 8) (off : BitVec 12) (s : State) : Out := storeForm true 0x1B n a b ord sz off s

/-- An AMO (10 R236), performed once in a paired stream. -/
def amo (code : Nat) (n : Fin 4) (a b : CReg) (w : Bool) (c : CReg) (s : State) : Out :=
  complete do
    s.readyC [b, c]
    let s ← s.pairGate
    let (s, old, ev) ← s.atomic b w fun old => some (amoNew code (if w then 8 else 4) old (s.ra c).toNat)
    .ok (((s.setX a (w64 old)).retire { s := n, maj := 0x1C, ev := 0x05 :: ev }).pairOnce)

/-- R236: atomic adds. -/
def execAmoAdd (n : Fin 4) (a b : CReg) (w : Bool) (c : CReg) (s : State) : Out := amo 0 n a b w c s

/-- R236: atomic bitwise AND. -/
def execAmoAnd (n : Fin 4) (a b : CReg) (w : Bool) (c : CReg) (s : State) : Out := amo 1 n a b w c s

/-- R236: atomic bitwise OR. -/
def execAmoOr (n : Fin 4) (a b : CReg) (w : Bool) (c : CReg) (s : State) : Out := amo 2 n a b w c s

/-- R236: atomic bitwise XOR. -/
def execAmoXor (n : Fin 4) (a b : CReg) (w : Bool) (c : CReg) (s : State) : Out := amo 3 n a b w c s

/-- R236: atomic signed minimum. -/
def execAmoSmin (n : Fin 4) (a b : CReg) (w : Bool) (c : CReg) (s : State) : Out := amo 4 n a b w c s

/-- R236: atomic signed maximum. -/
def execAmoSmax (n : Fin 4) (a b : CReg) (w : Bool) (c : CReg) (s : State) : Out := amo 5 n a b w c s

/-- R236: atomic unsigned minimum. -/
def execAmoUmin (n : Fin 4) (a b : CReg) (w : Bool) (c : CReg) (s : State) : Out := amo 6 n a b w c s

/-- R236: atomic unsigned maximum. -/
def execAmoUmax (n : Fin 4) (a b : CReg) (w : Bool) (c : CReg) (s : State) : Out := amo 7 n a b w c s

/-- R236: atomic swap. -/
def execAmoSwap (n : Fin 4) (a b : CReg) (w : Bool) (c : CReg) (s : State) : Out := amo 8 n a b w c s

/-- R236: atomic CI16 add per component (02 R54). -/
def execAmoCadd (n : Fin 4) (a b : CReg) (w : Bool) (c : CReg) (s : State) : Out := amo 9 n a b w c s

/-- R236: atomic BF16 add per lane (02 R54). -/
def execAmoBadd (n : Fin 4) (a b : CReg) (w : Bool) (c : CReg) (s : State) : Out := amo 10 n a b w c s

/-- R236: CAS returns the old value and stores c[C] where it equals c[A]. -/
def execCas (n : Fin 4) (a b : CReg) (w : Bool) (c : CReg) (s : State) : Out :=
  complete do
    s.readyC [b, c, a]
    let s ← s.pairGate
    let m := 2 ^ (if w then 64 else 32)
    let (s, old, ev) ← s.atomic b w fun old => if old = (s.ra a).toNat % m then some ((s.ra c).toNat % m) else none
    .ok (((s.setX a (w64 old)).retire { s := n, maj := 0x1D, ev := 0x05 :: ev }).pairOnce)

/-- The earlier stores that a scope covers, and the engine issues, are performed (04 R97, R93). -/
def Hart.fenced (h : Hart) (scope : Nat) : Bool :=
  h.issued && (h.sb ++ h.posted).all (fun e => decide (max 1 scope < e.scope))

/-- R97, R237: FENCE waits for the earlier stores and engine issues where SL or SS is set. Loads are performed already; where neither LL nor
SL is set, what is fixed for later ones stands. -/
def execFence (n : Fin 4) (mask : Fin 16) (scope : Fin 4) (s : State) : Out :=
  complete do
    let stores := mask.val % 4 != 0
    let s ← if stores && !s.hart.pair.held.isEmpty then s.pairGate else .ok s
    guardWait (!stores || s.hart.fenced scope.val) false s
    let t := s.retire { s := n, maj := 0x1E }
    .ok (if mask.val / 8 = 1 ∨ mask.val / 2 % 2 = 1 then t else t.onHart fun h => { h with early := s.hart.early, earlyTags := s.hart.earlyTags })

/-- An engine operation has reached its final state. -/
def EngOp.final (o : EngOp) : Bool := o.aborted || o.dels.all (·.final)

/-- Every engine operation that the hart issued is final (04 R103): nothing in its copy queue, no copy and no write stream of its
own in flight, no matrix command. What a saved gang left on a core is not its next hart's (15 R365). A read stream is not waited for (log 12). -/
def State.enginesDone (s : State) : Bool :=
  s.hart.cpq.isEmpty && s.hart.mx.queue.isEmpty
    && s.m.ops.all (fun o => o.2.cmd.hart != s.cur || o.2.cmd.gang != s.hart.gang || (o.2.stream && !o.2.write) || o.2.final)

/-- R103: FENCE.E waits until the engine operations of the hart are final; a flush point of the Kneader. -/
def execFenceE (n : Fin 4) (s : State) : Out :=
  complete do
    let s := s.flushWindow s.cur
    guardWait s.enginesDone false s
    .ok (s.retire { s := n, maj := 0x1E })

/-- Discard the fetched lines and the fetch micro-TLB entries. -/
def Hart.forgetFetch (h : Hart) : Hart := { h with lines := [], utlb := [] }

/-- R238: FENCE.I waits for the store buffer and discards what fetch keeps. -/
def execFenceI (n : Fin 4) (s : State) : Out :=
  complete do
    let s ← if !s.hart.pair.held.isEmpty then s.pairGate else .ok s
    guardWait s.hart.sb.isEmpty false s
    .ok ((s.onHart (·.forgetFetch)).retire { s := n, maj := 0x1E })

end Sys2Proof.Machine
end

