-- ==== Sys2Proof/Machine/Branch.lean ====
section
/-! DEFINITION. Branches and jumps (09 R193, R203 to R207, R461; 10 R239 to R242). -/

namespace Sys2Proof.Machine

/-- The delay slot of the branch at the PC: for a branch at head HC, after its following line has been fetched and checked (R461).
The state and the PC that follows the slot. -/
def State.afterSlot (s : State) : R (State × Word) :=
  let pc := s.hart.pc
  if pc.toNat / 2 % 32 = s.hart.hc then
    match s.fetchNamed (s.hart.seqPc &&& ~~~(0x3F#64)) s.hart.seqPc 0 with
    | .error e => .error e
    | .ok (s, line) => .ok (s, nextPc s.hart.seqPc (lineHC line))
  else .ok (s, nextPc s.hart.seqPc s.hart.hc)

/-- Retire a branch: its slot is pending with the next PC that the branch decided (R203). `creg` authorised the target. -/
def State.branchTo (s : State) (taken : Bool) (target after : Word) (creg : Nat) (r : Ret) : State :=
  let pc := s.hart.pc
  let goal := if taken then target else after
  let s := s.retire { r with ev := if taken then [0x11] else [] }
  s.onHart fun h => (if taken then h.transfer target else h) |> fun h => { h with slot := some { target := goal, src := some pc, creg := if taken then creg else 0 } }

/-- A conditional branch (R239). -/
def condBranch (maj : Nat) (f : Word → Word → Bool) (n : Fin 4) (a b : CReg) (idx : Fin 32) (disp : BitVec 11) (s : State) : Out :=
  complete do
    s.notInSlot
    let (s, after) ← s.afterSlot
    s.readyC [a, b]
    .ok (s.branchTo (f (s.ra a) (s.ra b)) (branchTarget s.hart.pc (disp.signExtend 64) idx.val) after 0 { s := n, maj := maj })

/-- R239: beq. -/
def execBeq (n : Fin 4) (a b : CReg) (idx : Fin 32) (disp : BitVec 11) (s : State) : Out := condBranch 0x20 (· == ·) n a b idx disp s
/-- R239: bne. -/
def execBne (n : Fin 4) (a b : CReg) (idx : Fin 32) (disp : BitVec 11) (s : State) : Out := condBranch 0x21 (· != ·) n a b idx disp s
/-- R239: blt. -/
def execBlt (n : Fin 4) (a b : CReg) (idx : Fin 32) (disp : BitVec 11) (s : State) : Out := condBranch 0x22 (·.slt ·) n a b idx disp s
/-- R239: bge. -/
def execBge (n : Fin 4) (a b : CReg) (idx : Fin 32) (disp : BitVec 11) (s : State) : Out := condBranch 0x23 (fun x y => y.sle x) n a b idx disp s
/-- R239: bltu. -/
def execBltu (n : Fin 4) (a b : CReg) (idx : Fin 32) (disp : BitVec 11) (s : State) : Out := condBranch 0x24 (·.ult ·) n a b idx disp s
/-- R239: bgeu. -/
def execBgeu (n : Fin 4) (a b : CReg) (idx : Fin 32) (disp : BitVec 11) (s : State) : Out := condBranch 0x25 (fun x y => y.ule x) n a b idx disp s

/-- LinkCap (R240). -/
def linkCap (p : Word) : Cap :=
  let l := roundDown p.toNat 64
  { tag := true, md := mkMd ((l + 64) % 0x100000) (l % 0x100000) 0 0 0 0x04, addr := p }

/-- R240: JAL. -/
def execJal (n : Fin 4) (a : CReg) (disp : BitVec 27) (idx : Fin 32) (s : State) : Out :=
  complete do
    s.notInSlot
    let (s, after) ← s.afterSlot
    let pc := s.hart.pc
    .ok ((s.setC a (linkCap after)).branchTo true (branchTarget pc (disp.signExtend 64) idx.val) after 0 { s := n, maj := 0x26 })

/-- The checks of a jump target (R241), which a token target takes too (12 R289): KIND 5, SIZE 2. -/
def State.jumpCheck (s : State) (t : Cap) (creg : Nat) : R Unit :=
  let a := t.addr
  let info (r : Nat) : Word := einfo 5 s.user creg r 0 2
  if !t.tag then raise s 0x10 a (info 0)
  else if t.seal then raise s 0x13 a (info 0)
  else match t.bounds? with
    | none => raise s 0x11 a (info 3)
    | some (base, top) =>
      if !canonical a then raise s 0x11 a (info 2)
      else if !t.has 2 then raise s 0x12 a (info 2)
      else if a55 a < base then raise s 0x11 a (info 0)
      else if top < a55 a + 2 then raise s 0x11 a (info 1)
      else .ok ()

/-- R241: JR and JALR. -/
def execJr (n : Fin 4) (a b : CReg) (s : State) : Out :=
  complete do
    s.notInSlot
    let (s, after) ← s.afterSlot
    s.readyC [b]
    let t := s.rc b
    s.jumpCheck t b.val
    .ok ((s.setC a (linkCap after)).branchTo true t.addr after b.val { s := n, maj := 0x27 })

/-- HANDLE_STATE (12 R264). -/
def handleState {α : Type} (s : State) (reason : Nat) (val : Word) : R α := raise s 0x22 val (w64 (0x100 * reason))

/-- The oldest token leaves the token queue. -/
def Hart.popToken (h : Hart) : Hart := ({ h with mx := { h.mx with tokens := h.mx.tokens.drop 1 } }).popBad badTokens

/-- R242: BR.TOK pops a token and continues at its PC after the slot; it waits at an implicit safe point while there is none, and
is a flush point of the Kneader. -/
def execBrTok (n : Fin 4) (q : QReg) (s : State) : Out :=
  complete do
    s.notInSlot
    let (s, after) ← s.afterSlot
    if s.hart.q[q] ≠ some .mxtok then handleState s 6 0
    let s := s.flushWindow s.cur
    let s ← s.pairGate
    match s.hart.mx.tokens with
    | [] => .error (.wait true 0x10 s)
    | t :: _ =>
      s.queueParity badTokens
      .ok (((s.onHart (·.popToken)).branchTo true t after 0 { s := n, maj := 0x27 }).pairOnce)

end Sys2Proof.Machine
end

