-- ==== Sys2Proof/Machine/Stream.lean ====
section
/-! DEFINITION. The iteration of an engine operation (05 R111) and bound stream registers as an instruction sees them
(05 R128). -/

namespace Sys2Proof.Machine

/-- The bytes of an iteration. -/
def Iter.total (it : Iter) : Nat := it.rowlen * it.cnt1 * it.cnt2

/-- The offset from the start, with the steps given, of iteration index k. -/
def Iter.at (it : Iter) (s1 s2 : Int) (k : Nat) : Int :=
  let row := k / max it.rowlen 1
  (row / max it.cnt1 1 : Nat) * s2 + (row % max it.cnt1 1 : Nat) * s1 + (k % max it.rowlen 1 : Nat)

/-- The source address of iteration index k. -/
def CopyCmd.srcAt (c : CopyCmd) (k : Nat) : Word := c.src + BitVec.ofInt 64 (c.it.at c.it.s1 c.it.s2 k)

/-- The strips of a stream. -/
def EngOp.stripCount (o : EngOp) : Nat := ceilDiv o.cmd.it.total 64

/-- Take strips that an instruction has popped, each named by its operation. -/
def State.popStrips (s : State) (pops : List Nat) : State :=
  pops.foldl (fun s n => s.onMod fun m =>
    match tget? m.ops n with
    | some o => { m with ops := tset m.ops n { o with strips := o.strips.drop 1 } }
    | none => m) s

/-- The Hearth of the L1 byte that an address names for a command (02 R67); 0 where it names none (log 58). -/
def CopyCmd.hearthOf (c : CopyCmd) (a : Word) : Nat :=
  if inSpan a then
    match window c.hart c.near a.toNat with
    | .ok (.l1 h _) => h
    | .ok (.near t ..) => t / 128
    | _ => 0
  else 0

/-- Read v-registers in operand order: a bound read stream gives its next strip, past its last strip zero; it waits for a strip
that is not yet there and traps with WATERMARK_FROZEN where the refill is frozen. The values, and the operations popped. -/
def State.vread (s : State) (pops : List Nat) : List VReg → R (List Vec × List Nat)
  | [] => .ok ([], pops)
  | r :: rest =>
    let plain : R (List Vec × List Nat) :=
      match s.vread pops rest with
      | .ok (l, p) => .ok (s.rv r :: l, p)
      | .error e => .error e
    match (tget? s.hart.streams r.val).bind fun b => if b.write then none else (tget? s.m.ops b.opn).map fun o => (b.opn, o) with
    | none => plain
    | some (n, o) =>
      match o.strips[(pops.filter (· == n)).length]? with
      | some x =>
        match s.vread (pops ++ [n]) rest with
        | .ok (l, p) => .ok (x :: l, p)
        | .error e => .error e
      | none =>
        if o.stripCount ≤ o.fetched then
          match s.vread pops rest with
          | .ok (l, p) => .ok (0 :: l, p)
          | .error e => .error e
        else if o.frozen then raise (s.popStrips pops) 0x21 (o.cmd.srcAt (64 * o.fetched)) (einfo67 6 s.user 0 0 64 false 0 (o.cmd.hearthOf (o.cmd.srcAt (64 * o.fetched))))
        else .error (.wait false 0x10 s)

/-- The v-registers among some that the scoreboard watches: not those whose reads pop a strip. -/
def State.watched (s : State) (l : List VReg) : List (Bool × Nat) :=
  (l.filter fun r => match tget? s.hart.streams r.val with | some b => b.write | none => true).map fun r => (true, r.val)

/-- The write stream that a v-register is bound to. -/
def State.writeStream (s : State) (r : VReg) : Option (Nat × EngOp) :=
  (tget? s.hart.streams r.val).bind fun b => if b.write then (tget? s.m.ops b.opn).map fun o => (b.opn, o) else none

/-- A write to a bound write stream waits while 4 strips are pending. -/
def State.canAppend (s : State) (r : VReg) : Bool :=
  match s.writeStream r with
  | some (_, o) => decide (o.strips.length < 4) || decide (o.stripCount ≤ o.appended)
  | none => true

/-- Append the strip that a write to a bound write stream gives; past the last one it is discarded. -/
def State.append (s : State) (r : VReg) (x : Vec) : State :=
  match s.writeStream r with
  | some (n, o) =>
    if o.stripCount ≤ o.appended then s
    else s.onMod fun m => { m with ops := tset m.ops n { o with strips := o.strips ++ [x], appended := o.appended + 1 } }
  | none => s

/-- Write a v-register with a result of latency `lat`; latency 1 stands for a result that is at once complete. -/
def State.setVec (s : State) (r : VReg) (x : Vec) (lat maj : Nat) : State :=
  (s.onHart fun h => if lat ≤ 1 then h.setV r x else h.setVFix r x lat maj).append r x

end Sys2Proof.Machine
end

