-- ==== Sys2Proof/Machine/MxLayout.lean ====
section
/-! DEFINITION. Formats, shapes and parts of matrix commands and the layout of their operands in their slots (12 R282 to R284, R288,
R291, R292; 06 R149). -/

namespace Sys2Proof.Machine

/-! ## Formats and shapes -/

/-- The operand group of a format (12 R282): 1 integers, 2 floats, 3 FP32, 4 CI16, 0 none. -/
def mxGroup (f : Nat) : Nat :=
  if [0x0B, 0x0C, 0x01, 0x05, 0x02, 0x06].contains f then 1
  else if [0x15, 0x16, 0x13, 0x14, 0x12, 0x11].contains f then 2
  else if f = 0x10 then 3 else if f = 0x09 then 4 else 0

/-- The C formats that a group accepts (12 R282). -/
def mxResults (g : Nat) : List Nat :=
  match g with
  | 1 => [0x03, 0x02, 0x01, 0x06, 0x05]
  | 2 => [0x10, 0x12, 0x11, 0x13, 0x14]
  | 3 => [0x10, 0x12, 0x11]
  | 4 => [0x0A, 0x09]
  | _ => []

/-- The first offending code of A, B, C. -/
def mxOffender (a b c : Nat) : Option Nat :=
  if mxGroup a = 0 then some a
  else if mxGroup b ≠ mxGroup a then some b
  else if (mxResults (mxGroup a)).contains c then none else some c

/-- The group size of a format (06 R149). -/
def mxGroupLen (f : Nat) : Nat :=
  if [0x15, 0x0B, 0x0C].contains f then 32 else if [0x13, 0x14, 0x16, 0x01, 0x05].contains f then 16 else if f = 0x10 then 1 else 8

/-- A blocked format. -/
def blocked (f : Nat) : Bool := f == 0x15 || f == 0x16

/-- Formats of MX.TRN (12 R291). -/
def trnFmt (f : Nat) : Bool := !blocked f && [8, 16, 32, 64].contains (fmtWidth f)

/-- Formats of MX.SCALE (12 R292). -/
def scaleFmt (f : Nat) : Bool := [0x10, 0x11, 0x12, 0x13, 0x14, 0x17, 0x01, 0x02, 0x03, 0x05, 0x06, 0x09, 0x0A].contains f

/-- Parts along M. -/
def MxCmd.nR (c : MxCmd) : Nat := if c.kind = .mma then ceilDiv c.m 64 else 1
/-- Parts along N. -/
def MxCmd.nC (c : MxCmd) : Nat := if c.kind = .mma then ceilDiv c.n 64 else 1
/-- Parts (12 R283). -/
def MxCmd.nT (c : MxCmd) : Nat := c.nR * c.nC

/-- The smallest power of two not below n, for n up to 64. -/
def pow2Above (n : Nat) : Nat := ((List.range 7).map (2 ^ ·)).find? (fun p => decide (n ≤ p)) |>.getD 64

/-- The first logical Tray of a cooperating set for a hart (12 R283). -/
def MxCmd.base (c : MxCmd) (lcore : Nat) : Nat := let p := pow2Above c.nT; lcore / 8 / p * p

/-- Rows of the destination. -/
def MxCmd.rows (c : MxCmd) : Nat := if c.kind = .trn then c.n else c.m
/-- Columns of the destination. -/
def MxCmd.cols (c : MxCmd) : Nat := if c.kind = .trn then c.m else c.n
/-- Its element width. -/
def MxCmd.wC (c : MxCmd) : Nat := fmtWidth c.cfmt
/-- Its row pitch (12 R284). -/
def MxCmd.pitch (c : MxCmd) : Nat := roundUp (c.cols * c.wC / 8) 64
/-- The length of its box. -/
def MxCmd.boxLen (c : MxCmd) : Nat := (c.rows - 1) * c.pitch + c.cols * c.wC / 8
/-- The destination is what c[A] names. -/
def MxCmd.toCap (c : MxCmd) : Bool := c.kind == .mma || c.kind == .scale || (c.kind == .trn && c.dh == 0x3FF)
/-- The command reads its destination. -/
def MxCmd.readsDest (c : MxCmd) : Bool := c.acc || c.kind == .scale

/-- Rows of part (p, q). -/
def MxCmd.pm (c : MxCmd) (p : Nat) : Nat := if c.kind = .mma then min 64 (c.m - 64 * p) else c.m
/-- Columns of part (p, q). -/
def MxCmd.pn (c : MxCmd) (q : Nat) : Nat := if c.kind = .mma then min 64 (c.n - 64 * q) else c.n
/-- The destination offset of a part's first element. -/
def MxCmd.partOff (c : MxCmd) (p q : Nat) : Nat := 64 * p * c.pitch + 64 * q * c.wC / 8

/-! ## Operands in their slots (12 R284) -/

/-- Bytes of a row of elements in a slot. -/
def opPitch (fmt cols : Nat) : Nat :=
  if blocked fmt then ceilDiv cols 1024 * groupBytes (fmt == 0x15) 2 else roundUp (ceilDiv (cols * fmtWidth fmt) 8) 64

/-- Rows and elements per row of operand A of part p, and of B of part q. -/
def MxCmd.shapeA (c : MxCmd) (p : Nat) : Nat × Nat := if c.kind = .trn then (c.m, c.n) else if c.ta then (c.k, c.pm p) else (c.pm p, c.k)
/-- Of operand B. -/
def MxCmd.shapeB (c : MxCmd) (q : Nat) : Nat × Nat := if c.tb then (c.pn q, c.k) else (c.k, c.pn q)
/-- Bytes an operand occupies in its slot. -/
def opSize (fmt : Nat) (shape : Nat × Nat) : Nat := shape.1 * opPitch fmt shape.2

/-- Offsets of the bytes of element (r, c) of an operand: for a blocked one its header, then its element. -/
def opBytes (fmt cols r c : Nat) : List Nat :=
  let row := r * opPitch fmt cols
  if blocked fmt then
    let e2 := fmt == 0x15
    let h := row + headerOff e2 2 (c / 32)
    [h, h + 1, row + elemsOff e2 2 (c / 32) + (if e2 then c % 32 / 2 else c % 32)]
  else if fmtWidth fmt = 4 then [row + c / 2]
  else keysFrom (row + c * fmtWidth fmt / 8) (fmtWidth fmt / 8)

/-! ## Skip lists (12 R288) -/

/-- The segments of a skip-list strip (12 R288): for each of `segs` segments whether it is present, or the REASON of SKIPLIST. -/
def skipSegs (strip : Vec) (segs : Nat) : Except Nat (List Bool) :=
  (List.range 32).foldl (fun a i =>
    match a with
    | .error e => .error e
    | .ok l =>
      if segs ≤ l.length then .ok l
      else
        let e := strip.toNat / 2 ^ (16 * i) % 65536
        let len := e % 32768
        if len = 0 then .error 1
        else if segs < l.length + len then .error 0
        else .ok (l ++ List.replicate len (decide (e < 32768)))) (.ok [])

/-- The k values of a block that are present, with their columns in A's stored rows, and the columns stored. -/
def presentKs (k0 len pos : Nat) (segs : List Bool) : List (Nat × Nat) × Nat :=
  (List.range len).foldl (fun (a : List (Nat × Nat) × Nat) i =>
    if segs.getD (i / 16) true then (a.1 ++ [(k0 + i, pos + a.2)], a.2 + 1) else a) ([], 0)

/-- The bytes of an operand that a part's next block reads, in order: for each pair of k value and stored column in `ks`. -/
def MxCmd.blockBytes (c : MxCmd) (p : MxPart) (isA : Bool) (ks : List (Nat × Nat)) : List Nat :=
  if isA then
    (List.range (c.pm p.p)).flatMap fun i => ks.flatMap fun k =>
      if c.ta then opBytes c.afmt (c.shapeA p.p).2 k.2 i else opBytes c.afmt (c.shapeA p.p).2 i k.2
  else
    ks.flatMap fun k => (List.range (c.pn p.q)).flatMap fun j =>
      if c.tb then opBytes c.bfmt (c.shapeB p.q).2 j k.1 else opBytes c.bfmt (c.shapeB p.q).2 k.1 j

end Sys2Proof.Machine
end

