-- ==== Sys2Proof/Machine/Engine.lean ====
section
/-! DEFINITION. What the engines share: windows and boxes (05 R114, 12 R271, R272), the comparators' entries (02 R61 to R63),
overlap (04 R101), ring slots (05 R120 to R125), the reads and writes of an engine (05 R112, R118), freezing, resume and abort
(05 R118, R119; 12 R297). -/

namespace Sys2Proof.Machine

/-! ## Boxes and windows -/

/-- Where the bytes an engine touches lie in L1: Hearth and range. -/
abbrev Seg := Nat × Range

/-- The bounding box of a side of an iteration: its lowest offset from the start, and its length. -/
def Iter.box (it : Iter) (s1 s2 : Int) : Int × Nat :=
  if it.total = 0 then (0, 0)
  else
    let e1 : Int := ((it.cnt1 - 1 : Nat) : Int) * s1
    let e2 : Int := ((it.cnt2 - 1 : Nat) : Int) * s2
    let lo := (if e1 < 0 then e1 else 0) + (if e2 < 0 then e2 else 0)
    let hi := (if 0 < e1 then e1 else 0) + (if 0 < e2 then e2 else 0) + it.rowlen
    (lo, (hi - lo).toNat)

/-- A box lies within a capability: canonical and within its bounds; an empty one does. -/
def Cap.fits (c : Cap) (lo : Int) (n : Nat) : Bool :=
  n == 0 ||
    (decide (0 ≤ lo) && decide (lo + n ≤ 2 ^ 64) && canonical (BitVec.ofInt 64 lo) && canonical (BitVec.ofInt 64 (lo + n - 1)) &&
      match c.bounds? with
      | some (b, t) => let a := a55 (BitVec.ofInt 64 lo); decide (b ≤ a) && decide (a + n ≤ t)
      | none => false)

/-- The runs of a range of L1 locations by Hearth. -/
def splitHearths (k n : Nat) : List Seg :=
  (List.range 4).filterMap fun h =>
    let lo := max k (h * 0x4000000)
    let hi := min (k + n) ((h + 1) * 0x4000000)
    if lo < hi then some (h, .flat (lo - h * 0x4000000) (hi - lo)) else none

/-- The L1 segments of n bytes from a: none outside the aperture span; a reason of L1_REGION where a byte lies outside every
window (01 R11 to R15). -/
def segsOf (core : Nat) (near : BitVec 4) (a n : Nat) : Except Nat (List Seg) :=
  if n = 0 then .ok []
  else
    let last := a + n - 1
    if last < 0xFD00000000 ∨ 0xFFFFFFFFFF < a then .ok []
    else if a < 0xFD00000000 ∨ 0xFFFFFFFFFF < last then .error 0
    else
      match window core near a with
      | .error r => .error r
      | .ok (.near t slab w) => if w + n ≤ 0x10000 then .ok [(t / 128, .near (t % 128) slab w n)] else .error 0
      | .ok (.l1 h o) =>
        if a < 0xFF00000000 then (if o + n ≤ 0x4000000 then .ok [(h, .flat o n)] else .error 0)
        else if h * 0x4000000 + o + n ≤ 0x10000000 then .ok (splitHearths (h * 0x4000000 + o) n)
        else .error 0
      | .ok (.phys ..) => .ok []

/-- A segment in near-window form where it lies in the near window of a hart of its Tray, by whichever address it is named: it is then
within one Tray row (15 R370; log 69). -/
def State.nearForm (s : State) (x : Seg) : Seg :=
  match x.2 with
  | .flat lo len =>
    let tray := lo / 512 % 128
    let row := lo / 0x10000
    let owns (c : Nat) : Bool := decide (c < 4096) && trayOf c == x.1 * 128 + tray && (s.hartAt c).ctl.nearctl.getLsbD 0
      && (s.hartAt c).ctl.nearctl.toNat / 2 == row / 128
    if 0 < len ∧ lo / 512 = (lo + len - 1) / 512 ∧ s.cores.any owns then
      (x.1, .near tray (row / 128) ((row % 128) * 512 + lo % 512) len)
    else x
  | _ => x

/-- Two ranges of one Hearth share a byte. -/
def Range.overlaps (a b : Range) : Bool :=
  a.pieces.any fun p => b.pieces.any fun q => decide (p.1 < q.1 + q.2) && decide (q.1 < p.1 + p.2)

/-- Two lists of segments share a byte. -/
def segsOverlap (a b : List Seg) : Bool := a.any fun x => b.any fun y => x.1 == y.1 && x.2.overlaps y.2

/-- The region check of a segment with ENG (01 R18); a near window needs none (01 R14). -/
def Seg.region (c : Ctx) (s : Seg) (need : Grant) : Option Nat :=
  match s.2 with
  | .near .. => none
  | r => r.pieces.findSome? fun p => regionSpan c s.1 p.1 p.2 need

/-- The segments of a side with their windows and the region check (12 R272, step 9); or the reason of L1_REGION. -/
def sidesOf (c : Ctx) (core : Nat) (near : BitVec 4) (a n : Nat) (need : Grant) : Except Nat (List Seg) :=
  match segsOf core near a n with
  | .error r => .error r
  | .ok l =>
    match l.findSome? fun x => Seg.region c x need with
    | some r => .error r
    | none => .ok l

/-- The same for the hart whose turn it is. -/
def State.sideOf (s : State) (a n : Nat) (need : Grant) : Except Nat (List Seg) := sidesOf (s.ctx s.hart.ctx) s.cur s.hart.ctl.nearctl a n need

/-! ## Entries of the comparators -/

/-- Step 1 of R63 for a range-lock entry: the lowest free index of 256, with the filter bits of its rows. -/
def State.addLock (s : State) (owner reason : Nat) (x : Seg) : State × (Nat × Nat) :=
  let h := s.hearth x.1
  let i := (tfree h.locks 256).getD 255
  let rows := x.2.rows
  (s.modHearth x.1 fun h => { h with
      locks := tset h.locks i { owner := owner, range := x.2, reason := reason }
      filter := rows.foldl sadd h.filter, stale := rows.foldl sdel h.stale }, (x.1, i))

/-- Step 1 of R63 for a landing entry. -/
def State.addLand (s : State) (owner mode shift : Nat) (x : Seg) (off : Nat := 0) : State × (Nat × Nat) :=
  let h := s.hearth x.1
  let i := (tfree h.lands 256).getD 255
  let rows := x.2.rows
  (s.modHearth x.1 fun h => { h with
      lands := tset h.lands i { owner := owner, range := x.2, mode := mode, shift := shift, count := 0, off := off }
      filter := rows.foldl sadd h.filter, stale := rows.foldl sdel h.stale }, (x.1, i))

/-- Several entries in turn. -/
def addEach (f : State → Seg → State × (Nat × Nat)) (s : State) (l : List Seg) : State × List (Nat × Nat) :=
  l.foldl (fun p x => let (s, e) := f p.1 x; (s, p.2 ++ [e])) (s, [])

/-- The bytes of a range. -/
def Range.len : Range → Nat
  | .flat _ n => n
  | .trayRing _ _ _ n => n
  | .near _ _ _ n => n

/-- The segments of a box, each with where it begins in the box. -/
def withOffs (l : List Seg) : List (Seg × Nat) := (l.foldl (fun (p : List (Seg × Nat) × Nat) x => (p.1 ++ [(x, p.2)], p.2 + x.2.len)) ([], 0)).1

/-- The landing entries of a box, one for each of its segments. -/
def State.addLands (s : State) (owner mode shift : Nat) (l : List Seg) : State × List (Nat × Nat) :=
  (withOffs l).foldl (fun p x => let (s, e) := p.1.addLand owner mode shift x.1 x.2; (s, p.2 ++ [e])) (s, [])

/-- Remove a range-lock entry. -/
def State.delLock (s : State) (e : Nat × Nat) : State :=
  s.modHearth e.1 fun h =>
    match tget? h.locks e.2 with
    | some x => Hearth.restale { h with locks := tdel h.locks e.2 } x.range.rows
    | none => h

/-- Remove a landing entry. -/
def State.delLand (s : State) (e : Nat × Nat) : State :=
  s.modHearth e.1 fun h =>
    match tget? h.lands e.2 with
    | some x => Hearth.restale { h with lands := tdel h.lands e.2 } x.range.rows
    | none => h

/-- Publish a watermark, or freeze it, on landing entries. -/
def State.modLands (s : State) (l : List (Nat × Nat)) (f : LandE → LandE) : State :=
  l.foldl (fun s e => s.modHearth e.1 fun h =>
    match tget? h.lands e.2 with
    | some x => { h with lands := tset h.lands e.2 (f x) }
    | none => h) s

/-- Every Hearth touched has the free entries a set of segments needs (02 R61). -/
def State.entriesFree (s : State) (locks lands : List Seg) : Bool :=
  (List.range 4).all fun h =>
    decide ((s.hearth h).locks.length + (locks.filter (·.1 == h)).length ≤ 256) &&
      decide ((s.hearth h).lands.length + (lands.filter (·.1 == h)).length ≤ 256)

/-- R101: a source that overlaps the destination, or a destination that overlaps any range, of an operation in flight; the entry of a tile
check is both (07 R157). `own` names entries that do not count. -/
def State.busy (s : State) (own : Nat → Bool) (srcs dsts : List Seg) : Bool :=
  (List.range 4).any fun h =>
    (s.hearth h).locks.any fun e =>
      decide (e.2.reason < 2) && !own e.2.owner &&
        ((dsts.any fun d => d.1 == h && d.2.overlaps e.2.range) ||
          ((e.2.reason == 1 || decide (0x20000000 ≤ e.2.owner)) && srcs.any fun d => d.1 == h && d.2.overlaps e.2.range))

/-- Some location lies within a range of a Hearth. -/
def Range.meets (r : Range) (h : Nat) (keys : List Nat) : Bool := keys.any fun k => isL1 k && keyHearth k == h && (r.rel (keyOff k)).isSome

/-- The locations of the store that a store-buffer entry is of: a store of several entries counts whole (02 R63). -/
def SbEntry.all (e : SbEntry) : List Nat := if e.whole.isEmpty then e.cells.map (·.1) else e.whole

/-- Step 2 of R63: every store to a range whose check passed before the entry has been performed: those of the Hearth's harts, each
whole, in their buffers or on their way there (11 R259), and those of others that the root has accepted: of harts' stores those of which a piece is performed, and the pieces on their way of host
and peer stores. -/
def State.quiet (s : State) (h : Nat) (r : Range) : Bool :=
  (s.cores.all fun c =>
    let x := s.hartAt c
    (dieOf c != h || (x.sb ++ x.posted ++ x.pair.held ++ x.entering.getD []).all fun e => !r.meets h e.all)
      && x.posted.all fun e => e.done == 0 || !r.meets h (e.cells.map (·.1)))
    && (s.m.peerRest.all fun q => decide (4 ≤ q.hearth) || !r.meets h (keysFrom (l1Key q.hearth q.off) q.n))
    && s.m.host.copies.all fun c => !r.meets h (c.rest.map (·.1))

/-- Step 3 of R63 for a range-lock entry, where step 2 holds. -/
def State.activateLock (s : State) (h i : Nat) : Option State :=
  match tget? (s.hearth h).locks i with
  | some e => if !e.active && s.quiet h e.range then some (s.modHearth h fun x => { x with locks := tset x.locks i { e with active := true } }) else none
  | none => none

/-- Step 3 of R63 for a landing entry. -/
def State.activateLand (s : State) (h i : Nat) : Option State :=
  match tget? (s.hearth h).lands i with
  | some e => if !e.active && s.quiet h e.range then some (s.modHearth h fun x => { x with lands := tset x.lands i { e with active := true } }) else none
  | none => none

/-- Entries are active. -/
def State.allActive (s : State) (locks lands : List (Nat × Nat)) : Bool :=
  locks.all (fun e => ((tget? (s.hearth e.1).locks e.2).map (·.active)).getD true) &&
    lands.all fun e => ((tget? (s.hearth e.1).lands e.2).map (·.active)).getD true

/-! ## Handles and slots -/

/-- A handle by its 12-bit name. -/
def State.handle? (s : State) (name : Nat) : Option Handle := tget? (s.hearth (name / 1024 % 4)).handles (name % 1024)

/-- Change a handle. -/
def State.modHandle (s : State) (name : Nat) (f : Handle → Handle) : State :=
  s.modHearth (name / 1024 % 4) fun h =>
    match tget? h.handles (name % 1024) with
    | some x => { h with handles := tset h.handles (name % 1024) (f x) }
    | none => h

/-- The handle a context has allocated under a name. -/
def State.ownHandle (s : State) (ctx name : Nat) : Option Handle :=
  match s.handle? name with
  | some h => if h.ctx = ctx then some h else none
  | none => none

/-- The key of the ring copy that a hart on a core uses: its Tray's, or the plain ring's. -/
def Handle.keyFor (h : Handle) (core : Nat) : Nat := if h.repl then (if core < 4096 then trayOf core else 513) else 512

/-- Slots of a copy. -/
def Handle.ring (h : Handle) (key : Nat) : Option Ring := tget? h.rings key

/-- The name a slot reference is about. -/
def SlotRef.name (r : SlotRef) : Nat := r.hearth * 1024 + r.handle

/-- Change a ring copy. -/
def State.modRing (s : State) (name key : Nat) (f : Ring → Ring) : State :=
  s.modHandle name fun h =>
    match tget? h.rings key with
    | some r => { h with rings := tset h.rings key (f r) }
    | none => h

/-- A slot of a ring copy. -/
def Ring.slot (r : Ring) (i : Nat) : RSlot := r.slots.getD i {}

/-- Change a slot. -/
def Ring.modSlot (r : Ring) (i : Nat) (f : RSlot → RSlot) : Ring := { r with slots := r.slots.mapIdx fun j x => if j = i then f x else x }

/-- A slot by reference. -/
def State.slot? (s : State) (r : SlotRef) : Option RSlot := ((s.handle? r.name).bind (·.ring r.key)).map (·.slot r.slot)

/-- Change a slot by reference. -/
def State.modSlotAt (s : State) (r : SlotRef) (f : RSlot → RSlot) : State := s.modRing r.name r.key (·.modSlot r.slot f)

/-- The lock bits of a consumer ring follow its slots (05 R124). -/
def State.relock (s : State) (name key : Nat) : State :=
  match s.handle? name with
  | some h =>
    match h.ring key, h.ringLock.find? (·.1 == key) with
    | some r, some (_, i) =>
      s.modHearth (name / 1024 % 4) fun x =>
        match tget? x.locks i with
        | some e =>
          let set := (List.range h.nslot).filter fun j => (r.slot j).st == .full || (r.slot j).st == .draining
          { x with locks := tset x.locks i { e with slots := set } }
        | none => x
    | _, _ => s
  | none => s

/-- FREE to FILLING: the operation `owner` takes the TAIL slot (05 R123). -/
def State.fillSlot (s : State) (name key owner : Nat) (start : Word) : State × SlotRef :=
  let h := (s.handle? name).getD { ctx := 0, gang := 0, base := 0, nslot := 1, slotsz := 512, track := false, cons := false, repl := false, dlvl := 0, dom := 0, trays := [], rings := [] }
  let t := ((h.ring key).getD {}).tail
  let s := s.modHandle name fun h => { h with aborted := false }
  let s := s.modRing name key fun r =>
    { r.modSlot t (fun _ => { st := .filling, op := owner, start := start }) with tail := (t + 1) % max h.nslot 1 }
  (s, { hearth := name / 1024 % 4, handle := name % 1024, key := key, slot := t })

/-- A multicast from a root Hearth fills a slot with the Tray's next tile (05 R127). -/
def State.sendTile (s : State) (r : SlotRef) (root : Nat) : State :=
  let name := root * 1024 + r.handle
  let n := ((s.handle? name).map fun h => tget 0 h.sent r.key).getD 0
  (s.modSlotAt r fun x => { x with root := root, tile := n }).modHandle name fun h => { h with sent := tset h.sent r.key (n + 1) }

/-- The tile of a slot is taken back: its Tray's next tile has its number again. -/
def State.unsendTile (s : State) (r : SlotRef) : State :=
  match s.slot? r with
  | some x => if x.root < 4 then s.modHandle (x.root * 1024 + r.handle) fun h => { h with sent := tset h.sent r.key x.tile } else s
  | none => s

/-- A slot that a multicast filled is freed: the buffer-free message of its tile goes to the multicast's root (05 R127). -/
def State.freeMsg (s : State) (r : SlotRef) : State :=
  match s.slot? r with
  | some x => if x.root < 4 then s.modHandle (x.root * 1024 + r.handle) fun h => { h with freed := h.freed ++ [(r.key, x.tile)] } else s
  | none => s

/-- A landing operation completes its slot: FULL, DRAINING when claimed, FREE when its claiming command has ended. -/
def State.slotDone (s : State) (r : SlotRef) (len mode : Nat) : State :=
  let s := if ((s.slot? r).map (·.popped)).getD false then s.freeMsg r else s
  let s := s.modSlotAt r fun x =>
    { x with st := if x.popped then .free else if x.clm then .draining else .full, clm := x.clm && !x.popped, popped := false, frozen := false, len := len, mode := mode }
  s.relock r.name r.key

/-- An engine consumer claims HEAD, if it is FILLING and unclaimed or FULL. -/
def State.claim (s : State) (name key : Nat) : Option (State × SlotRef) :=
  match (s.handle? name) with
  | none => none
  | some h =>
    match h.ring key with
    | none => none
    | some r =>
      let x := r.slot r.head
      let ref : SlotRef := { hearth := name / 1024 % 4, handle := name % 1024, key := key, slot := r.head }
      if x.st == .full || (x.st == .filling && !x.clm) then
        let s := s.modRing name key fun r =>
          { r.modSlot r.head (fun x => if x.st = .full then { x with st := .draining, clm := true } else { x with clm := true }) with head := (r.head + 1) % max h.nslot 1 }
        some (s.relock name key, ref)
      else none

/-- A slot is released by its consumer: FREE, or marked while it still fills; a slot of a replicated ring counts toward its
buffer-free message (05 R127). -/
def State.release (s : State) (r : SlotRef) : State :=
  let s := if ((s.slot? r).map (·.st)) == some .filling then s else s.freeMsg r
  let s := s.modSlotAt r fun x => if x.st = .filling then { x with popped := true } else { x with st := .free, clm := false, popped := false }
  s.relock r.name r.key

/-- The L1 offset of byte k of a ring copy. -/
def Handle.off (h : Handle) (key k : Nat) : Nat :=
  if h.repl then (h.base / 0x10000 + k / 512) * 0x10000 + key % 128 * 512 + k % 512 else h.base + k

/-- A range of a ring copy. -/
def Handle.range (h : Handle) (key k n : Nat) : Range :=
  if h.repl then .trayRing (key % 128) (h.base / 0x10000) k n else .flat (h.base + k) n

/-- The place of bytes from k of a ring copy. -/
def Handle.at (h : Handle) (hearth key k : Nat) : Where :=
  if h.repl then .ring hearth (key % 128) (h.base / 0x10000) k else .l1 hearth (h.base + k)

/-- The aperture address of an L1 offset (01 R11). -/
def apertureVa (hearth off : Nat) : Word := w64 (0xFF00000000 + hearth * 0x4000000 + off)

/-- The address of an L1 offset in the manner of the address that named the tile: in the near window, through the own-Hearth alias, else
through the aperture (01 R11 to R13). -/
def l1Name (base : Word) (hearth off : Nat) : Word :=
  if 0xFD00000000 ≤ base.toNat ∧ base.toNat < 0xFD00010000 then w64 (0xFD00000000 + off / 0x10000 % 128 * 512 + off % 512)
  else if 0xFE00000000 ≤ base.toNat ∧ base.toNat < 0xFE04000000 then w64 (0xFE00000000 + off)
  else apertureVa hearth off

/-! ## Reads and writes of an engine -/

/-- For whom an engine works: core, NEARCTL at issue, context, level U, and who reads at the channels. -/
structure Agent where
  core : Nat
  near : BitVec 4
  ctx : Nat
  user : Bool
  who : Reader := .other

/-- The agent of a command, as the operation `opn` where it has begun. -/
def CopyCmd.agent (c : CopyCmd) (opn : Option Nat) : Agent :=
  { core := c.hart, near := c.near, ctx := c.ctx, user := c.user, who := (opn.map Reader.op).getD .other }

/-- Why an engine stops: address, KIND, COPY_FAULT reason, level of a failed walk and EINFO[47:44]; for poison its site, SUB and address,
whether ERRINJ planted it, and whether the walker met it (01 R37). -/
structure EngFault where
  va : Word
  kind : Nat
  reason : Nat
  level : Nat := 0
  why : Nat := 0
  site : Nat := 0
  sub : Nat := 0
  addr : Nat := 0
  inj : Bool := false
  walk : Bool := false

/-- The outcome of an engine access: it goes on, stops, or waits: on a landing entry of an owner, or, for owner 0, on something else. -/
inductive EngR (α : Type) where
  | ok (x : α)
  | fault (s : State) (f : EngFault)
  | wait (s : State) (owner : Nat)

/-- One engine access after another. -/
def EngR.bind {α β : Type} (x : EngR α) (f : α → EngR β) : EngR β :=
  match x with
  | .ok a => f a
  | .fault s e => .fault s e
  | .wait s o => .wait s o

/-- The locations of n virtual bytes in one 64 KiB page for an agent; with the memory type. -/
def State.engPage (s : State) (g : Agent) (wr : Bool) (a : Word) (n : Nat) : EngR (State × List Nat × Nat) :=
  let kind := if wr then 7 else 6
  if inSpan a then
    match window g.core g.near a.toNat with
    | .error _ => .fault s { va := a, kind := kind, reason := 2 }
    | .ok t => .ok (s, (List.range n).map (t.key s.m), 0)
  else
    match translate s g.who s.m.now (dieOf g.core) g.ctx a { rd := !wr, wr := wr, user := g.user } with
    | .error (.fault r l s) => .fault s { va := a, kind := kind, reason := 0, level := l, why := r }
    | .error (.ue site sub addr inj s) => .fault s { va := a, kind := kind, reason := 3, site := site, sub := sub, addr := addr, inj := inj, walk := true }
    | .error (.wait s) => .wait s 0
    | .ok (s, e) =>
      let keys := (List.range n).map fun i => paKey s.m (leafPa e (a55 a) + i)
      if keys.contains noKey then .fault s { va := a, kind := kind, reason := 6, why := 3 }
      else .ok (s, keys, bits e.bits 10 9)

/-- The locations of n virtual bytes for an agent, page by page; with the memory type. -/
def State.engKeys (s : State) (g : Agent) (wr : Bool) : Nat → Word → Nat → EngR (State × List Nat × Nat)
  | 0, _, _ => .ok (s, [], 0)
  | fuel + 1, a, n =>
    if n = 0 then .ok (s, [], 0)
    else
      let here := min n (0x10000 - a.toNat % 0x10000)
      (s.engPage g wr a here).bind fun (s, l, mt) =>
        (s.engKeys g wr fuel (a + w64 here) (n - here)).bind fun (s, r, mt') => .ok (s, l ++ r, max mt mt')

/-- The bytes that an operation has read of its present piece. -/
def State.opGot (s : State) : Reader → List Host.Cell
  | .op n => ((tget? s.m.ops n).map (·.got)).getD []
  | _ => []

/-- An engine reads locations: each transaction waits for its watermarks (02 R65), and it for its channels; it stops at poison (16 R380),
and reads piece by piece, in the order that `splits` gives (04 R99). -/
def State.engFetch (s : State) (g : Agent) (a : Word) (keys : List Nat) (alloc : Bool) : EngR (State × List Byte) :=
  let got := s.opGot g.who
  let rest := keys.filter fun k => !got.any (·.1 == k)
  let held := rest.filter fun k => s.landMark k != .pass
  let owner := match (rest.find? fun k => s.landMark k != .pass).map s.landMark with | some (.wait o) => o | _ => 0
  let left := piecesOf g.core false rest
  let free := left.filter fun p => !(held.map transactionOf).contains (transactionOf p)
  let sel := match g.who with | .op _ => (s.chosen left).filter free.contains | _ => if held.isEmpty then left else []
  if sel.isEmpty && !left.isEmpty then .wait (match g.who with | .op _ => s.splitUsed left | _ => s) owner
  else
    let now := rest.filter fun k => sel.contains (pieceOf g.core false k)
    match ((match g.who with | .op _ => s.splitUsed left | _ => s).scrub now).channelRead g.who s.m.now now false alloc with
    | (s, false) => .wait s 0
    | (s, true) =>
      match now.find? s.poisoned with
      | some k =>
        let (site, sub, addr) := s.poisonSite k
        let inj := s.poisonInj k
        .fault (s.l2Sectors now false false alloc) { va := a + w64 (keys.idxOf k), kind := 6, reason := 3, site := site, sub := sub, addr := addr, inj := inj }
      | none =>
        let cells : List Host.Cell := now.map fun k => (k, s.byteAt k)
        let s := s.l2Sectors now false false alloc
        if sel.length < left.length then
          match g.who with
          | .op n => .wait (s.onMod fun m => match tget? m.ops n with
              | some o => { m with ops := tset m.ops n { o with got := o.got ++ cells } }
              | none => m) owner
          | _ => .wait s 0
        else .ok (s, keys.map fun k => (((got ++ cells).find? (·.1 == k)).map (·.2)).getD 0)

/-- Read n virtual bytes for an agent. -/
def State.engRead (s : State) (g : Agent) (a : Word) (n : Nat) : EngR (State × List Byte) :=
  (s.engKeys g false (n / 0x10000 + 2) a n).bind fun (s, keys, mt) => s.engFetch g a keys (mt == 0)

/-- Read several runs in order. -/
def State.engReads (s : State) (g : Agent) : List (Word × Nat) → EngR (State × List Byte)
  | [] => .ok (s, [])
  | (a, n) :: r =>
    (s.engRead g a n).bind fun (s, b) => (s.engReads g r).bind fun (s, c) => .ok (s, b ++ c)

/-- The locations of n destination bytes at offset d of a place. -/
def State.dstKeys (s : State) (g : Agent) (w : Where) (d : Int) (n : Nat) : EngR (State × List Nat × Nat) :=
  match w with
  | .virt va => s.engKeys g true (n / 0x10000 + 2) (va + BitVec.ofInt 64 d) n
  | .ring h t row k0 => .ok (s, (List.range n).map fun (i : Nat) =>
      let k := ((k0 : Int) + d + (i : Nat)).toNat
      l1Key h ((row + k / 512) * 0x10000 + t * 512 + k % 512), 0)
  | .l1 h off => .ok (s, (List.range n).map fun (i : Nat) => l1Key h ((off : Int) + d + (i : Nat)).toNat, 0)

/-- The first address of a place, for reports and for CP.WM's pieces. -/
def Where.va : Where → Word
  | .virt va => va
  | .ring h t row k0 => apertureVa h ((row + k0 / 512) * 0x10000 + t * 512 + k0 % 512)
  | .l1 h off => apertureVa h off

/-- Write bytes at locations as an engine does. -/
def State.engWrite (s : State) (keys : List Nat) (b : List Byte) (alloc : Bool) : State := (s.l2Writes keys false alloc).writeAny false (keys.zip b)

/-! ## Operation names, freezing -/

/-- The engine of a core (12 R263). -/
def engineOf (core : Nat) : Nat := if core < 4096 then trayOf core else 512 + (core - 4096)

/-- A core of the engine that an operation name is of. -/
def engineCore (opn : Nat) : Nat := if opn / 32 < 512 then 8 * (opn / 32) else 3584 + opn / 32

/-- A free operation name of an engine. -/
def State.freeOpn (s : State) (core : Nat) : Option Nat :=
  ((List.range 32).map (engineOf core * 32 + ·)).find? fun n => (tget? s.m.ops n).isNone

/-- What consuming poison does to a gang (16 R380, R391). -/
inductive UeMode where
  | plain | roll | limit (noundo : Bool)

/-- The case that applies to a gang. -/
def State.ueMode (s : State) (gang : Nat) : UeMode :=
  match (s.gang? gang).bind (·.roll) with
  | none => .plain
  | some r => if r.noundo then .limit true else if 3 ≤ r.retry then .limit false else .roll

/-- Change an operation in flight. -/
def State.modOp (s : State) (opn : Nat) (f : EngOp → EngOp) : State :=
  s.onMod fun m =>
    match tget? m.ops opn with
    | some o => { m with ops := tset m.ops opn (f o) }
    | none => m

/-- The EINFO of COPY_FAULT (05 R118, 12 R263). -/
def copyFaultInfo (user : Bool) (f : EngFault) (entry : Nat × Nat) (opn : Nat) : Word :=
  einfo f.kind user 0 f.reason f.level 0 + w64 (entry.2 * 0x100000000 + entry.1 * 0x10000000000 + f.why * 0x100000000000 + opn * 0x1000000000000)

/-- A report of a fault of an operation: COPY_FAULT; for an uncorrectable error that its walk met UE_CONSUMED (01 R37); or, for poison in
a gang with rollback, what R391 says. -/
def State.reportFault (s : State) (c : CopyCmd) (opn : Nat) (entry : Nat × Nat) (f : EngFault) : State :=
  let rep (a : Async) (s : State) : State := s.report c.ctx c.gang c.hart a
  let unit := unitOf (engineCore opn)
  let ue := ueInfo f.kind c.user f.site unit true
  let plain : Async := if f.walk then { cause := 0x40, val := f.va, info := ue } else { cause := 0x20, val := f.va, info := copyFaultInfo c.user f entry opn }
  if f.reason != 3 then rep plain s
  else
    match s.ueMode c.gang with
    | .plain => rep plain (s.logErr unit 2 f.site f.sub f.addr 0 plain.cause f.inj)
    | .roll => (s.logErr unit 2 f.site f.sub f.addr 0 0xFF f.inj).beginRoll c.gang
    | .limit nu => rep { cause := 0x41, val := f.va, info := ue + w64 (0x100 * b2n nu) } (s.logErr unit 2 f.site f.sub f.addr 0 0x41 f.inj)

/-- Landing entries and the slot they fill are frozen, or are so no more (02 R66, 05 R118). -/
def State.markFrozen (s : State) (lands : List (Nat × Nat)) (slot : Option SlotRef) (b : Bool) : State :=
  let s := s.modLands lands fun e => { e with frozen := b }
  match slot with
  | some r => s.modSlotAt r fun x => { x with frozen := b }
  | none => s

/-- An operation freezes at its watermark (05 R118): the deliveries that `hit` names, their entries and their slots. -/
def State.freeze (s : State) (opn : Nat) (hit : Delivery → Bool) (f : EngFault) : State :=
  match tget? s.m.ops opn with
  | none => s
  | some o =>
    let ds := o.dels.filter fun d => hit d && !d.final
    let s := s.modOp opn fun o => { o with frozen := true, dels := o.dels.map fun d => if hit d && !d.final then { d with frozen := true } else d }
    let s := ds.foldl (fun s d => s.markFrozen (d.lands ++ o.metaLands) d.slot true) s
    s.reportFault o.cmd opn ((ds.flatMap (·.lands)).headD (0, 0)) f

/-! ## Resume and abort (05 R119, 12 R275, R297) -/

/-- CP.RESUME of a frozen operation. -/
def State.resume (s : State) (opn : Nat) : State :=
  match tget? s.m.ops opn with
  | none => s
  | some o =>
    let s := s.modOp opn fun o => { o with frozen := false, dels := o.dels.map fun d => { d with frozen := false } }
    o.dels.foldl (fun s d => s.markFrozen (d.lands ++ o.metaLands) d.slot false) s

/-- The entries of an operation leave the tables. -/
def State.dropEntries (s : State) (locks lands : List (Nat × Nat)) : State := lands.foldl State.delLand (locks.foldl State.delLock s)

/-- The location of byte b of a slot. -/
def State.slotKey (s : State) (r : SlotRef) (b : Nat) : Nat :=
  match s.handle? r.name with
  | some h => l1Key r.hearth (h.off r.key (r.slot * h.slotsz + b))
  | none => noKey

/-- The aperture address of byte b of a slot (12 R296, R297). -/
def State.slotVa (s : State) (r : SlotRef) (b : Nat) : Word := let k := s.slotKey r b; apertureVa (keyHearth k) (keyOff k)

/-- The strip of the skip list that a command of the hart on core n reads next (12 R288). -/
def State.skipStrip (s : State) (n : Nat) (c : MxCmd) : Option (Nat × EngOp) :=
  (tget? (s.hartAt n).streams (24 + c.skv)).bind fun b => (tget? s.m.ops b.opn).map fun o => (b.opn, o)

/-- The k values of a part's next block with their stored columns, as far as its skip list is known. -/
def State.nextKs (s : State) (n : Nat) (c : MxCmd) (p : MxPart) : List (Nat × Nat) :=
  let len := min 512 (c.k - p.kdone)
  let segs := if !c.sp then [] else
    match ((s.skipStrip n c).bind (·.2.strips.head?)).map fun x => skipSegs x (ceilDiv len 16) with
    | some (.ok l) => l
    | _ => []
  (presentKs p.kdone len (if c.sp then p.skipPos else p.kdone) segs).1

/-- The address that a part of a command of the hart on core n reads in a slot (12 R297): its next block's first byte there that has
not landed. -/
def State.addressRead (s : State) (n : Nat) (c : MxCmd) (p : MxPart) (r : SlotRef) : Word :=
  let l := c.blockBytes p (p.aSlot == some r) (s.nextKs n c p)
  s.slotVa r ((l.find? fun b => s.landMark (s.slotKey r b) != .pass).getD (l.headD 0))

/-- A part stops as its slot's landing entry goes: it restarts from its first K group (12 R297). -/
def MxPart.stop (p : MxPart) (r : SlotRef) : MxPart :=
  { p with
    frozen := true, kdone := 0, skipPos := 0, acc := [], rowChk := [], colChk := []
    aSlot := if p.aSlot = some r then none else p.aSlot
    bSlot := if p.bSlot = some r then none else p.bSlot }

/-- The matrix commands that claim a slot while it fills freeze when its landing entry goes (12 R297): their parts that claim it
stop, their own landing entries freeze with them (02 R66), and the kernel receives COPY_FAULT, REASON 5, with the landing entry of the
command's destination (12 R263). -/
def State.freezeReaders (s : State) (r : SlotRef) : State :=
  s.cores.foldl (fun s c =>
    let hit (p : MxPart) : Bool := !p.done && (p.aSlot == some r || p.bSlot == some r)
    match (s.hartAt c).mx.queue.findSome? fun q => (q.parts.find? hit).map fun p => (q, p) with
    | none => s
    | some (q, p) =>
      let va := s.addressRead c q p r
      let s := s.modHart c fun h => { h with mx := { h.mx with queue := h.mx.queue.map fun q =>
        { q with parts := q.parts.map fun p => if hit p then p.stop r else p } } }
      let h := s.hartAt c
      let land := (q.lands[(q.parts.findIdx? (· == p)).getD 0]?).getD (q.lands.headD (0, 0))
      let s := s.markFrozen q.lands q.dstSlot true
      let f : EngFault := { va := va, kind := 6, reason := 5 }
      s.report h.ctx h.gang c { cause := 0x20, val := va, info := copyFaultInfo q.user f land ((768 + trayOf p.core) * 32 + p.core % 8) }) s

/-- Abort the slot of a delivery and every slot of its ring copy filled after it that still fills (05 R123): their slots become
FREE and TAIL steps back. The owners of the later slots are the answer. -/
def State.abortSlots (s : State) (r : SlotRef) : State × List Nat :=
  match (s.handle? r.name).bind fun h => (h.ring r.key).map fun g => (h, g) with
  | none => (s, [])
  | some (h, g) =>
    let n := max h.nslot 1
    let count := (g.tail + n - r.slot - 1) % n
    let later := ((List.range count).map fun i => (r.slot + 1 + i) % n).filter fun i => (g.slot i).st == .filling
    let gone := r.slot :: later
    let owners := later.map fun i => (g.slot i).op
    let s := gone.reverse.foldl (fun s i => s.unsendTile { r with slot := i }) s
    let s := gone.foldl (fun s i => if (g.slot i).clm then s.freezeReaders { r with slot := i } else s) s
    let head := if gone.any (fun i => (g.slot i).clm) then ((gone.filter fun i => (g.slot i).clm).headD r.slot) else g.head
    let s := s.modRing r.name r.key fun x =>
      { x with
        slots := x.slots.mapIdx fun i y => if gone.contains i then {} else y
        tail := r.slot, head := head }
    let s := s.modHandle r.name fun h => { h with aborted := true }
    (s.relock r.name r.key, owners)

/-- End an operation without completing it: its entries go and it counts as final (05 R119). A stream stays known to its binding; what
its register then does is not in the spec: reads past its strips trap as before the abort, and a write stream takes up to 4 strips more,
which nothing lands (log 64). -/
def State.endOp (s : State) (opn : Nat) : State :=
  match tget? s.m.ops opn with
  | none => s
  | some o =>
    let s := o.dels.foldl (fun s d => if d.final then s else s.dropEntries d.locks d.lands) (s.dropEntries o.srcLocks o.metaLands)
    if o.stream && !o.unbound then s.modOp opn fun o => { o with aborted := true, frozen := true, srcLocks := [], metaLands := [], dels := o.dels.map fun d => { d with final := true } }
    else s.onMod fun m => { m with ops := tdel m.ops opn }

/-- A matrix command loses the ring slot it was writing: it ends as a faulted command. -/
def State.mxLose (s : State) (owner : Nat) : State :=
  let core := (owner - 0x100000) / 0x10000
  let f (c : MxCmd) : MxCmd :=
    if mxOwner core c.seq = owner then { c with dstSlot := none, fault := some { cause := 0x27, val := c.dest, info := w64 (0x4400 + trayOf core * 0x10000000000) } } else c
  s.modHart core fun h => { h with mx := { h.mx with queue := h.mx.queue.map f } }

/-- CP.ABORT of operations (05 R119): on a multicast, every delivery; the operations behind one in a ring go with it. -/
def abortOps : Nat → List Nat → State → State
  | 0, _, s => s
  | _ + 1, [], s => s
  | fuel + 1, n :: rest, s =>
    if isMxOwner n then abortOps fuel rest (s.mxLose n)
    else
      match tget? s.m.ops n with
      | none => abortOps fuel rest s
      | some o =>
        let (s, later) := o.dels.foldl (fun (p : State × List Nat) d =>
          match d.slot with
          | some r =>
            if d.final || ((p.1.slot? r).map (·.st)) != some .filling then p
            else let (s, l) := p.1.abortSlots r; (s, p.2 ++ l)
          | none => p) (s, [])
        abortOps fuel (rest ++ later) (s.endOp n)

/-- CP.ABORT of one operation. -/
def State.abortOp (s : State) (opn : Nat) : State := abortOps 4096 [opn] s

end Sys2Proof.Machine
end

