-- ==== Sys2Proof/Machine/Vector.lean ====
section
/-! DEFINITION. Vector arithmetic, logic, compares, moves, reductions and conversions (11 R243 to R256, R261). -/

namespace Sys2Proof.Machine

/-! ## Elements and masks (11 R243, R244) -/

/-- Element i of a register for width w. -/
def velem (x : Vec) (w i : Nat) : Nat := x.toNat / 2 ^ (w * i) % 2 ^ w

/-- A register of elements. -/
def vpack (w : Nat) (l : List Nat) : Vec := BitVec.ofNat 512 (packCodes w l)

end Sys2Proof.Machine

namespace Sys2Proof

open Machine

/-- Element i is active. -/
def VOp.active (o : VOp) (s : State) (i : Nat) : Bool := !o.me || (s.rv ⟨o.msk.val, by omega⟩).getLsbD i

/-- The mask register that the instruction reads. -/
def VOp.maskReg (o : VOp) : List VReg := if o.me then [⟨o.msk.val, by omega⟩] else []

/-- The old destination that an undisturbed write reads. -/
def VOp.oldReg (o : VOp) : List VReg := if o.me && !o.ag then [o.vd] else []

/-- Element width of the tail format. -/
def VOp.w (o : VOp) : Nat := fmtWidth o.fmt.val

/-- Element count of the tail format. -/
def VOp.n (o : VOp) : Nat := 512 / o.w

/-- The kind of the tail format. -/
def VOp.kind (o : VOp) : FmtKind := fmtKind o.fmt.val

/-- A destination element that is not active: the old one, or zero (R244). -/
def VOp.inactive (o : VOp) (old : Vec) (w i : Nat) : Nat := if o.ag then 0 else velem old w i

/-- The elements of a result: computed where active, with their flags. -/
def VOp.result (o : VOp) (s : State) (f : Nat → FRes) : Vec × Flags :=
  let old := s.rv o.vd
  let l := (List.range o.n).map fun i => if o.active s i then f i else (o.inactive old o.w i, 0)
  (vpack o.w (l.map (·.1)), orFlags (l.map (·.2)))

/-- A c-register field of a tail. -/
def VOp.cc (o : VOp) : CReg := Fin.ofNat 16 o.vc.val

end Sys2Proof

namespace Sys2Proof.Machine

/-- The width index of a format for the energy table (17 R399). -/
def widthIx (fmt : Nat) : Nat :=
  let w := fmtWidth fmt
  if w ≤ 8 then 0 else if w = 16 then 1 else if w = 32 then 2 else 3

/-- FORMAT for a code that an instruction does not accept (06 R131). -/
def guardFmt (ok : Bool) (s : State) (code : Nat) : R Unit := guardTrap ok s 0x26 (w64 code) 0

/-- The instruction is of class Vector FMA, which one counter event counts (14 R350). -/
def vecRet (o : VOp) (maj lat : Nat) : Ret :=
  { s := o.s, maj := maj, width := widthIx o.fmt.val, ev := if lat = 4 then [0x12, 0x13] else [0x12] }

/-- An instruction that computes vd from v-registers, element by element. `ok` says which formats it accepts. -/
def velems (maj lat : Nat) (ok : FmtKind → Bool) (srcs : List VReg) (f : State → List Vec → Nat → FRes) (o : VOp) (s : State) : Out :=
  complete do
    s.ready (s.watched (srcs ++ o.maskReg) ++ (o.oldReg.map fun r => (true, r.val)))
    guardFmt (ok o.kind) s o.fmt.val
    guardWait (lat != 4 || !s.fmaHeld) false s
    let (xs, pops) ← s.vread [] srcs
    guardWait (s.canAppend o.vd) false s
    let (x, fl) := o.result s (f s xs)
    .ok ((((s.popStrips pops).setFlags fl).setVec o.vd x lat maj).retire (vecRet o maj lat))

/-- Source register k of those read. -/
def src (l : List Vec) (k : Nat) : Vec := l.getD k 0

/-- Integer formats of 8 bits and more. -/
def okInt : FmtKind → Bool
  | .int f => decide (8 ≤ f.w)
  | _ => false
/-- Those and the complex integer ones. -/
def okIntC : FmtKind → Bool
  | .cint _ => true
  | k => okInt k
/-- Signed integer formats. -/
def okSigned : FmtKind → Bool
  | .int f => decide (8 ≤ f.w) && f.signed
  | _ => false
/-- Signed and complex integer formats. -/
def okSignedC : FmtKind → Bool
  | .cint _ => true
  | k => okSigned k
/-- Every format of R243 but I4 and N4. -/
def okAny : FmtKind → Bool
  | .raw => true
  | .flt _ => true
  | .cflt _ => true
  | k => okIntC k
/-- FP32, FP16 and BF16. -/
def okFlt : FmtKind → Bool
  | .flt f => decide (16 ≤ f.w)
  | _ => false
/-- Those and CBF16. -/
def okFltC : FmtKind → Bool
  | .cflt _ => true
  | k => okFlt k
/-- CI16 and CBF16. -/
def okCplx : FmtKind → Bool
  | .cint f => f.w == 16
  | .cflt _ => true
  | _ => false

/-! ## Integer arithmetic (11 R248) -/

/-- The integer format of a component. -/
def FmtKind.intFmt : FmtKind → IntFmt
  | .int f => f
  | .cint f => f
  | _ => { w := 64, signed := false }

/-- A two-operand integer operation on components. -/
def vint2 (lat : Nat) (ok : FmtKind → Bool) (f : IntFmt → Int → Int → FRes) (o : VOp) (s : State) : Out :=
  let k := o.kind
  let g := k.intFmt
  velems 0x30 lat ok [o.va, o.vb] (fun _ l i =>
    perComp2 k.complex k.cw (fun x y => f g (g.val x) (g.val y)) (velem (src l 0) o.w i) (velem (src l 1) o.w i)) o s

/-- A one-operand integer operation on components. -/
def vint1 (ok : FmtKind → Bool) (f : IntFmt → Int → FRes) (o : VOp) (s : State) : Out :=
  let k := o.kind
  let g := k.intFmt
  velems 0x30 2 ok [o.va] (fun _ l i => perComp k.complex k.cw (fun x => f g (g.val x)) (velem (src l 0) o.w i)) o s

/-- A result modulo 2^w. -/
def wraps (g : IntFmt) (x : Int) : FRes := (g.enc x, 0)

/-- A clipped result, which sets SAT. -/
def clips (g : IntFmt) (x : Int) : FRes := (g.enc (g.clip x).1, flagIf (g.clip x).2 fSAT)

/-- R248: vadd. -/
def execVadd (o : VOp) (s : State) : Out := vint2 2 okIntC (fun g a b => wraps g (a + b)) o s
/-- R248: vsub. -/
def execVsub (o : VOp) (s : State) : Out := vint2 2 okIntC (fun g a b => wraps g (a - b)) o s
/-- R248: vmul. -/
def execVmul (o : VOp) (s : State) : Out := vint2 4 okInt (fun g a b => wraps g (a * b)) o s
/-- R248: vmulh, the product divided by 2^w rounded down. -/
def execVmulh (o : VOp) (s : State) : Out := vint2 4 okInt (fun g a b => wraps g (a * b / (2 ^ g.w : Nat))) o s
/-- R248: vmin. -/
def execVmin (o : VOp) (s : State) : Out := vint2 2 okInt (fun g a b => wraps g (if a ≤ b then a else b)) o s
/-- R248: vmax. -/
def execVmax (o : VOp) (s : State) : Out := vint2 2 okInt (fun g a b => wraps g (if a ≤ b then b else a)) o s
/-- R248: vabs. -/
def execVabs (o : VOp) (s : State) : Out := vint1 okSigned (fun g a => wraps g a.natAbs) o s
/-- R248: vneg. -/
def execVneg (o : VOp) (s : State) : Out := vint1 okSignedC (fun g a => wraps g (-a)) o s
/-- R248: vadd.sat. -/
def execVaddSat (o : VOp) (s : State) : Out := vint2 2 okIntC (fun g a b => clips g (a + b)) o s
/-- R248: vsub.sat. -/
def execVsubSat (o : VOp) (s : State) : Out := vint2 2 okIntC (fun g a b => clips g (a - b)) o s
/-- R248: vabs.sat. -/
def execVabsSat (o : VOp) (s : State) : Out := vint1 okSigned (fun g a => clips g a.natAbs) o s

/-! ## Logic and shifts (11 R249) -/

/-- A bitwise operation. -/
def vlogic (f : Nat → Nat → Nat) (o : VOp) (s : State) : Out :=
  velems 0x31 2 okAny [o.va, o.vb] (fun _ l i => (f (velem (src l 0) o.w i) (velem (src l 1) o.w i), 0)) o s

/-- R249: vand. -/
def execVand (o : VOp) (s : State) : Out := vlogic (· &&& ·) o s
/-- R249: vor. -/
def execVor (o : VOp) (s : State) : Out := vlogic (· ||| ·) o s
/-- R249: vxor. -/
def execVxor (o : VOp) (s : State) : Out := vlogic (· ^^^ ·) o s
/-- R249: vandn. -/
def execVandn (o : VOp) (s : State) : Out := vlogic (fun a b => a ^^^ (a &&& b)) o s

/-- Shift left in w bits. -/
def shlElem (w a k : Nat) : Nat := a * 2 ^ k % 2 ^ w
/-- Shift right in w bits. -/
def shrElem (_w a k : Nat) : Nat := a / 2 ^ k
/-- Arithmetic shift right in w bits. -/
def sarElem (w a k : Nat) : Nat := wrap w (toSigned w a / (2 ^ k : Nat))

/-- A shift by a register, modulo the width. -/
def vshiftReg (f : Nat → Nat → Nat → Nat) (o : VOp) (s : State) : Out :=
  velems 0x31 2 okInt [o.va, o.vb] (fun _ l i => (f o.w (velem (src l 0) o.w i) (velem (src l 1) o.w i % o.w), 0)) o s

/-- A shift by the immediate of VC. -/
def vshiftImm (f : Nat → Nat → Nat → Nat) (o : VOp) (s : State) : Out :=
  velems 0x31 2 okInt [o.va] (fun _ l i => (f o.w (velem (src l 0) o.w i) o.vc.val, 0)) o s

/-- R249: vshl. -/
def execVshl (o : VOp) (s : State) : Out := vshiftReg shlElem o s
/-- R249: vshr. -/
def execVshr (o : VOp) (s : State) : Out := vshiftReg shrElem o s
/-- R249: vsar. -/
def execVsar (o : VOp) (s : State) : Out := vshiftReg sarElem o s
/-- R249: vshli. -/
def execVshli (o : VOp) (s : State) : Out := vshiftImm shlElem o s
/-- R249: vshri. -/
def execVshri (o : VOp) (s : State) : Out := vshiftImm shrElem o s
/-- R249: vsari. -/
def execVsari (o : VOp) (s : State) : Out := vshiftImm sarElem o s

/-! ## Float arithmetic (11 R250) -/

/-- The float format of a component. -/
def FmtKind.fltFmt : FmtKind → FloatFmt
  | .flt f => f
  | .cflt f => f
  | _ => fp32

/-- Round an exact result with its flags. -/
def FloatFmt.finish (f : FloatFmt) (env : FEnv) (r : Val × Flags) : FRes :=
  let (x, fl) := f.round env r.1
  (x, fl ||| r.2)

/-- A two-operand float operation on components. -/
def vflt2 (lat : Nat) (ok : FmtKind → Bool) (f : FloatFmt → FEnv → Nat → Nat → FRes) (o : VOp) (s : State) : Out :=
  let k := o.kind
  velems 0x32 lat ok [o.va, o.vb] (fun s l i =>
    perComp2 k.complex k.cw (f k.fltFmt (s.env o.rnd.val)) (velem (src l 0) o.w i) (velem (src l 1) o.w i)) o s

/-- A one-operand float operation on components. -/
def vflt1 (lat : Nat) (ok : FmtKind → Bool) (f : FloatFmt → FEnv → Nat → FRes) (o : VOp) (s : State) : Out :=
  let k := o.kind
  velems 0x32 lat ok [o.va] (fun s l i => perComp k.complex k.cw (f k.fltFmt (s.env o.rnd.val)) (velem (src l 0) o.w i)) o s

/-- Exact a * b + c: a NaN among the inputs gives a NaN without a flag (06 R137). -/
def fmaVal (rm : Nat) (a b c : Val) : Val × Flags :=
  if a.isNan || b.isNan || c.isNan then (.nan, 0)
  else
    let (p, f) := a.mul b
    let (r, g) := p.add rm c
    (r, f ||| g)

/-- A fused form: the signs of the product and of the addend. -/
def vfused (negP negC : Bool) (o : VOp) (s : State) : Out :=
  let f := o.kind.fltFmt
  velems 0x32 4 okFlt [o.va, o.vb, o.vc] (fun s l i =>
    let env := s.env o.rnd.val
    let a := f.decIn env (velem (src l 0) o.w i)
    let b := f.decIn env (velem (src l 1) o.w i)
    let c := f.decIn env (velem (src l 2) o.w i)
    f.finish env (fmaVal env.rm (if negP then a.neg else a) b (if negC then c.neg else c))) o s

/-- R250: vfadd. -/
def execVfadd (o : VOp) (s : State) : Out :=
  vflt2 4 okFltC (fun f env x y => f.finish env ((f.decIn env x).add env.rm (f.decIn env y))) o s
/-- R250: vfsub. -/
def execVfsub (o : VOp) (s : State) : Out :=
  vflt2 4 okFltC (fun f env x y => f.finish env ((f.decIn env x).add env.rm (f.decIn env y).neg)) o s
/-- R250: vfmul. -/
def execVfmul (o : VOp) (s : State) : Out :=
  vflt2 4 okFlt (fun f env x y => f.finish env ((f.decIn env x).mul (f.decIn env y))) o s
/-- R250: vfmin. -/
def execVfmin (o : VOp) (s : State) : Out := vflt2 2 okFlt (fun f env x y => (f.minmax env false x y, 0)) o s
/-- R250: vfmax. -/
def execVfmax (o : VOp) (s : State) : Out := vflt2 2 okFlt (fun f env x y => (f.minmax env true x y, 0)) o s
/-- R250: vfabs. -/
def execVfabs (o : VOp) (s : State) : Out := vflt1 2 okFlt (fun f _ x => (x % 2 ^ (f.w - 1), 0)) o s
/-- R250: vfneg. -/
def execVfneg (o : VOp) (s : State) : Out := vflt1 2 okFltC (fun f _ x => (x ^^^ 2 ^ (f.w - 1), 0)) o s
/-- R250: vfdiv. -/
def execVfdiv (o : VOp) (s : State) : Out :=
  vflt2 1 okFlt (fun f env x y => f.finish env ((f.decIn env x).div (f.decIn env y))) o s
/-- R250: vfsqrt. -/
def execVfsqrt (o : VOp) (s : State) : Out := vflt1 1 okFlt (fun f env x => f.finish env (f.decIn env x).sqrt) o s
/-- R250: vfma. -/
def execVfma (o : VOp) (s : State) : Out := vfused false false o s
/-- R250: vfms. -/
def execVfms (o : VOp) (s : State) : Out := vfused false true o s
/-- R250: vfnma. -/
def execVfnma (o : VOp) (s : State) : Out := vfused true false o s

/-! ## Complex products (11 R251, R252) -/

/-- One component of a CI16 product, in units of 2^-30: rounded once to Q1.15 and clipped. -/
def q15 (rm : Nat) (x : Int) : FRes := clips { w := 16, signed := true } (roundInt rm (decide (x < 0)) x.natAbs (-15))

/-- CMacCI16 (R252). -/
def cmacInt (rm : Nat) (conj acc : Bool) (a b c : Nat) : FRes :=
  let sg (x : Nat) : Int := toSigned 16 x
  let ar := sg a
  let ai := sg (a / 65536)
  let br := sg b
  let bi := if conj then -(sg (b / 65536)) else sg (b / 65536)
  let pr := ar * br - ai * bi + (if acc then sg c * 32768 else 0)
  let im := ar * bi + ai * br + (if acc then sg (c / 65536) * 32768 else 0)
  let (qr, f) := q15 rm pr
  let (qi, g) := q15 rm im
  (qr + qi * 65536, f ||| g)

/-- The exact sum of products x1 * y1 + x2 * y2 and an addend: a NaN input gives a NaN without a flag. -/
def sumProd (rm : Nat) (x1 y1 x2 y2 : Val) (c : Option Val) : Val × Flags :=
  if x1.isNan || y1.isNan || x2.isNan || y2.isNan || (c.map Val.isNan).getD false then (.nan, 0)
  else
    let (p, f) := x1.mul y1
    let (q, g) := x2.mul y2
    let (t, h) := p.add rm q
    match c with
    | none => (t, f ||| g ||| h)
    | some c =>
      let (u, i) := t.add rm c
      (u, f ||| g ||| h ||| i)

/-- The CBF16 product of R252. -/
def cmacFlt (env : FEnv) (conj acc : Bool) (a b c : Nat) : FRes :=
  let d (x : Nat) : Val := bf16.decIn env (x % 65536)
  let ar := d a
  let ai := d (a / 65536)
  let br := d b
  let bi := if conj then (d (b / 65536)).neg else d (b / 65536)
  let (re, f) := bf16.finish env (sumProd env.rm ar br ai.neg bi (if acc then some (d c) else none))
  let (im, g) := bf16.finish env (sumProd env.rm ar bi ai br (if acc then some (d (c / 65536)) else none))
  (re + im * 65536, f ||| g)

/-- A complex product. -/
def vcplx (conj acc : Bool) (o : VOp) (s : State) : Out :=
  velems 0x33 4 okCplx ([o.va, o.vb] ++ (if acc then [o.vc] else [])) (fun s l i =>
    let env := s.env o.rnd.val
    let a := velem (src l 0) 32 i
    let b := velem (src l 1) 32 i
    let c := velem (src l 2) 32 i
    if o.kind = .cflt bf16 then cmacFlt env conj acc a b c else cmacInt env.rm conj acc a b c) o s

/-- R251: vcmul. -/
def execVcmul (o : VOp) (s : State) : Out := vcplx false false o s
/-- R251: vcmac. -/
def execVcmac (o : VOp) (s : State) : Out := vcplx false true o s
/-- R251: vcmulj. -/
def execVcmulj (o : VOp) (s : State) : Out := vcplx true false o s
/-- R251: vcmacj. -/
def execVcmacj (o : VOp) (s : State) : Out := vcplx true true o s
/-- R251: vcconj: -32768 maps to 32767 and sets SAT; CBF16 inverts the sign bit. -/
def execVcconj (o : VOp) (s : State) : Out :=
  velems 0x33 4 okCplx [o.va] (fun _ l i =>
    let a := velem (src l 0) 32 i
    if o.kind = .cflt bf16 then (a ^^^ 0x80000000, 0)
    else
      let (im, f) := clips { w := 16, signed := true } (-(toSigned 16 (a / 65536)))
      (a % 65536 + im * 65536, f)) o s

/-! ## Compares and select (11 R253) -/

/-- Formats that eq and ne accept. -/
def okEq : FmtKind → Bool
  | .flt f => okFlt (.flt f)
  | .cflt _ => true
  | k => okIntC k

/-- Formats that lt and le accept. -/
def okLt : FmtKind → Bool
  | .flt f => okFlt (.flt f)
  | k => okInt k

/-- Two elements are equal: every component is, and none is a NaN. -/
def elemEq (env : FEnv) (k : FmtKind) (x y : Nat) : Bool :=
  let one (x y : Nat) : Bool := (kindVal env k x).cmp (kindVal env k y) == some .eq
  if k.complex then one (x % 2 ^ k.cw) (y % 2 ^ k.cw) && one (x / 2 ^ k.cw % 2 ^ k.cw) (y / 2 ^ k.cw % 2 ^ k.cw) else one x y

/-- The order of two real elements. -/
def elemCmp (env : FEnv) (k : FmtKind) (x y : Nat) : Option Ordering := (kindVal env k x).cmp (kindVal env k y)

/-- A compare: bit i of vd for element i, the bits above n zero. -/
def vcmp (ok : FmtKind → Bool) (f : FEnv → FmtKind → Nat → Nat → Bool) (o : VOp) (s : State) : Out :=
  complete do
    s.ready (s.watched ([o.va, o.vb] ++ o.maskReg) ++ (o.oldReg.map fun r => (true, r.val)))
    guardFmt (ok o.kind) s o.fmt.val
    let (xs, pops) ← s.vread [] [o.va, o.vb]
    guardWait (s.canAppend o.vd) false s
    let old := s.rv o.vd
    let bitOf (i : Nat) : Bool :=
      if o.active s i then f (s.env o.rnd.val) o.kind (velem (src xs 0) o.w i) (velem (src xs 1) o.w i)
      else !o.ag && old.getLsbD i
    let x := vpack 1 ((List.range o.n).map fun i => b2n (bitOf i))
    .ok (((s.popStrips pops).setVec o.vd x 2 0x34).retire (vecRet o 0x34 2))

/-- R253: vcmp.eq. -/
def execVcmpEq (o : VOp) (s : State) : Out := vcmp okEq elemEq o s
/-- R253: vcmp.ne. -/
def execVcmpNe (o : VOp) (s : State) : Out := vcmp okEq (fun e k x y => !elemEq e k x y) o s
/-- R253: vcmp.lt. -/
def execVcmpLt (o : VOp) (s : State) : Out := vcmp okLt (fun e k x y => elemCmp e k x y == some .lt) o s
/-- R253: vcmp.le. -/
def execVcmpLe (o : VOp) (s : State) : Out :=
  vcmp okLt (fun e k x y => elemCmp e k x y == some .lt || elemCmp e k x y == some .eq) o s
/-- R253: vsel selects by the bits of v[VC]. -/
def execVsel (o : VOp) (s : State) : Out :=
  velems 0x34 2 okAny [o.va, o.vb, o.vc] (fun _ l i =>
    (velem (if (src l 2).getLsbD i then src l 0 else src l 1) o.w i, 0)) o s

/-! ## Moves and permutes (11 R254) -/

/-- R254: vmov. -/
def execVmov (o : VOp) (s : State) : Out := velems 0x35 2 okAny [o.va] (fun _ l i => (velem (src l 0) o.w i, 0)) o s

/-- R254: vsplat. -/
def execVsplat (o : VOp) (s : State) : Out :=
  complete do
    s.ready ([(false, o.b.val)] ++ s.watched o.maskReg ++ (o.oldReg.map fun r => (true, r.val)))
    guardFmt (okAny o.kind) s o.fmt.val
    guardWait (s.canAppend o.vd) false s
    let x := (o.result s fun _ => ((s.ra o.b).toNat % 2 ^ o.w, 0)).1
    .ok ((s.setVec o.vd x 2 0x35).retire (vecRet o 0x35 2))

/-- A c-register result of class Vector simple. -/
def State.setCVec (s : State) (r : CReg) (x : Word) : State := s.onHart (·.setCFix r (untagged x) 2 0x35)

/-- R254: vext. -/
def execVext (o : VOp) (s : State) : Out :=
  complete do
    s.ready ([(false, o.b.val)] ++ s.watched [o.va])
    guardFmt (okAny o.kind) s o.fmt.val
    let (xs, pops) ← s.vread [] [o.va]
    let k := (s.ra o.b).toNat
    let e := if k < o.n then velem (src xs 0) o.w k else 0
    let sx : Bool := match o.kind with | .int f => f.signed | _ => false
    let x := if sx then BitVec.ofInt 64 (toSigned o.w e) else w64 e
    .ok (((s.popStrips pops).setCVec o.cc x).retire (vecRet o 0x35 2))

/-- R254: vins, which reads vd. On a bound read stream it reads what the register holds and pops nothing (log 82). -/
def execVins (o : VOp) (s : State) : Out :=
  complete do
    s.ready [(false, o.b.val), (false, o.cc.val), (true, o.vd.val)]
    guardFmt (okAny o.kind) s o.fmt.val
    guardWait (s.canAppend o.vd) false s
    let k := (s.ra o.b).toNat
    let old := s.rv o.vd
    let x := vpack o.w ((List.range o.n).map fun i => if i = k then (s.ra o.cc).toNat % 2 ^ o.w else velem old o.w i)
    .ok ((s.setVec o.vd x 2 0x35).retire (vecRet o 0x35 2))

/-- R254: vperm. -/
def execVperm (o : VOp) (s : State) : Out :=
  velems 0x35 2 okAny [o.va, o.vb] (fun _ l i => (velem (src l 0) o.w (velem (src l 1) o.w i % o.n), 0)) o s

/-- Element j of two registers side by side. -/
def pairElem (a b : Vec) (w n j : Nat) : Nat := if j < n then velem a w j else velem b w (j - n)

/-- R254: vshuf. -/
def execVshuf (o : VOp) (s : State) : Out :=
  velems 0x35 2 okAny [o.va, o.vb, o.vc] (fun _ l i =>
    (pairElem (src l 0) (src l 1) o.w o.n (velem (src l 2) o.w i % (2 * o.n)), 0)) o s

/-- R254: vslide. -/
def execVslide (o : VOp) (s : State) : Out :=
  complete do
    s.ready ([(false, o.b.val)] ++ s.watched ([o.va, o.vb] ++ o.maskReg) ++ (o.oldReg.map fun r => (true, r.val)))
    guardFmt (okAny o.kind) s o.fmt.val
    let (xs, pops) ← s.vread [] [o.va, o.vb]
    guardWait (s.canAppend o.vd) false s
    let k := min (s.ra o.b).toNat o.n
    let x := (o.result s fun i => (pairElem (src xs 0) (src xs 1) o.w o.n (i + k), 0)).1
    .ok (((s.popStrips pops).setVec o.vd x 2 0x35).retire (vecRet o 0x35 2))

/-- A count over the active mask bits of va. -/
def vmaskOp (f : VOp → List Nat → Nat) (o : VOp) (s : State) : Out :=
  complete do
    s.ready (s.watched ([o.va] ++ o.maskReg))
    guardFmt (okAny o.kind) s o.fmt.val
    let (xs, pops) ← s.vread [] [o.va]
    let set := (List.range o.n).filter fun i => o.active s i && (src xs 0).getLsbD i
    .ok (((s.popStrips pops).setCVec o.cc (w64 (f o set))).retire (vecRet o 0x35 2))

/-- R254: vmpopc. -/
def execVmpopc (o : VOp) (s : State) : Out := vmaskOp (fun _ l => l.length) o s
/-- R254: vmfirst. -/
def execVmfirst (o : VOp) (s : State) : Out := vmaskOp (fun o l => l.headD o.n) o s

/-! ## Reductions (06 R150, 11 R255) -/

/-- One level of the tree. -/
def pairUp {α : Type} (f : α → α → α) : List α → List α
  | x :: y :: r => f x y :: pairUp f r
  | l => l

/-- The tree over 2^levels lanes. -/
def treeOf {α : Type} (f : α → α → α) : Nat → List α → List α
  | 0, l => l
  | n + 1, l => treeOf f n (pairUp f l)

/-- The root of the tree, with the start value joined last. -/
def reduce {α : Type} (f : α → α → α) (z : α) (start : Option α) (l : List α) : α :=
  let r := (treeOf f 7 l).headD z
  match start with
  | some x => f x r
  | none => r

/-- A reduction: `f` reduces the start value, if any, and the lanes, none of an inactive lane. -/
def vreduce (ok : FmtKind → Bool) (f : FmtKind → FEnv → Option Nat → List (Option Nat) → Nat × Flags) (o : VOp) (s : State) : Out :=
  complete do
    let hasStart := o.b.val % 2 == 1
    s.ready (s.watched ([o.va] ++ (if hasStart then [o.vc] else []) ++ o.maskReg))
    guardFmt (ok o.kind) s o.fmt.val
    let (xs, pops) ← s.vread [] ([o.va] ++ (if hasStart then [o.vc] else []))
    guardWait (s.canAppend o.vd) false s
    let lanes := (List.range o.n).map fun i => if o.active s i then some (velem (src xs 0) o.w i) else none
    let (x, fl) := f o.kind (s.env o.rnd.val) (if hasStart then some (velem (src xs 1) o.w 0) else none) lanes
    .ok ((((s.popStrips pops).setFlags fl).setVec o.vd (BitVec.ofNat 512 x) 1 0x36).retire (vecRet o 0x36 1))

/-- An integer reduction at the element width. -/
def vreduceInt (ident : IntFmt → Nat) (f : IntFmt → Nat → Nat → Nat) (o : VOp) (s : State) : Out :=
  vreduce okInt (fun k _ start l =>
    let g := k.intFmt
    (reduce (f g) (ident g) start (l.map fun e => e.getD (ident g)), 0)) o s

/-- R255: vredsum, with 64-bit wrapping nodes. -/
def execVredsum (o : VOp) (s : State) : Out :=
  vreduce okInt (fun k _ start l =>
    let g := k.intFmt
    let wide (x : Nat) : Nat := wrap 64 (g.val x)
    (reduce (fun a b => (a + b) % 2 ^ 64) 0 (start.map wide) (l.map fun e => (e.map wide).getD 0), 0)) o s
/-- R255: vredmin. -/
def execVredmin (o : VOp) (s : State) : Out := vreduceInt (fun g => g.enc g.hi) (fun g a b => if g.val a ≤ g.val b then a else b) o s
/-- R255: vredmax. -/
def execVredmax (o : VOp) (s : State) : Out := vreduceInt (fun g => g.enc g.lo) (fun g a b => if g.val a ≤ g.val b then b else a) o s
/-- R255: vredand. -/
def execVredand (o : VOp) (s : State) : Out := vreduceInt (fun g => 2 ^ g.w - 1) (fun _ a b => a &&& b) o s
/-- R255: vredor. -/
def execVredor (o : VOp) (s : State) : Out := vreduceInt (fun _ => 0) (fun _ a b => a ||| b) o s
/-- R255: vredxor. -/
def execVredxor (o : VOp) (s : State) : Out := vreduceInt (fun _ => 0) (fun _ a b => a ^^^ b) o s

/-- A float sum tree (06 R150): FP32 nodes, each rounded; the result rounded once to the format. FO0 flushes the result of a node of every
format, FI0 none of its inputs (log 66). -/
def fltSum (f : FloatFmt) (env : FEnv) (start : Option Nat) (l : List (Option Nat)) : FRes :=
  let node (a b : Nat × Flags) : Nat × Flags :=
    let (x, fl) := fp32.finish env ((fp32.dec a.1).add env.rm (fp32.dec b.1))
    (x, fl ||| a.2 ||| b.2)
  let wide (x : Nat) : Nat × Flags := ((fp32.round { env with flush := 0 } (f.decIn env x)).1, 0)
  let z : Nat × Flags := (0x80000000, 0)
  let (r, fl) := reduce node z (start.map wide) (l.map fun e => (e.map wide).getD z)
  let (y, g) := if f.w = 32 then (r, 0) else f.round env (fp32.dec r)
  (y, fl ||| g)

/-- R255, R150: vfredsum; CBF16 reduces its parts in two trees. -/
def execVfredsum (o : VOp) (s : State) : Out :=
  vreduce okFltC (fun k env start l =>
    if k.complex then
      let (re, f) := fltSum k.fltFmt env (start.map (· % 65536)) (l.map fun e => e.map (· % 65536))
      let (im, g) := fltSum k.fltFmt env (start.map (· / 65536)) (l.map fun e => e.map (· / 65536))
      (re + im * 65536, f ||| g)
    else fltSum k.fltFmt env start l) o s

/-- A float minimum or maximum reduction. -/
def vreduceMm (max : Bool) (o : VOp) (s : State) : Out :=
  vreduce okFlt (fun k env start l =>
    let f := k.fltFmt
    (reduce (f.minmax env max) f.nan start (l.map fun e => e.getD f.nan), 0)) o s

/-- R255: vfredmin. -/
def execVfredmin (o : VOp) (s : State) : Out := vreduceMm false o s
/-- R255: vfredmax. -/
def execVfredmax (o : VOp) (s : State) : Out := vreduceMm true o s

/-! ## Conversions (11 R256) -/

/-- R256: vcvt of the part that head B names; its latency is 3. The other parts of vd are those of the register, also of a bound read
stream, of which nothing is popped (log 82). -/
def execVcvt (o : VOp) (s : State) : Out :=
  complete do
    let dst := o.vc.val
    let wd := fmtWidth dst
    let nd := 512 / wd
    let p := o.b.val
    let narrow := decide (wd < o.w)
    s.ready (s.watched ([o.va] ++ o.maskReg) ++ (if narrow then [(true, o.vd.val)] else o.oldReg.map fun r => (true, r.val)))
    guardFmt (cvtReal o.fmt.val || cvtComplex o.fmt.val) s o.fmt.val
    guardFmt (if cvtReal o.fmt.val then cvtReal dst else cvtComplex dst) s dst
    let (xs, pops) ← s.vread [] [o.va]
    guardWait (s.canAppend o.vd) false s
    let old := s.rv o.vd
    let elem (j : Nat) : FRes :=
      if narrow && (decide (j < p * o.n) || decide (p * o.n + o.n ≤ j)) then (velem old wd j, 0)
      else if o.active s j then convert (s.env o.rnd.val) o.kind (fmtKind dst) (velem (src xs 0) o.w (if narrow then j - p * o.n else p * nd + j))
      else (o.inactive old wd j, 0)
    let l := (List.range nd).map elem
    .ok ((((s.popStrips pops).setFlags (orFlags (l.map (·.2)))).setVec o.vd (vpack wd (l.map (·.1))) 3 0x36).retire (vecRet o 0x36 3))

end Sys2Proof.Machine
end

