-- ==== Sys2Proof/Machine/VectorMem.lean ====
section
/-! DEFINITION. Vector loads and stores, decoding loads and encoding stores (11 R257 to R260). -/

namespace Sys2Proof.Machine

/-- ILLEGAL_INSTRUCTION of an instruction that decode accepted (09 R196). -/
def illegalInsn {α : Type} (s : State) (i : Instr) (reason : Nat) : R α := raise s 0x00 (insnWord i) (w64 (0x100 * reason))

/-- Steps 4 to 11 of R29 for one range of a vector access, and the element's own alignment. -/
def State.vcheck (s : State) (c : Cap) (creg : Nat) (kind : Nat) (need : Need) (aligned : Bool) (acc : Nat × Word × Nat) : R (State × VAcc) := do
  let (i, a, n) := acc
  s.capRange c creg a kind n need
  let (s, x) ← s.resolve { creg := creg, kind := kind, need := need, size := n, eva := a } 2 a n
  guardTrap (!aligned || a.toNat % n == 0) s 0x14 a (einfo kind s.user creg 2 0 n)
  .ok (s, { i := i, a := a, n := n, span := x })

/-- Check ranges in order; the first failure decides. -/
def State.vcheckAll (s : State) (c : Cap) (creg kind : Nat) (need : Need) (aligned : Bool) : List (Nat × Word × Nat) → R (State × List VAcc)
  | [] => .ok (s, [])
  | e :: r =>
    match s.vcheck c creg kind need aligned e with
    | .error x => .error x
    | .ok (s, v) =>
      match s.vcheckAll c creg kind need aligned r with
      | .error x => .error x
      | .ok (s, l) => .ok (s, v :: l)

/-- Go through resolved ranges with a check that may trap or wait. -/
def vEach (f : VAcc → R Unit) : List VAcc → R Unit
  | [] => .ok ()
  | v :: r =>
    match f v with
    | .ok () => vEach f r
    | .error e => .error e

/-- The entries of a vector store whose values are at resolved ranges, after the range-lock check over all of them (R258, R259); it
waits first for the hart's queued copies to begin (12 R262). -/
def State.vstores (s : State) (creg n : Nat) (l : List (VAcc × Nat)) : R (List SbEntry) := do
  guardWait s.hart.issued false s
  vEach (fun v => s.checkLock 1 creg v.n v.a v.span.keys false) (l.map (·.1))
  .ok (s.entries { n := n, creg := creg } (l.flatMap fun e => e.1.span.bytes e.1.a e.2))

/-- A vector store's turn: its checks, once, and then its entries one by one as they find room (R259). -/
def storeTurn (s : State) (r : Ret) (checks : R (State × List SbEntry)) : Out :=
  complete do
    match s.hart.entering with
    | some l =>
      let s ← s.enterStore l
      .ok (s.retire r)
    | none =>
      let (s, l) ← checks
      let s ← s.enterNew l
      .ok (s.retire r)

/-- The address forms of R257. -/
inductive VAddr where
  | unit | strided | indexed

/-- The c-registers an address form reads beside B. -/
def VAddr.cregs (f : VAddr) (o : VOp) : List (Bool × Nat) :=
  match f with
  | .strided => [(false, o.cc.val)]
  | _ => []

/-- The v-registers it reads. -/
def VAddr.vregs (f : VAddr) (o : VOp) : List VReg :=
  match f with
  | .indexed => [o.vb]
  | _ => []

/-- The address of element i. -/
def VAddr.at (f : VAddr) (o : VOp) (s : State) (base : Word) (ix : Vec) (i : Nat) : Word :=
  let w8 := o.w / 8
  match f with
  | .unit => base + BitVec.ofInt 64 (toSigned 10 (o.va.val + o.vb.val * 32) * 64) + w64 (i * w8)
  | .strided => base + w64 i * s.ra o.cc
  | .indexed => base + BitVec.ofInt 64 (toSigned o.w (velem ix o.w i)) * w64 w8

/-- The active elements of an access with their addresses. -/
def VAddr.list (f : VAddr) (o : VOp) (s : State) (base : Word) (ix : Vec) : List (Nat × Word × Nat) :=
  ((List.range o.n).filter (o.active s)).map fun i => (i, f.at o s base ix i, o.w / 8)

/-- The checks before any element (R258): steps 1 to 3 of R29 and the capability's format. -/
def State.vbase (s : State) (o : VOp) (kind : Nat) : R Unit := do
  let c := s.rc o.b
  s.capUse c o.b.val c.addr kind (o.w / 8)
  guardFmt (c.fmt == 0 || c.fmt == o.fmt.val) s c.fmt

/-- A vector load (R258). -/
def vload (f : VAddr) (o : VOp) (s : State) : Out :=
  complete do
    s.ready ([(false, o.b.val)] ++ f.cregs o ++ s.watched (f.vregs o ++ o.maskReg) ++ (o.oldReg.map fun r => (true, r.val)))
    guardFmt (okAny o.kind) s o.fmt.val
    let (xs, pops) ← s.vread [] (f.vregs o)
    guardWait (s.canAppend o.vd) false s
    s.vbase o 0
    let c := s.rc o.b
    let (s, l) ← s.vcheckAll c o.b.val 0 { rd := true } true (f.list o s c.addr (src xs 0))
    let (s, vals, _, ev) ← s.loads 0 o.b.val false false l
    let got := l.zip vals
    let x := (o.result s fun i => (((got.find? (·.1.i == i)).map (·.2)).getD 0, 0)).1
    .ok (((s.popStrips pops).setVec o.vd x 1 0x37).retire { s := o.s, maj := 0x37, width := widthIx o.fmt.val, ev := [0x12, 0x03] ++ ev })

/-- A vector store (R258, R259): VD names the data register. Where it and vb are read streams, vb's strip is popped first (log 83). -/
def vstore (f : VAddr) (o : VOp) (s : State) : Out :=
  storeTurn s { s := o.s, maj := 0x37, width := widthIx o.fmt.val, ev := [0x12, 0x04] } do
    s.ready ([(false, o.b.val)] ++ f.cregs o ++ s.watched (f.vregs o ++ [o.vd] ++ o.maskReg))
    guardFmt (okAny o.kind) s o.fmt.val
    let (xs, pops) ← s.vread [] (f.vregs o ++ [o.vd])
    s.vbase o 1
    let c := s.rc o.b
    let ix := match f with | .indexed => src xs 0 | _ => 0
    let data := xs.getLastD 0
    let (s, l) ← s.vcheckAll c o.b.val 1 { wr := true } true (f.list o s c.addr ix)
    let es ← s.vstores o.b.val (o.w / 8) (l.map fun v => (v, velem data o.w v.i))
    .ok (s.popStrips pops, es)

/-- R257: vld. -/
def execVld (o : VOp) (s : State) : Out := vload .unit o s
/-- R257: vst. -/
def execVst (o : VOp) (s : State) : Out := vstore .unit o s
/-- R257: vlds. -/
def execVlds (o : VOp) (s : State) : Out := vload .strided o s
/-- R257: vsts. -/
def execVsts (o : VOp) (s : State) : Out := vstore .strided o s
/-- R257: vldx. -/
def execVldx (o : VOp) (s : State) : Out := vload .indexed o s
/-- R257: vstx. -/
def execVstx (o : VOp) (s : State) : Out := vstore .indexed o s

/-! ## Blocked formats (R260) -/

/-- The checks of R260 before its ranges: the element index and the base. The spec gives MISALIGNED, REASON 1, of a base that is not
64-byte aligned neither EVAL nor SIZE: they are c[B].ADDR and 4; SIZE is 4 also with REASON 2 and in steps 1 to 3 of 01 R29 (log 62). -/
def State.vblocked (s : State) (o : VOp) (kind : Nat) : R (Nat × Nat) := do
  let c := s.rc o.b
  s.capUse c o.b.val c.addr kind 4
  guardFmt (c.fmt == 0x15 || c.fmt == 0x16) s c.fmt
  let e := s.ra o.cc
  guardTrap (e.toNat % 16 == 0) s 0x14 e (einfo kind s.user o.b.val 2 0 4)
  let base := (c.bounds?.map (·.1)).getD 0
  guardTrap (base % 64 == 0) s 0x14 c.addr (einfo kind s.user o.b.val 1 0 4)
  .ok (e.toNat, base)

/-- The ranges of a set of byte offsets: its maximal runs. -/
def runsOf (l : List Nat) : List (Nat × Nat) :=
  l.foldl (fun (r : List (Nat × Nat)) x =>
    match r.getLast? with
    | some (b, n) => if x = b + n then r.dropLast ++ [(b, n + 1)] else if x < b + n then r else r ++ [(x, 1)]
    | none => [(x, 1)]) []

/-- The header offsets, byte by byte, of the blocks that hold some elements. -/
def headerBytes (e2 : Bool) (blog : Nat) (elems : List Nat) : List Nat :=
  ((elems.map (· / blockLen blog)).eraseDups).flatMap fun b => [headerOff e2 blog b, headerOff e2 blog b + 1]

/-- The offset of the byte that holds an element's code. -/
def codeByte (e2 : Bool) (blog e : Nat) : Nat :=
  let r := e % blockLen blog
  elemsOff e2 blog (e / blockLen blog) + (if e2 then r / 2 else r)

/-- A byte among resolved ranges with their values. -/
def byteIn (l : List (VAcc × Nat)) (off : Nat) : Nat :=
  match l.find? (fun e => decide (e.1.i ≤ off) && decide (off < e.1.i + e.1.n)) with
  | some e => e.2 / 256 ^ (off - e.1.i) % 256
  | none => 0

/-- The code of an element. -/
def codeIn (l : List (VAcc × Nat)) (e2 : Bool) (blog e : Nat) : Nat :=
  let b := byteIn l (codeByte e2 blog e)
  if e2 then b / 16 ^ (e % blockLen blog % 2) % 16 else b

/-- R260: VLD.DEC. The bytes of inactive elements are not accessed (R244). -/
def execVldDec (o : VOp) (s : State) : Out :=
  complete do
    s.ready ([(false, o.b.val), (false, o.cc.val)] ++ s.watched o.maskReg ++ (o.oldReg.map fun r => (true, r.val)))
    guardFmt (o.fmt.val == 0x10) s o.fmt.val
    guardWait (s.canAppend o.vd) false s
    let (e, base) ← s.vblocked o 0
    let c := s.rc o.b
    let e2 := c.fmt == 0x15
    let elems := ((List.range 16).filter (o.active s)).map (e + ·)
    let ranges := (runsOf (headerBytes e2 c.blog elems) ++ runsOf (elems.map (codeByte e2 c.blog))).map fun r => (r.1, fromA55 base + w64 r.1, r.2)
    let (s, l) ← s.vcheckAll c o.b.val 0 { rd := true } false ranges
    let (s, vals, _, ev) ← s.loads 0 o.b.val false false l
    let got := l.zip vals
    let env := s.env o.rnd.val
    let one (i : Nat) : FRes :=
      let h := headerOff e2 c.blog ((e + i) / blockLen c.blog)
      fp32.round env (decBlocked env e2 (byteIn got h + 256 * byteIn got (h + 1)) (codeIn got e2 c.blog (e + i)))
    let (x, fl) := o.result s one
    .ok (((s.setFlags fl).setVec o.vd x 1 0x37).retire { s := o.s, maj := 0x37, width := 2, ev := [0x12, 0x03] ++ ev })

/-- The 16 values of a register as R148 takes them: bits and value. -/
def blockVals (env : FEnv) (x : Vec) : List (Nat × Val) :=
  (List.range 16).map fun i => (velem x 32 i, fp32.decIn env (velem x 32 i))

/-- R260: VST.ENC. A report of either range after retirement gives the bytes of the element range as SIZE (log 62). -/
def execVstEnc (o : VOp) (s : State) : Out :=
  storeTurn s { s := o.s, maj := 0x37, width := 2, ev := [0x12, 0x04] } do
    s.ready ([(false, o.b.val), (false, o.cc.val)] ++ s.watched [o.vd])
    guardFmt (o.fmt.val == 0x10) s o.fmt.val
    let (xs, pops) ← s.vread [] [o.vd]
    let (e, base) ← s.vblocked o 1
    let c := s.rc o.b
    let len := blockLen c.blog
    if 16 < len then illegalInsn s (.vstEnc o) 2
    let e2 := c.fmt == 0x15
    let env := s.env o.rnd.val
    let vals := blockVals env (src xs 0)
    let blocks := (List.range (16 / len)).map fun b => encBlock env e2 ((vals.drop (b * len)).take len)
    let headers := packCodes 16 (blocks.map (·.1))
    let codes := packCodes (if e2 then 4 else 8) (blocks.flatMap (·.2.1))
    let nh := 2 * blocks.length
    let ne := if e2 then 8 else 16
    let h := headerOff e2 c.blog (e / len)
    let d := codeByte e2 c.blog e
    let (s, l) ← s.vcheckAll c o.b.val 1 { wr := true } false [(h, fromA55 base + w64 h, nh), (d, fromA55 base + w64 d, ne)]
    let pairs := l.zip [headers, codes]
    let pairs := if h ≤ d then pairs else pairs.reverse
    let es ← s.vstores o.b.val ne pairs
    .ok ((s.popStrips pops).setFlags (orFlags (blocks.map (·.2.2))), es)

end Sys2Proof.Machine
end

