-- ==== Sys2Proof/Machine/Queue.lean ====
section
/-! DEFINITION. Queue-register and stream binding (12 R266 to R269), pattern records (05 R113, R114) and watermark modes
(05 R115). -/

namespace Sys2Proof.Machine

/-! ## Pattern records -/

/-- A pattern record (05 R113). -/
structure Pattern where
  base : Cap
  rowlen : Nat
  cnt1 : Nat
  cnt2 : Nat
  ctrl : Nat
  s1 : Int
  s2 : Int
  d1 : Int
  d2 : Int

/-- The record in 64 bytes read with a tag. -/
def Pattern.ofBytes (v : Nat) (tag : Bool) : Pattern where
  base := { tag := tag, md := w64 (v / 2 ^ 64), addr := w64 v }
  rowlen := bits v 159 128
  cnt1 := bits v 191 160
  cnt2 := bits v 223 192
  ctrl := bits v 255 224
  s1 := toSigned 64 (bits v 319 256)
  s2 := toSigned 64 (bits v 383 320)
  d1 := toSigned 64 (bits v 447 384)
  d2 := toSigned 64 (bits v 511 448)

/-- DIMS. -/
def Pattern.dims (p : Pattern) : Nat := p.ctrl % 4 + 1
/-- FMT. -/
def Pattern.fmt (p : Pattern) : Nat := bits p.ctrl 6 2
/-- DIRW. -/
def Pattern.dirw (p : Pattern) : Bool := bit p.ctrl 7 == 1

/-- Counts and CTRL are valid (05 R114). -/
def Pattern.valid (p : Pattern) : Bool :=
  decide (1 ≤ p.rowlen) && decide (p.rowlen ≤ 2 ^ 24) && decide (1 ≤ p.cnt1) && decide (p.cnt1 ≤ 2 ^ 20) && decide (1 ≤ p.cnt2)
    && decide (p.cnt2 ≤ 2 ^ 20) && decide (p.dims < 4) && (p.dims == 3 || p.cnt2 == 1) && decide (p.ctrl < 256)

/-- The iteration, unused counts and steps left out (05 R111). -/
def Pattern.iter (p : Pattern) : Iter where
  rowlen := p.rowlen
  cnt1 := if p.dims < 2 then 1 else p.cnt1
  cnt2 := if p.dims < 3 then 1 else p.cnt2
  s1 := if p.dims < 2 then 0 else p.s1
  s2 := if p.dims < 3 then 0 else p.s2
  d1 := if p.dims < 2 then 0 else p.d1
  d2 := if p.dims < 3 then 0 else p.d2
  dims := p.dims

/-- The iteration of a stream, whose destination steps are its S steps. -/
def Pattern.streamIter (p : Pattern) : Iter := { p.iter with d1 := p.iter.s1, d2 := p.iter.s2 }

/-- Bytes of an element of a format, at least one. -/
def elemBytes (fmt : Nat) : Nat := max 1 (fmtWidth fmt / 8)

/-- COPY_FAULT at issue (05 R114): EINFO holds REASON and USER. -/
def copyFault {α : Type} (s : State) (reason : Nat) (val : Word) : R α := raise s 0x20 val (einfo 0 s.user 0 reason 0 0)

/-- COPY_FAULT REASON 1 unless a condition holds. -/
def guardCopy (ok : Bool) (s : State) (val : Word) : R Unit := if ok then .ok () else copyFault s 1 val

/-- HANDLE_STATE unless a condition holds. -/
def guardHandle (ok : Bool) (s : State) (reason : Nat) (val : Word) : R Unit := if ok then .ok () else handleState s reason val

/-- Read and validate a pattern record (05 R113, R114): its counts, then its format. -/
def State.readPattern (s : State) (b : CReg) (ok : Pattern → Bool) : R (State × Pattern × List Nat) := do
  let c := s.rc b
  let (s, v, t, ev) ← s.readCap c b.val c.addr 64 64
  let p := Pattern.ofBytes v t
  guardCopy (p.valid && ok p) s c.addr
  guardFmt (fmtDefined p.fmt) s p.fmt
  .ok (s, p, ev)

/-- The watermark mode and shift of a destination (05 R115). -/
def Iter.mode (it : Iter) : Nat × Nat :=
  if it.dims = 1 ∨ (it.d1 = it.rowlen ∧ (it.dims = 2 ∨ it.d2 = it.cnt1 * it.rowlen)) then (0, 0)
  else
    let d := it.d1.toNat
    let k := log2Below 64 d
    if it.d1 = ((2 ^ k : Nat) : Int) ∧ it.rowlen ≤ d ∧ it.rowlen ≤ 8192 ∧ (it.dims = 2 ∨ it.d2 = it.cnt1 * it.d1) then (1, k) else (2, 0)

/-! ## Bindings -/

/-- A q-register of the hart is bound to a port. -/
def Hart.bound (h : Hart) (p : Port) : Bool := h.q.any (· == some p)

/-- Bind or unbind a q-register. -/
def Hart.setQ (h : Hart) (q : QReg) (p : Option Port) : Hart := { h with q := h.q.set q p }

/-- The port of a KIND (12 R267), with what must hold of it. -/
def State.port (s : State) (kind : Nat) (b : CReg) : R Port :=
  match kind with
  | 0 => .ok .mxpush
  | 1 => .ok .mxtok
  | 2 => .ok .cppush
  | 3 => .ok (.taskpop ((s.ra b).toNat % 4))
  | _ =>
    let name := (s.ra b).toNat % 4096
    match s.ownHandle s.hart.ctx name with
    | some _ => .ok (.mbox name)
    | none => handleState s 5 (s.ra b)

/-- R267: QBIND. A second binding of mxpush or cppush traps; decode refuses the kinds that do not exist. -/
def execQbind (n : Fin 4) (q : QReg) (b : CReg) (kind : Fin 16) (s : State) : Out :=
  complete do
    s.readyC (if 3 ≤ kind.val then [b] else [])
    let val := if 3 ≤ kind.val then s.ra b else 0
    guardHandle (s.hart.q[q] == none) s 7 val
    guardHandle (!(kind.val == 0 && s.hart.bound .mxpush) && !(kind.val == 2 && s.hart.bound .cppush)) s 7 val
    let p ← s.port kind.val b
    .ok ((s.onHart (·.setQ q (some p))).retire { s := n, maj := 0x3E })

/-- R267: QUNBIND. -/
def execQunbind (n : Fin 4) (q : QReg) (s : State) : Out :=
  complete do
    guardHandle (s.hart.q[q] != none) s 6 0
    .ok ((s.onHart (·.setQ q none)).retire { s := n, maj := 0x3E })

/-- Free entries of the copy queue (12 R262). -/
def State.copyFree (s : State) : Nat := (if s.miller then 16 else 4) - s.hart.cpq.length

/-- The commands in the matrix queue of a core (12 R262, R279): those of its hart that have not ended, each counted for every command
it stands for, and those of other harts with a part there. -/
def State.mxLoad (s : State) (core : Nat) : Nat :=
  s.cores.foldl (fun n c => (s.hartAt c).mx.queue.foldl (fun n q => if c = core then n + q.seqs.length else if q.parts.any (·.core == core) then n + 1 else n) n) 0

/-- The value a port gives to QPOP, with the state after the pop; none while it waits (12 R268). -/
def State.popPort (s : State) (p : Port) : Option (State × Word) :=
  match p with
  | .mxpush => if s.mxLoad s.cur < 16 then some (s, w64 (16 - s.mxLoad s.cur)) else none
  | .cppush => if 0 < s.copyFree then some (s, w64 s.copyFree) else none
  | .mxtok =>
    match s.hart.mx.tokens with
    | t :: _ => some (s.onHart (·.popToken), t)
    | [] => none
  | .mbox name =>
    match s.handle? name with
    | some h =>
      if h.popped < h.mbox then some (s.modHandle name fun h => { h with popped := h.popped + 1 }, w64 ((h.popped + 1) % 65536))
      else none
    | none => none
  | .taskpop _ => none

/-- R268: QPOP. A token pop is a flush point of the Kneader. -/
def execQpop (n : Fin 4) (c : CReg) (q : QReg) (s : State) : Out :=
  complete do
    match s.hart.q[q] with
    | none => handleState s 6 0
    | some (.taskpop _) => handleState s 6 0
    | some p =>
      let s := if p = .mxtok then s.flushWindow s.cur else s
      let s ← s.pairGate
      if p = .mxtok then s.queueParity badTokens
      match s.popPort p with
      | none => .error (.wait true 0x10 s)
      | some (s, v) => .ok (((s.setX c v).retire { s := n, maj := 0x3E }).pairOnce)

/-! ## Engine issue -/

/-- The check of a capability an engine uses (12 R265, R272): steps 1 to 3 of R29 and its permissions; CREG and SIZE 0. -/
def State.capEngine (s : State) (c : Cap) (kind : Nat) (need : Need) : R Unit := do
  s.capUse c 0 c.addr kind 0
  match c.lacks need with
  | some r => raise s 0x12 c.addr (einfo kind s.user 0 r 0 0)
  | none => .ok ()

/-- The start of a bounding box. -/
def boxAt (a : Word) (lo : Int) : Int := (a.toNat : Int) + lo

/-- The windows and region check of one side (12 R272, step 9): EVAL is the first address of the box, and SIZE, which 01 R30 names for an
access and not for a range, is 0 (log 74). -/
def State.sideR (s : State) (lo : Int) (n kind : Nat) (need : Grant) : R (List Seg) :=
  match s.sideOf lo.toNat n need with
  | .ok l => .ok l
  | .error r => raise s 0x18 (w64 lo.toNat) (einfo kind s.user 0 r 0 0)

/-- The replay pages of n bytes from a virtual address that is outside the aperture span, where they translate; none while a walk
waits. -/
def State.vaPages (s : State) (g : Agent) (a n : Nat) : State × Option (List Nat) :=
  if n = 0 then (s, some [])
  else
    (List.range ((a + n - 1) / 0x10000 + 1 - a / 0x10000)).foldl (fun p i =>
      let va := a55 (w64 ((a / 0x10000 + i) * 0x10000))
      match p.2 with
      | none => p
      | some l =>
        match walk p.1 .other p.1.m.now (dieOf g.core) g.ctx va with
        | .ok (t, e, _) => (t, some (l ++ [pageOfPa (leafPa e va)]))
        | .error (.wait t) => (t, none)
        | .error _ => p) (s, some [])

/-- The replay pages of L1 segments. -/
def segPages (l : List Seg) : List Nat := l.flatMap fun x => x.2.rows.map fun r => pageOfL1 (l1Key x.1 (r * 0x10000))

/-- The replay pages of n destination bytes from a virtual address whose L1 segments are given, of a command of an open pass. -/
def State.boxPages (s : State) (c : CopyCmd) (a : Int) (n : Nat) (segs : List Seg) : State × Option (List Nat) :=
  if !c.pass then (s, some []) else if segs.isEmpty then s.vaPages (c.agent none) a.toNat n else (s, some (segPages segs))

/-- Capture the pages of a destination box in an open replay pass (14 R353). -/
def State.captureBox (s : State) (core : Nat) (own : Bool) (pages : List Nat) : State := pages.foldl (fun s p => s.capture core own p) s

/-- A wait at issue on a windowed command flushes its window (13 R309). -/
def State.flushBusyBut (s : State) (own : Nat → Bool) (srcs dsts : List Seg) : State :=
  (List.range 4).foldl (fun s h => (s.hearth h).locks.foldl (fun s e =>
    if decide (e.2.reason < 2) && decide (0x100000 ≤ e.2.owner) && !own e.2.owner && (srcs ++ dsts).any (fun d => d.1 == h && d.2.overlaps e.2.range) then s.flushOwner e.2.owner
    else s) s) s

/-- The same for operations of every owner. -/
def State.flushBusy (s : State) (srcs dsts : List Seg) : State := s.flushBusyBut (fun _ => false) srcs dsts

/-- A free operation name, free entries and no overlap under R101. -/
def State.canBegin (s : State) (core : Nat) (locks lands srcs dsts : List Seg) : Bool :=
  (s.freeOpn core).isSome && s.entriesFree locks lands && !(s.busy (fun _ => false) srcs dsts)

/-- SBIND's command. -/
def State.streamCmd (s : State) (p : Pattern) : CopyCmd where
  ctx := s.hart.ctx
  gang := s.hart.gang
  hart := s.cur
  user := s.user
  src := p.base.addr
  dstVa := p.base.addr
  it := p.streamIter
  len := p.streamIter.total
  xf := 0
  fmt := p.fmt
  metaVa := 0
  fac := false
  rptc := false
  dh := 0x3FF
  mc := false
  receivers := []
  near := s.hart.ctl.nearctl
  pass := s.hart.rep.phase == 1

/-- Begin a stream: its entries and its operation (05 R128). -/
def State.beginStream (s : State) (cmd : CopyCmd) (write : Bool) (segs : List Seg) : State × Nat :=
  let opn := (s.freeOpn s.cur).getD 0
  let (mode, shift) := cmd.it.mode
  if write then
    let (s, locks) := addEach (fun s x => s.addLock opn 1 x) s segs
    let (s, lands) := s.addLands opn mode shift segs
    let d : Delivery := { dst := .virt cmd.dstVa, slot := none, mode := mode, shift := shift, locks := locks, lands := lands }
    (s.onMod fun m => { m with ops := tset m.ops opn { cmd := cmd, stream := true, write := true, dels := [d], srcLocks := [] } }, opn)
  else
    let (s, locks) := addEach (fun s x => s.addLock opn 0 x) s segs
    (s.onMod fun m => { m with ops := tset m.ops opn { cmd := cmd, stream := true, write := false, dels := [], srcLocks := locks } }, opn)

/-- A stream is bound and begins. It waits while an earlier operation has still to issue or a die-local store of the hart to be performed (04 R100), and
while no operation name or entry is free or an overlap under R101 remains. -/
def State.doBind (v : Nat) (cmd : CopyCmd) (write : Bool) (start : Int) (len : Nat) (segs : List Seg) (s : State) : R (State × Nat) := do
  guardWait (s.hart.issued && !(s.hart.sb.any (·.scope == 1))) false s
  let segs := segs.map s.nearForm
  let (locks, lands, srcs, dsts) := if write then (segs, segs, [], segs) else (segs, [], segs, [])
  guardWait (s.canBegin s.cur locks lands srcs dsts) false (s.flushBusy srcs dsts)
  let (s, pages) := if write then s.boxPages cmd start len segs else (s, some [])
  guardWait pages.isSome false s
  let (s, opn) := (s.captureBox s.cur cmd.pass (pages.getD [])).beginStream cmd write segs
  .ok (s.onHart fun h => { h with streams := tset h.streams v { opn := opn, write := write } }, 0)

/-- R269: SBIND. -/
def execSbind (n : Fin 4) (v : VReg) (b : CReg) (s : State) : Out :=
  complete do
    s.readyC [b]
    let rec0 := s.ra b
    guardHandle (tget? s.hart.streams v.val).isNone s 7 0
    let (s, p, ev) ← s.readPattern b fun _ => true
    let kind := if p.dirw then 7 else 6
    let e := elemBytes p.fmt
    let it := p.iter
    guardCopy (p.base.addr.toNat % e == 0 && p.rowlen % e == 0 && it.s1 % e == 0 && it.s2 % e == 0) s rec0
    s.capEngine p.base kind { rd := !p.dirw, wr := p.dirw, eng := true }
    let (lo, len) := it.box it.s1 it.s2
    let start := boxAt p.base.addr lo
    guardCopy (p.base.fits start len) s rec0
    let segs ← s.sideR start len kind { rd := !p.dirw, wr := p.dirw, eng := true }
    let cmd := s.streamCmd p
    let (s, _) ← s.orHoldFor (.bind v.val cmd p.dirw start len segs) p.base.addr [] (State.doBind v.val cmd p.dirw start len segs)
    .ok ((s.retire { s := n, maj := 0x3E, ev := 0x14 :: ev }).pairOnce)

/-- Unbind a stream (05 R128): a read stream ends at once; a write stream lives on until its appended strips have landed. -/
def State.unbindStream (s : State) (opn : Nat) : State :=
  match tget? s.m.ops opn with
  | none => s
  | some o =>
    if !o.write || o.aborted then (s.dropEntries o.srcLocks []).onMod fun m => { m with ops := tdel m.ops opn }
    else if o.dels.all (·.final) then s.onMod fun m => { m with ops := tdel m.ops opn }
    else s.modOp opn fun o => { o with unbound := true }

/-- R269: SUNBIND retires at once. -/
def execSunbind (n : Fin 4) (v : VReg) (s : State) : Out :=
  complete do
    match tget? s.hart.streams v.val with
    | none => handleState s 6 0
    | some b =>
      let s := s.unbindStream b.opn
      .ok ((s.onHart fun h => { h with streams := tdel h.streams v.val }).retire { s := n, maj := 0x3E })

end Sys2Proof.Machine
end

