-- ==== Sys2Proof/Machine/Copy.lean ====
section
/-! DEFINITION. Copies, watermarks, resume and abort (12 R270 to R275; 05 R117, R119, R126, R129; 07 R159). -/

namespace Sys2Proof.Machine

/-! ## Destinations (12 R271, 05 R120) -/

/-- The destination of a copy: no ring; a ring copy by handle name and key; or a multicast. -/
inductive Dest where
  | plain (name : Nat)
  | ring (name key : Nat) (h : Handle)
  | cast (name : Nat) (l : List (Nat × Nat × Handle))

/-- The Hearth and L1 offset that an address names for the hart. -/
def State.l1Of (s : State) (a : Word) : Option (Nat × Nat) :=
  if inSpan a then
    match window s.cur s.hart.ctl.nearctl a.toNat with
    | .ok (.l1 h o) => some (h, o)
    | .ok (.near t slab w) => some (t / 128, nearOff (t % 128) slab w)
    | _ => none
  else none

/-- The receivers of a multicast over a handle index (R271): key, Hearth and handle of each, or none where they are
inconsistent. The handle that names them is looked up in the issuing hart's Hearth, as R271 and 05 R127 have it; the table of 05 R120 names
the Hearth that the destination capability addresses (log 75). -/
def State.receivers (s : State) (dh : Nat) : Option (List (Nat × Nat × Handle)) :=
  match s.ownHandle s.hart.ctx (s.die * 1024 + dh) with
  | none => none
  | some root =>
    let l := root.trays.map fun t => (t, t / 128, s.ownHandle s.hart.ctx (t / 128 * 1024 + dh))
    let ok := l.all fun e =>
      match e.2.2 with
      | some h => h.repl && (h.ring e.1).isSome
      | none => false
    let hs := l.filterMap fun e => e.2.2.map fun h => (e.1, e.2.1, h)
    match hs with
    | [] => none
    | (_, _, h0) :: _ => if ok && hs.all (fun e => e.2.2.nslot == h0.nslot && e.2.2.slotsz == h0.slotsz) then some hs else none

/-- Step 5 of R272: the destination that DH names. -/
def State.copyDest (s : State) (a : Word) (dh : Nat) (mc : Bool) : R Dest :=
  if mc then
    if dh = 0x3FF then handleState s 9 0
    else match s.receivers dh with
      | some l => .ok (.cast (s.die * 1024 + dh) l)
      | none => handleState s 9 0
  else if dh = 0x3FF then .ok (.plain 0x3FF)
  else
    let loc := s.l1Of a
    let name := (loc.map (·.1)).getD s.die * 1024 + dh
    match s.ownHandle s.hart.ctx name with
    | none => handleState s 5 0
    | some h =>
      if h.track then .ok (.plain name)
      else match loc with
        | none => raise s 0x18 a (einfo 7 s.user 0 0 0 0)
        | some (hh, o) =>
          let key := if h.repl then hh * 128 + o / 512 % 128 else 512
          if (h.ring key).isSome then .ok (.ring name key h) else handleState s 8 0

/-- The L1 ranges of a whole ring copy. -/
def Handle.whole (h : Handle) (hearth key : Nat) : Seg := (hearth, h.range key 0 (h.nslot * h.slotsz))

/-- A capability covers a whole ring copy, at near-window addresses where `nearBase` says so, else at aperture addresses. -/
def Cap.coversRing (c : Cap) (h : Handle) (hearth key : Nat) (near : Bool) (slab : Nat) : Bool :=
  let n := h.nslot * h.slotsz
  if near then c.fits ((0xFD00000000 : Int) + ((h.base / 0x10000 : Nat) - (slab * 128 : Nat) : Int) * 512) n
  else (h.range key 0 n).pieces.all fun p => c.fits (apertureVa hearth p.1).toNat p.2

/-- The authority c[A] over a destination (R271), the slot fit and the box of the destination (05 R114). -/
def State.destOk (s : State) (c : Cap) (d : Dest) (it : Iter) : Bool :=
  let (lo, n) := it.box it.d1 it.d2
  let slotFit (h : Handle) : Bool := n == 0 || (decide (0 ≤ lo) && decide (lo + n ≤ h.slotsz))
  match d with
  | .plain _ => c.fits (boxAt c.addr lo) n
  | .ring name key h =>
    let near := h.repl && decide (0xFD00000000 ≤ c.addr.toNat) && decide (c.addr.toNat < 0xFD00010000)
    slotFit h && c.coversRing h (name / 1024) key near (s.hart.ctl.nearctl.toNat / 2)
  | .cast _ l => l.all fun e => slotFit e.2.2 && c.coversRing e.2.2 e.2.1 e.1 false 0

/-- The L1 ranges a destination may write. -/
def State.destSegs (s : State) (c : Cap) (d : Dest) (it : Iter) : List Seg :=
  let (lo, n) := it.box it.d1 it.d2
  if n = 0 then []
  else
    match d with
    | .plain _ => (segsOf s.cur s.hart.ctl.nearctl (boxAt c.addr lo).toNat n).toOption.getD []
    | .ring name key h => [h.whole (name / 1024) key]
    | .cast _ l => l.map fun e => e.2.2.whole e.2.1 e.1

/-- Step 9 of R272 for a destination. -/
def State.destRegion (s : State) (c : Cap) (d : Dest) (it : Iter) : R Unit :=
  let (lo, n) := it.box it.d1 it.d2
  if n = 0 then .ok ()
  else
    match d with
    | .plain _ =>
      match s.sideR (boxAt c.addr lo) n 7 { rd := false, wr := true, eng := true } with
      | .ok _ => .ok ()
      | .error e => .error e
    | _ =>
      match (s.destSegs c d it).findSome? fun x => (Seg.region (s.ctx s.hart.ctx) x { rd := false, wr := true, eng := true }).map fun r => (x, r) with
      | some (x, r) => raise s 0x18 (apertureVa x.1 ((x.2.pieces.headD (0, 0)).1)) (einfo 7 s.user 0 r 0 0)
      | none => .ok ()

/-! ## Transforms (05 R129) -/

/-- The formats a transform takes. -/
def xfFormat (f : Nat) : Bool := [0x01, 0x02, 0x03, 0x05, 0x06, 0x07, 0x09, 0x0B, 0x0C, 0x10, 0x11, 0x12, 0x13, 0x14, 0x17].contains f

/-- The bits of a group of 4 dense elements. -/
def groupBits (f : Nat) : Nat := 4 * fmtWidth f

/-- Bytes of a dense length that a side without the zero or dropped elements has. -/
def packedLen (dense : Nat) : Nat := dense / 2

/-! ## Carried facets (07 R159) -/

/-- A tile at an L1 place. -/
def State.tileOf (s : State) (p : Option (Nat × Nat)) : Option Tile :=
  p.bind fun e => ((s.hearth e.1).tileAt e.2).map (·.2)

/-- One side of an iteration visits a tile row by row (R159): its step is the tile's PITCH. In a near window or a Tray-local ring,
consecutive addresses are consecutive L1 bytes only within a Tray row, so the tile must lie in one. -/
def rowsOver (t : Tile) (step : Int) (near : Bool) (w0 : Nat) (dims : Nat) : Bool :=
  (if dims = 1 then t.pitch == t.rowBytes else decide (step = t.pitch)) && (!near || decide (w0 % 512 + t.span ≤ 512))

/-- The iteration visits exactly the element bytes of two tiles of one geometry. -/
def carryOk (it : Iter) (a b : Tile) (nearA nearB : Bool) (wA wB : Nat) : Bool :=
  a.rows == b.rows && a.cols == b.cols && a.fmt == b.fmt && rowsOver a it.s1 nearA wA it.dims && rowsOver b it.d1 nearB wB it.dims
    && (if it.dims = 1 then it.rowlen == a.rows * a.rowBytes else it.dims == 2 && it.rowlen == a.rowBytes && it.cnt1 == a.rows)

/-- An address lies in the near window. -/
def inNear (a : Word) : Bool := decide (0xFD00000000 ≤ a.toNat) && decide (a.toNat < 0xFD00010000)

/-- R159 for a copy: every slot of a ring destination must hold such a tile, since the slot is fixed only when the copy begins
(log 15). -/
def State.carries (s : State) (src dst : Word) (d : Dest) (it : Iter) : Bool :=
  match s.tileOf (s.l1Of src) with
  | none => false
  | some a =>
    let slots (h : Handle) (hearth key : Nat) : Bool :=
      (List.range h.nslot).all fun i =>
        match s.tileOf (some (hearth, h.off key (i * h.slotsz))) with
        | some b => carryOk it a b (inNear src) h.repl (src.toNat % 512) 0
        | none => false
    match d with
    | .plain _ =>
      match s.tileOf (s.l1Of dst) with
      | some b => carryOk it a b (inNear src) (inNear dst) (src.toNat % 512) (dst.toNat % 512)
      | none => false
    | .ring name key h => slots h (name / 1024) key
    | .cast _ l => l.all fun e => slots e.2.2 e.2.1 e.1

/-! ## CP.COPY and CP.MCAST (12 R272) -/

/-- Step 3 of R272: the iteration and the dense length, with the address of COPY_FAULT and the events of reading a record. -/
def State.copyShape (s : State) (o : CopyOp) : R (State × Iter × Word × List Nat) := do
  if o.dim.val = 0 then
    let len := (s.ra o.len).toNat
    guardCopy (decide (len < 2 ^ 40)) s (s.ra o.b)
    .ok (s, { rowlen := len, cnt1 := 1, cnt2 := 1, s1 := 0, s2 := 0, d1 := 0, d2 := 0, dims := 1 }, s.ra o.b, [])
  else
    let (s, p, ev) ← s.readPattern o.len fun p => !p.base.tag && p.dims == o.dim.val + 1
    .ok (s, p.iter, s.ra o.len, ev)

/-- Step 6 of R272: the transform rules of R129 and the facet rules of R159. -/
def State.copyRules (s : State) (o : CopyOp) (mc : Bool) (d : Dest) (it : Iter) (val : Word) : R Unit := do
  let f := if o.xf.val = 1 then (s.rc o.b).fmt else (s.rc o.a).fmt
  if o.xf.val ≠ 0 then
    guardFmt (o.dim.val == 0 && xfFormat f) s f
    guardCopy (!mc && !o.fac && it.rowlen * 8 % groupBits f == 0) s val
  if o.fac then guardCopy (s.carries (s.ra o.b) (s.ra o.a) d it) s val

/-- Step 7 of R272: the metadata capability; its length in bytes. -/
def State.copyMeta (s : State) (o : CopyOp) (f : Nat) (it : Iter) (val : Word) : R Nat := do
  if o.xf.val = 0 then .ok 0
  else
    let c := s.rc o.metaReg
    let compact := o.xf.val == 2
    s.capEngine c (if compact then 7 else 6) { rd := !compact, wr := compact, eng := true }
    let n := ceilDiv (it.rowlen * 8 / groupBits f) 2
    guardCopy (c.fits c.addr.toNat n) s val
    .ok n

/-- The source and destination iterations of a dense iteration under a transform. -/
def xfSides (xf : Nat) (it : Iter) : Iter × Iter :=
  if xf = 1 then ({ it with rowlen := packedLen it.rowlen }, it) else if xf = 2 then (it, { it with rowlen := packedLen it.rowlen }) else (it, it)

/-- Sides share a byte: L1 bytes by place, other bytes by address (05 R114). -/
def sidesOverlap (near : BitVec 4) (core : Nat) (a n : Nat) (bsegs : List Seg) (b m : Nat) : Bool :=
  let asegs := (segsOf core near a n).toOption.getD []
  if asegs.isEmpty && bsegs.isEmpty then decide (a < b + m) && decide (b < a + n) && decide (0 < n) && decide (0 < m)
  else segsOverlap asegs bsegs

/-- Step 8 of R272: boxes, authority, slot fit and own overlap. -/
def State.copyBoxes (s : State) (o : CopyOp) (d : Dest) (it : Iter) (nMeta : Nat) : Bool :=
  let (si, di) := xfSides o.xf.val it
  let src := s.rc o.b
  let dst := s.rc o.a
  let m := s.rc o.metaReg
  let (slo, sn) := si.box si.s1 si.s2
  let (dlo, dn) := di.box di.d1 di.d2
  let sa := boxAt src.addr slo
  let da := boxAt dst.addr dlo
  let near := s.hart.ctl.nearctl
  let dsegs := s.destSegs dst d di
  let dva := match d with | .plain _ => (da.toNat, dn) | _ => (0, 0)
  let msegs := (segsOf s.cur near m.addr.toNat nMeta).toOption.getD []
  src.fits sa sn && s.destOk dst d di
    && !(sidesOverlap near s.cur sa.toNat sn dsegs dva.1 dva.2)
    && !(o.xf.val == 1 && sidesOverlap near s.cur m.addr.toNat nMeta dsegs dva.1 dva.2)
    && !(o.xf.val == 2 && sidesOverlap near s.cur sa.toNat sn msegs m.addr.toNat nMeta)

/-- Step 9 of R272: the L1 bytes of source, destination and metadata. -/
def State.copySides (s : State) (o : CopyOp) (d : Dest) (it : Iter) (nMeta : Nat) : R Unit := do
  let (si, di) := xfSides o.xf.val it
  let (slo, sn) := si.box si.s1 si.s2
  let _ ← s.sideR (boxAt (s.ra o.b) slo) sn 6 { rd := true, wr := false, eng := true }
  s.destRegion (s.rc o.a) d di
  let compact := o.xf.val == 2
  let _ ← s.sideR (s.ra o.metaReg).toNat nMeta (if compact then 7 else 6) { rd := !compact, wr := compact, eng := true }

/-- The command that a copy queues. -/
def State.copyCmd (s : State) (o : CopyOp) (mc : Bool) (d : Dest) (it : Iter) (f : Nat) : CopyCmd where
  ctx := s.hart.ctx
  gang := s.hart.gang
  hart := s.cur
  user := s.user
  src := s.ra o.b
  dstVa := s.ra o.a
  it := (xfSides o.xf.val it).2
  len := it.rowlen
  xf := o.xf.val
  fmt := f
  metaVa := if o.xf.val = 0 then 0 else s.ra o.metaReg
  fac := o.fac
  rptc := s.hart.ctl.rptc
  dh := match d with | .plain n => n | .ring n _ _ => n | .cast n _ => n
  mc := mc
  receivers := match d with | .plain _ => [] | .ring n k _ => [(k, n / 1024)] | .cast _ l => l.map fun e => (e.1, e.2.1)
  near := s.hart.ctl.nearctl
  pass := s.hart.rep.phase == 1

/-- A copy takes a free entry of the queue. One of length 0 without a handle is final at once (05 R111). -/
def State.doCopy (cmd : CopyCmd) (s : State) : R State := do
  guardWait (decide (0 < s.copyFree)) true s
  .ok (if cmd.it.total = 0 ∧ cmd.dh % 1024 = 0x3FF then s else s.onHart fun h => { h with cpq := h.cpq ++ [cmd] })

/-- CP.COPY and CP.MCAST: the checks of R272 in order, then the command is queued. -/
def copyForm (mc : Bool) (o : CopyOp) (s : State) : Out :=
  complete do
    s.readyC ([o.b, o.len, o.a] ++ (if o.xf.val = 0 then [] else [o.metaReg]))
    guardHandle (s.hart.bound .cppush) s 6 0
    s.capEngine (s.rc o.b) 6 { rd := true, eng := true }
    let (s, it, val, ev) ← s.copyShape o
    s.capEngine (s.rc o.a) 7 { wr := true, eng := true }
    let d ← s.copyDest (s.ra o.a) o.dh.val mc
    s.copyRules o mc d it val
    let f := if o.xf.val = 1 then (s.rc o.b).fmt else if o.xf.val = 2 then (s.rc o.a).fmt else 0
    let nMeta ← s.copyMeta o f it val
    guardCopy (s.copyBoxes o d it nMeta) s val
    s.copySides o d it nMeta
    let cmd := s.copyCmd o mc d it f
    let s ← s.orHold (.copy cmd) (s.ra o.a) [] (State.doCopy cmd)
    .ok (s.retire { s := o.s, maj := 0x38, ev := 0x14 :: ev })

/-- R272: CP.COPY. -/
def execCpCopy (o : CopyOp) (s : State) : Out := copyForm false o s

/-- R126, R271, R272: CP.MCAST. -/
def execCpMcast (o : CopyOp) (s : State) : Out := copyForm true o s

/-! ## CP.WM, CP.RESUME, CP.ABORT (12 R274, R275) -/

/-- A windowed command names a handle index of its Hearth. -/
def MxCmd.names (c : MxCmd) (i : Nat) : Bool := c.ah == i || c.bh == i || c.dh == i

/-- Flush every window that holds a command naming a handle (13 R309). -/
def State.flushNaming (s : State) (name : Nat) : State :=
  s.cores.foldl (fun s c =>
    if dieOf c = name / 1024 ∧ (s.hartAt c).mx.window.any (·.names (name % 1024)) then s.flushWindow c else s) s

/-- The delivery that fills a slot: the operation's. -/
def State.filler (s : State) (r : SlotRef) (op : Nat) : Option (EngOp × Delivery) :=
  (tget? s.m.ops op).bind fun o => (o.dels.find? fun d => d.slot == some r).map fun d => (o, d)

/-- The length COUNT reports when an operation is done: bytes, or rows in mode 1. -/
def doneCount (len mode rows : Nat) : Nat := if mode = 1 then rows else len

/-- The watermark word (05 R117) of the head slot of a ring copy. -/
def State.wmWord (s : State) (name : Nat) (h : Handle) (key : Nat) : Word :=
  let ab := 0x80000000000 * b2n h.aborted
  match h.ring key with
  | none => w64 ab
  | some r =>
    let x := r.slot r.head
    let ref : SlotRef := { hearth := name / 1024, handle := name % 1024, key := key, slot := r.head }
    match x.st with
    | .free => w64 ab
    | .filling =>
      match s.filler ref x.op with
      | some (_, d) => w64 ((if d.mode = 2 then 0 else d.count) % 2 ^ 40 + d.mode * 2 ^ 40 + 2 ^ 42 * b2n x.frozen + ab)
      | none => w64 ((if x.mode = 2 then 0 else x.len) % 2 ^ 40 + x.mode * 2 ^ 40 + 2 ^ 42 * b2n x.frozen + ab)
    | _ => w64 (x.len % 2 ^ 40 + x.mode * 2 ^ 40 + 2 ^ 44 + ab)

/-- R274: CP.WM never waits. -/
def execCpWm (n : Fin 4) (a b : CReg) (s : State) : Out :=
  complete do
    s.readyC [b]
    let name := (s.ra b).toNat % 4096
    match s.ownHandle s.hart.ctx name with
    | none => handleState s 5 (s.ra b)
    | some _ =>
      let s := s.flushNaming name
      match s.handle? name with
      | some h => .ok ((s.setX a (s.wmWord name h (h.keyFor s.cur))).retire { s := n, maj := 0x38 })
      | none => handleState s 5 (s.ra b)

/-- What an operation name names for a context: a copy engine's operation, or the command that a core's matrix queue names, with
the core whose hart issued it (12 R263). -/
inductive Named where
  | copy (o : EngOp)
  | matrix (core : Nat) (c : MxCmd)

/-- A part of the command is frozen (12 R297). -/
def MxCmd.frozen (c : MxCmd) : Bool := c.parts.any (·.frozen)

/-- A part of the command in the queue of a core is frozen. -/
def MxCmd.frozenAt (c : MxCmd) (core : Nat) : Bool := c.parts.any fun p => p.frozen && p.core == core

/-- The command that the matrix queue of a core names: a frozen one with a part there, else the front of its hart's own, else another
hart's with a part there. -/
def State.mxNamed (s : State) (core : Nat) : Option (Nat × MxCmd) :=
  let pick (f : MxCmd → Bool) : Option (Nat × MxCmd) := s.cores.findSome? fun n => ((s.hartAt n).mx.queue.find? f).map fun c => (n, c)
  (pick (·.frozenAt core)).or ((((s.hartAt core).mx.queue.head?).map fun c => (core, c)).or (pick fun c => c.parts.any (·.core == core)))

/-- The operation that an OPN names. -/
def State.named (s : State) (opn : Nat) : Option Named :=
  let eng := opn / 32
  if eng < 768 then
    match tget? s.m.ops opn with
    | some o => if o.cmd.ctx = s.hart.ctx ∧ !o.aborted then some (.copy o) else none
    | none => none
  else if eng < 1280 ∧ opn % 32 < 8 then
    match s.mxNamed ((eng - 768) * 8 + opn % 32) with
    | some (n, c) => if (s.hartAt n).ctx = s.hart.ctx then some (.matrix n c) else none
    | none => none
  else none

/-- The frozen parts of a matrix command go on (12 R297). -/
def State.mxResume (s : State) (core : Nat) (q : MxCmd) : State :=
  let f (c : MxCmd) : MxCmd := if c.stamp = q.stamp then { c with parts := c.parts.map fun p => { p with frozen := false } } else c
  if !q.frozen then s
  else (s.modHart core fun h => { h with mx := { h.mx with queue := h.mx.queue.map f } }).markFrozen q.lands q.dstSlot false

/-- CP.ABORT of a frozen matrix command: it will end as faulted with MX_MICROPROGRAM, REASON 4 (12 R297). The parts that were frozen
claim nothing more. -/
def State.mxAbort (s : State) (core : Nat) (q : MxCmd) : State :=
  let tray := ((q.parts.find? (·.frozen)).map fun p => trayOf p.core).getD 0
  let stop (p : MxPart) : MxPart := if p.frozen then { p with frozen := false, done := true } else p
  let f (c : MxCmd) : MxCmd :=
    if c.stamp = q.stamp ∧ c.frozen then
      { c with parts := c.parts.map stop, fault := some { cause := 0x27, val := c.dest, info := w64 (0x4400 + tray * 0x10000000000) } }
    else c
  s.modHart core fun h => { h with mx := { h.mx with queue := h.mx.queue.map f } }

/-- R275: CP.RESUME. As an issue it follows the hart's earlier ones and its earlier die-local stores (04 R100). -/
def execCpResume (n : Fin 4) (b : CReg) (s : State) : Out :=
  complete do
    s.needLevel (.cpResume n b) .k
    s.readyC [b]
    let opn := (s.ra b).toNat % 65536
    match s.named opn with
    | none => handleState s 5 (s.ra b)
    | some (.copy o) =>
      let s ← s.pairGate
      guardWait (s.hart.issued && !(s.hart.sb.any (·.scope == 1))) false s
      let s := if o.frozen then s.resume opn else s
      .ok ((s.retire { s := n, maj := 0x38 }).pairOnce)
    | some (.matrix core c) =>
      let s ← s.pairGate
      guardWait (s.hart.issued && !(s.hart.sb.any (·.scope == 1))) false s
      .ok (((s.mxResume core c).retire { s := n, maj := 0x38 }).pairOnce)

/-- R275: CP.ABORT. -/
def execCpAbort (n : Fin 4) (b : CReg) (s : State) : Out :=
  complete do
    s.needLevel (.cpAbort n b) .k
    s.readyC [b]
    let opn := (s.ra b).toNat % 65536
    match s.named opn with
    | none => handleState s 5 (s.ra b)
    | some (.copy o) =>
      let s ← s.pairGate
      let s := if o.frozen then s.abortOp opn else s
      .ok ((s.retire { s := n, maj := 0x38 }).pairOnce)
    | some (.matrix core c) =>
      let s ← s.pairGate
      .ok (((s.mxAbort core c).retire { s := n, maj := 0x38 }).pairOnce)

end Sys2Proof.Machine
end

