-- ==== Sys2Proof/Machine/Buffer.lean ====
section
/-! DEFINITION. Buffer-table and tile instructions (12 R276 to R278; 05 R120 to R125; 07 R153, R157, R168). -/

namespace Sys2Proof.Machine

/-! ## BT.ALLOC (05 R121, 12 R277) -/

/-- A ring descriptor (05 R121). -/
structure Desc where
  base : Nat
  nslot : Nat
  slotsz : Nat
  track : Bool
  cons : Bool
  repl : Bool
  dlvl : Nat
  rsv : Nat
  zero : Bool

/-- Its fields. -/
def Desc.of (v : Nat) : Desc where
  base := bits v 25 0
  nslot := bits v 31 26 + 1
  slotsz := (bits v 42 32 + 1) * 512
  track := bit v 43 == 1
  cons := bit v 44 == 1
  repl := bit v 45 == 1
  dlvl := bits v 47 46
  rsv := bits v 63 48
  zero := bits v 42 0 == 0

/-- The physical Trays of the domain of a hart at a level, in order of logical number; none at an invalid level (08 R174, R176,
R177). -/
def State.domainTrays (s : State) (h : Hart) (lvl : Nat) : List Nat :=
  let d := (h.id.dom.getD lvl 0).toNat
  if bit d 16 = 0 then []
  else
    match s.gang? h.gang with
    | none => []
    | some g =>
      ((g.cores.zipIdx.filter fun e => decide (e.1 < 4096) && e.2 / (8 * 2 ^ bits d 15 12) == bits d 11 0).map fun e => trayOf e.1).eraseDups

/-- The limits of R121 hold. -/
def Desc.ok (d : Desc) (valid : Bool) : Bool :=
  d.rsv == 0 && d.base % 512 == 0 && (!d.track || (d.zero && !d.cons && !d.repl))
    && (if d.track then true
        else if d.repl then valid && decide (d.nslot * d.slotsz ≤ 0x80000) && decide (d.base / 0x10000 + ceilDiv (d.nslot * d.slotsz) 512 ≤ 1024)
        else decide (d.base + d.nslot * d.slotsz ≤ 0x4000000))

/-- A ring copy as allocated: every slot FREE. -/
def Ring.fresh (n : Nat) : Ring := { slots := List.replicate n {} }

/-- Ring copies in use on a Hearth (05 R120). -/
def Hearth.ringCount (h : Hearth) : Nat := (h.handles.map fun e => e.2.rings.length).sum

/-- The handle a descriptor makes on a Hearth. -/
def State.newHandle (s : State) (d : Desc) (hrt : Nat) : Handle :=
  let trays := s.domainTrays s.hart d.dlvl
  let keys := if d.repl then trays.filter (fun t => t / 128 == hrt) else [512]
  { ctx := s.hart.ctx, gang := s.hart.gang, base := d.base, nslot := d.nslot, slotsz := d.slotsz, track := d.track, cons := d.cons
    repl := d.repl, dlvl := d.dlvl, dom := s.hart.id.dom.getD d.dlvl 0, trays := trays
    rings := keys.foldl (fun t k => tset t k (Ring.fresh d.nslot)) [] }

/-- The owner number of the range-lock entry of a consumer ring. -/
def ringOwner : Nat := 0xFFFFF

/-- The lock entries of a consumer ring, one for each of its copies, with no slot locked (05 R124). -/
def State.lockRings (s : State) (name : Nat) (h : Handle) : State :=
  h.rings.foldl (fun s e =>
    let (s, i) := s.addLock ringOwner 2 (h.whole (name / 1024) e.1)
    let s := s.modHearth i.1 fun x =>
      match tget? x.locks i.2 with
      | some l => { x with locks := tset x.locks i.2 { l with slotsz := h.slotsz, slots := [] } }
      | none => x
    s.modHandle name fun h => { h with ringLock := h.ringLock ++ [(e.1, i.2)] }) s

/-- The region check of BT.ALLOC over every byte of every ring copy (05 R121): WR with ENG, then RD with ENG where engines
consume. -/
def State.ringRegion (s : State) (h : Handle) (hrt : Nat) : Option (Seg × Nat) :=
  let c := s.ctx s.hart.ctx
  let segs := h.rings.map fun e => h.whole hrt e.1
  let check (g : Grant) : Option (Seg × Nat) := segs.findSome? fun x => (Seg.region c x g).map fun r => (x, r)
  (check { rd := false, wr := true, eng := true }).or (if h.cons then check { rd := true, wr := false, eng := true } else none)

/-- R277: BT.ALLOC. It waits while the Hearth has no range-lock entry for a consumer ring. -/
def execBtAlloc (n : Fin 4) (a b : CReg) (hrt : Fin 4) (s : State) : Out :=
  complete do
    s.readyC [b]
    let d := Desc.of (s.ra b).toNat
    let h := s.newHandle d hrt.val
    let hr := s.hearth hrt.val
    guardHandle (d.ok (bit (s.hart.id.dom.getD d.dlvl 0).toNat 16 == 1)) s 11 (s.ra b)
    match tfree hr.handles 0x3FF with
    | none => handleState s 10 (s.ra b)
    | some i =>
      guardHandle (decide (hr.ringCount + h.rings.length ≤ 4096)) s 10 (s.ra b)
      match if d.track then none else s.ringRegion h hrt.val with
      | some (x, r) => raise s 0x18 (apertureVa x.1 (x.2.pieces.headD (0, 0)).1) (einfo 0 s.user b.val r 0 0)
      | none =>
        guardWait (!h.cons || s.entriesFree (h.rings.map fun e => h.whole hrt.val e.1) []) false s
        let s ← s.pairGate
        let name := hrt.val * 1024 + i
        let s := s.modHearth hrt.val fun x => { x with handles := tset x.handles i h }
        let s := if h.cons then s.lockRings name h else s
        .ok (((s.setX a (w64 name)).retire { s := n, maj := 0x39 }).pairOnce)

/-! ## BT.FREE, BT.WAITF, BT.REL, BT.STAT -/

/-- The handle a register names, which the context must have allocated (12 R277). -/
def State.namedHandle (s : State) (b : CReg) : R (Nat × Handle) :=
  let name := (s.ra b).toNat % 4096
  match s.ownHandle s.hart.ctx name with
  | some h => .ok (name, h)
  | none => handleState s 5 (s.ra b)

/-- R277: BT.FREE. -/
def execBtFree (n : Fin 4) (b : CReg) (s : State) : Out :=
  complete do
    s.readyC [b]
    let (name, h) ← s.namedHandle b
    guardHandle (h.rings.all fun e => e.2.slots.all (·.st == .free)) s 8 (s.ra b)
    let s ← s.pairGate
    let s := h.ringLock.foldl (fun s e => s.delLock (name / 1024, e.2)) s
    let s := s.modHearth (name / 1024) fun x => { x with handles := tdel x.handles (name % 1024) }
    .ok ((s.retire { s := n, maj := 0x39 }).pairOnce)

/-- The ring copy a hart instruction acts on: of a ring that harts consume, the hart's own copy; else HANDLE_STATE, REASON 8. -/
def State.hartRing (s : State) (h : Handle) (b : CReg) : R (Nat × Ring) :=
  if h.cons then handleState s 8 (s.ra b)
  else match h.ring (h.keyFor s.cur) with
    | some r => .ok (h.keyFor s.cur, r)
    | none => handleState s 8 (s.ra b)

/-- The address BT.WAITF returns for a slot. -/
def Handle.slotVa (h : Handle) (hearth key slot : Nat) (x : RSlot) : Word :=
  if h.track then x.start else apertureVa hearth (h.off key (slot * h.slotsz))

/-- R277: BT.WAITF takes the head slot once it is FULL. -/
def execBtWaitf (n : Fin 4) (a b : CReg) (s : State) : Out :=
  complete do
    s.readyC [b]
    let (name, h) ← s.namedHandle b
    let (key, r) ← s.hartRing h b
    let s := s.flushNaming name
    let s ← s.pairGate
    let x := r.slot r.head
    guardWait (x.st == .full) true s
    let s := s.modRing name key fun r =>
      { r.modSlot r.head (fun x => { x with st := .draining }) with head := (r.head + 1) % max h.nslot 1 }
    .ok (((s.setX a (h.slotVa (name / 1024) key r.head x)).retire { s := n, maj := 0x39 }).pairOnce)

/-- The oldest DRAINING slot: the first at or after HEAD, around the ring. -/
def Ring.oldestDraining (r : Ring) (n : Nat) : Option Nat :=
  ((List.range n).map fun i => (r.head + i) % n).find? fun i => (r.slot i).st == .draining

/-- R277, R102: BT.REL releases after the hart's earlier stores are performed. -/
def execBtRel (n : Fin 4) (b : CReg) (s : State) : Out :=
  complete do
    s.readyC [b]
    let (name, h) ← s.namedHandle b
    let (key, r) ← s.hartRing h b
    match r.oldestDraining (max h.nslot 1) with
    | none => handleState s 8 (s.ra b)
    | some i =>
      let s ← s.pairGate
      guardWait s.hart.performed false s
      let s := s.release { hearth := name / 1024, handle := name % 1024, key := key, slot := i }
      .ok ((s.retire { s := n, maj := 0x39 }).pairOnce)

/-- The status word (05 R125). -/
def Handle.status (h : Handle) (r : Option Ring) : Word :=
  let own :=
    match r with
    | none => 0
    | some r =>
      let cnt (st : SlotSt) : Nat := (r.slots.filter (·.st == st)).length
      r.head + r.tail * 2 ^ 6 + cnt .free * 2 ^ 12 + cnt .filling * 2 ^ 19 + cnt .full * 2 ^ 26 + cnt .draining * 2 ^ 33
        + b2n (r.slots.any (·.frozen)) * 2 ^ 40
  w64 (own + b2n h.aborted * 2 ^ 41 + 2 ^ 42 + b2n h.track * 2 ^ 43 + b2n h.cons * 2 ^ 44 + b2n h.repl * 2 ^ 45 + h.mbox % 65536 * 2 ^ 48)

/-- R277: BT.STAT. -/
def execBtStat (n : Fin 4) (a b : CReg) (s : State) : Out :=
  complete do
    s.readyC [b]
    let (name, h) ← s.namedHandle b
    let s := s.flushNaming name
    .ok ((s.setX a (h.status (h.ring (h.keyFor s.cur)))).retire { s := n, maj := 0x39 })

/-! ## Tiles (12 R278, 07 R153) -/

/-- Steps 1 to 3 of R29 on a tile's capability and its permissions. -/
def State.capTile (s : State) (b : CReg) (need : Need) : R Unit := do
  let c := s.rc b
  s.capUse c b.val c.addr 0 0
  match c.lacks need with
  | some r => raise s 0x12 c.addr (einfo 0 s.user b.val r 0 0)
  | none => .ok ()

/-- The formats a tile may have (07 R153). -/
def tileFormat (f : Nat) : Bool := [0x01, 0x02, 0x03, 0x05, 0x06, 0x07, 0x09, 0x0A, 0x0B, 0x0C, 0x10, 0x11, 0x12, 0x13, 0x14, 0x17].contains f

/-- A first-fit run of facet records in units of 16 (07 R154). -/
def Hearth.freeRun (h : Hearth) (len : Nat) : Option Nat :=
  let starts := 0 :: h.tiles.map fun e => e.2.run + e.2.runLen
  let fits (b : Nat) : Bool := decide (b + len ≤ 1048576) && h.tiles.all fun e => decide (b + len ≤ e.2.run) || decide (e.2.run + e.2.runLen ≤ b)
  (starts.filter fits).foldl (fun m b => match m with | none => some b | some x => some (min x b)) none

/-- The bounding box of a tile as a segment. -/
def Tile.seg (t : Tile) (hearth : Nat) : Seg := (hearth, .flat t.base t.span)

/-- An active range-lock entry overlaps a box: an entry of an operation, or a locked slot of a consumer ring (07 R153). -/
def State.lockedBox (s : State) (hearth base n : Nat) : Bool :=
  (s.hearth hearth).locks.any fun e => e.2.active &&
    if e.2.reason = 2 then (e.2.range.pieces.any fun p => (List.range p.2).any fun i => decide (base ≤ p.1 + i) && decide (p.1 + i < base + n) && e.2.covers (p.1 + i))
    else e.2.range.overlaps (.flat base n)

/-- The entry of a tile check, active or not, overlaps a box (07 R157). -/
def State.checkedBox (s : State) (hearth base n : Nat) : Bool :=
  (s.hearth hearth).locks.any fun e => decide (0x20000000 ≤ e.2.owner) && decide (e.2.owner < 0x20000000 + 4352) && e.2.range.overlaps (.flat base n)

/-- Set or remove a tile-table entry, logging it first (07 R164). -/
def State.setTile (s : State) (ctx hearth idx : Nat) (t : Option Tile) : State :=
  (s.logUndo (fun g => g.ctx == ctx) hearth 2 idx (undoTile hearth idx)).modHearth hearth fun h =>
    { h with tiles := match t with | some t => tset h.tiles idx t | none => tdel h.tiles idx }

/-- The L1 place of a tile's base, or L1_REGION with the reason of R18. -/
def State.tilePlace (s : State) (b : CReg) : R (Nat × Nat) :=
  let a := s.ra b
  match s.l1Of a with
  | some p => .ok p
  | none =>
    let r := if inSpan a then (match window s.cur s.hart.ctl.nearctl a.toNat with | .error r => r | .ok _ => 0) else 0
    raise s 0x18 a (einfo 0 s.user b.val r 0 0)

/-- The tile that a template declares, with its facets still to be placed. -/
def templateTile (ctx base v : Nat) : Tile :=
  { ctx := ctx, base := base, rows := bits v 15 0 + 1, cols := bits v 31 16 + 1, pitch := bits v 63 32, fmt := bits v 68 64, run := 0 }

/-- The cases of REASON 2 that R153 takes third, and a template beyond the limits that R152 gives its fields, which R153 names no cause for
(log 67). `low` is the base as far as it is known: its L1 offset, or its address where that lies in no window. -/
def Tile.shapeOk (t : Tile) (low : Nat) : Bool :=
  decide (t.rows ≤ 4096) && decide (t.cols ≤ 4096) && t.pitch % 8 == 0 && decide (t.rowBytes ≤ t.pitch) && decide (t.pitch ≤ 2 ^ 24)
    && !(t.w == 4 && t.cols % 2 == 1) && low % elemBytes t.fmt == 0

/-- R278, R153: TILE.DECL, its checks in order. -/
def execTileDecl (n : Fin 4) (a b : CReg) (s : State) : Out :=
  complete do
    s.readyC [b, a]
    s.capTile a { rd := true, wr := true }
    s.capTile b { rd := true }
    let (s, v, _, ev) ← s.readCap (s.rc b) b.val (s.ra b) 16 16
    let va := s.ra a
    guardHandle (bits v 71 69 == 0 && bits v 127 72 == 0) s 2 va
    guardFmt (tileFormat (bits v 68 64)) s (bits v 68 64)
    let low := match s.l1Of va with | some p => p.2 | none => va.toNat
    let t0 := templateTile s.hart.ctx low v
    guardHandle (t0.shapeOk low && (s.rc a).fits va.toNat t0.span) s 2 va
    let (hearth, base) ← s.tilePlace a
    let t := templateTile s.hart.ctx base v
    guardHandle (decide (base + t.span ≤ 0x4000000)) s 2 va
    match regionSpan (s.ctx s.hart.ctx) hearth base t.span { rd := true, wr := true, eng := false } with
    | some r => raise s 0x18 va (einfo 0 s.user a.val r 0 0)
    | none =>
      let h := s.hearth hearth
      guardHandle (h.tiles.all fun e => !((e.2.seg hearth).2.overlaps (t.seg hearth).2)) s 3 va
      match tfree h.tiles 512 with
      | none => handleState s 0 va
      | some idx =>
        match h.freeRun t.runLen with
        | none => handleState s 1 va
        | some run =>
          guardWait (!(s.lockedBox hearth base t.span)) false s
          let s ← s.pairGate
          let t := { t with run := run }
          .ok (((((s.setTile s.hart.ctx hearth idx (some t)).regenTile hearth t)).retire { s := n, maj := 0x39, ev := ev }).pairOnce)

/-- The tile whose exact base a register names (12 R278): Hearth, index and tile. -/
def State.namedTile (s : State) (b : CReg) : R (Nat × Nat × Tile) :=
  let val := s.ra b
  match s.l1Of val with
  | none => handleState s 5 val
  | some (hearth, o) =>
    match (s.hearth hearth).tileAt o with
    | none => handleState s 5 val
    | some (i, t) => if t.ctx = s.hart.ctx then .ok (hearth, i, t) else handleState s 4 val

/-- R278: TILE.UNDECL. -/
def execTileUndecl (n : Fin 4) (b : CReg) (s : State) : Out :=
  complete do
    s.readyC [b]
    s.capTile b { wr := true }
    let (hearth, i, t) ← s.namedTile b
    guardWait (!(s.lockedBox hearth t.base t.span || s.checkedBox hearth t.base t.span)) false s
    let s ← s.pairGate
    .ok (((s.setTile t.ctx hearth i none).retire { s := n, maj := 0x39 }).pairOnce)

/-- A check whose tile is no longer there gives up its entry. -/
def State.checkLost (s : State) (b : CReg) : State :=
  match s.namedTile b, s.hart.checking with
  | .error _, some e => (s.delLock e).onHart fun h => { h with checking := none }
  | _, _ => s

/-- The entry of R157 over a tile: it is made once nothing overlaps the tile and an entry is free, the check waits until it is active
(02 R63), and it leaves as the check is made. -/
def State.checkEntry (s : State) (hearth : Nat) (t : Tile) : R State :=
  let x := t.seg hearth
  match s.hart.checking with
  | some e =>
    if s.allActive [e] [] then .ok ((s.delLock e).onHart fun h => { h with checking := none }) else .error (.wait false 0x10 s)
  | none =>
    if !(s.busy (fun _ => false) [x] [x]) && s.entriesFree [x] [] then
      let (s, e) := s.addLock (chkOwner s.cur) 0 x
      .error (.wait false 0x10 (s.onHart fun h => { h with checking := some e }))
    else .error (.wait false 0x10 (s.flushBusy [x] [x]))

/-- R278: TILE.CHK, under the entry of R157. A refusal traps; a correction is reported after it retires, with IMP 1 (02 R67; log 84), where
RPTC asks for it (07 R168). -/
def execTileChk (n : Fin 4) (b : CReg) (s : State) : Out :=
  complete do
    s.readyC [b]
    s.capTile b { rd := true }
    let s := s.checkLost b
    let (hearth, _, t) ← s.namedTile b
    let s ← s.pairGate
    let s ← s.checkEntry hearth t
    let va := s.ra b
    let (s, res) := s.checkTile hearth t s.hart.ctl.rptc
    match res with
    | .ok => .ok ((s.retire { s := n, maj := 0x39 }).pairOnce)
    | .fix i j _ =>
      let s := s.retire { s := n, maj := 0x39 }
      let a : Async := { cause := 0x24, val := l1Name va hearth (keyOff (t.elemKey hearth i j)), info := facetInfo 0 s.user 0 true i j }
      .ok ((if s.hart.ctl.rptc then s.onHart fun h => { h with asy := h.asy ++ [a] } else s).pairOnce)
    | .refuse r i j _ => raise s 0x23 va (facetInfo 0 s.user r false i j)

/-- R278: TILE.FIX, under the entry of R157. -/
def execTileFix (n : Fin 4) (b : CReg) (s : State) : Out :=
  complete do
    s.readyC [b]
    s.capTile b { wr := true }
    let s := s.checkLost b
    let (hearth, _, t) ← s.namedTile b
    let s ← s.pairGate
    let s ← s.checkEntry hearth t
    .ok (((s.regenTile hearth t).retire { s := n, maj := 0x39 }).pairOnce)

end Sys2Proof.Machine
end

