-- ==== Sys2Proof/Machine/EngineRun.lean ====
section
/-! DEFINITION. The engines at work: beginning an operation (12 R262, R273), landing pieces (05 R112, R115, R118), transforms
(05 R129, R130), carried facets (07 R160), completion, buffer-free messages (05 R127) and streams (05 R128). Each event that is
not enabled leaves the machine as it is. -/

namespace Sys2Proof.Machine

/-! ## Events -/

/-- A cycle of the module's clock passes with an event (log 5). -/
def State.tickEvent (s : State) : State := s.onMod fun m => { m with now := m.now + mclkUnits }

/-- The outcome of an event about a unit that exists where `ok` holds: what it does, or nothing where it is not enabled. -/
def eventOf (ok : Bool) (o : Option State) (s : State) : Out :=
  if ok then
    match o with
    | some t => .next t.tickEvent
    | none => .next s
  else .fault .noSuchUnit

/-- A hart's physical number exists (00 R2). -/
def hartExists (n : Nat) : Bool := decide (n < 4352)

/-! ## Beginning an operation -/

/-- The segments of n bytes at a for a command's hart, in the form their entries hold them. -/
def State.copySegs (s : State) (c : CopyCmd) (a : Int) (n : Nat) : List Seg := ((segsOf c.hart c.near a.toNat n).toOption.getD []).map s.nearForm

/-- The source iteration. -/
def CopyCmd.srcIt (c : CopyCmd) : Iter :=
  if c.xf = 1 then { c.it with rowlen := packedLen c.len } else if c.xf = 2 then { c.it with rowlen := c.len } else c.it

/-- The length of the metadata in bytes. -/
def CopyCmd.metaLen (c : CopyCmd) : Nat := if c.xf = 0 then 0 else ceilDiv (c.len * 8 / groupBits c.fmt) 2

/-- The source segments: the source box, and the metadata that an expansion reads. -/
def State.srcSegs (s : State) (c : CopyCmd) : List Seg :=
  let i := c.srcIt
  let (lo, n) := i.box i.s1 i.s2
  s.copySegs c (boxAt c.src lo) n ++ (if c.xf = 1 then s.copySegs c c.metaVa.toNat c.metaLen else [])

/-- The segments of the metadata that a compaction writes. -/
def State.metaSegs (s : State) (c : CopyCmd) : List Seg := if c.xf = 2 then s.copySegs c c.metaVa.toNat c.metaLen else []

/-- A delivery to be: its place, its segments and the ring copy whose TAIL slot it takes. -/
structure Plan where
  dst : Where
  segs : List Seg
  ring : Option (Nat × Nat)

/-- The deliveries of a command and whether each slot it needs is FREE; none where its handle is gone. The entries of one cover its box
(05 R114); of a slot that is larger than the box the rest is not locked while it fills (log 63). -/
def State.plans (s : State) (c : CopyCmd) : Option (List Plan) :=
  let (lo, n) := c.it.box c.it.d1 c.it.d2
  if c.receivers.isEmpty then
    let p (r : Option (Nat × Nat)) : Plan := { dst := .virt c.dstVa, segs := s.copySegs c (boxAt c.dstVa lo) n, ring := r }
    if c.dh % 1024 = 0x3FF then some [p none]
    else
      match s.ownHandle c.ctx c.dh with
      | some h => if (((h.ring 512).getD {}).slot 0).st == .free then some [p (some (c.dh, 512))] else none
      | none => none
  else
    let l := c.receivers.map fun e =>
      let name := e.2 * 1024 + c.dh % 1024
      (s.ownHandle c.ctx name).bind fun h => (h.ring e.1).bind fun r =>
        if (r.slot r.tail).st == .free then
          let k := r.tail * h.slotsz
          some { dst := h.at e.2 e.1 k, segs := if n = 0 then [] else [s.nearForm (e.2, h.range e.1 (k + lo.toNat) n)], ring := some (name, e.1) : Plan }
        else none
    if l.all (·.isSome) then some (l.filterMap id) else none

/-- Take the slot of a plan and make its entries. -/
def State.beginPlan (s : State) (c : CopyCmd) (opn : Nat) (p : Plan) : State × Delivery :=
  let (mode, shift) := if c.fac then (2, 0) else c.it.mode
  let (s, slot) := match p.ring with
    | some (name, key) =>
      let (s, r) := s.fillSlot name key opn p.dst.va
      (if c.mc then s.sendTile r (c.dh / 1024) else s, some r)
    | none => (s, none)
  let (s, locks) := addEach (fun s x => s.addLock opn 1 x) s p.segs
  let (s, lands) := s.addLands opn mode shift p.segs
  (s, { dst := p.dst, slot := slot, mode := mode, shift := shift, locks := locks, lands := lands })

/-- The pages of the destination boxes of a command (14 R353); none while a walk waits. -/
def State.planPages (s : State) (c : CopyCmd) (l : List Plan) : State × Option (List Nat) :=
  let (lo, n) := c.it.box c.it.d1 c.it.d2
  let boxes := (l.map fun p => (match p.dst with | .virt a => (boxAt a lo, n) | _ => (0, 0), p.segs))
    ++ (if c.xf = 2 then [((boxAt c.metaVa 0, c.metaLen), s.metaSegs c)] else [])
  boxes.foldl (fun p b =>
    match p.2 with
    | none => p
    | some l => let (t, r) := p.1.boxPages c b.1.1 b.1.2 b.2; (t, r.map (l ++ ·))) (s, some [])

/-- ENGINE_OP_BEGIN (12 R262, R273): the command at the head of a hart's copy queue begins, if a name, its slots and its entries are
free, no overlap under R101 remains, and the earlier die-local stores of the hart are performed (04 R100). A wait on a windowed
matrix command flushes its window (13 R309). A command of length 0 fills its slots at once. -/
def State.engineBegin (s : State) (n : Nat) : Option State :=
  match (s.hartAt n).cpq with
  | [] => none
  | c :: rest =>
    match s.plans c with
    | none => none
    | some plans =>
      let pop (s : State) : State := s.modHart n fun h => { h with cpq := rest }
      if c.it.total = 0 then
        let s := plans.foldl (fun s p =>
          match p.ring with
          | some (name, key) =>
            let (s, r) := s.fillSlot name key 0 p.dst.va
            (if c.mc then s.sendTile r (c.dh / 1024) else s).slotDone r 0 0
          | none => s) s
        some (pop s)
      else
        let srcs := s.srcSegs c
        let dsts := plans.flatMap (·.segs) ++ (s.metaSegs c)
        if s.busy (fun _ => false) srcs dsts then
          let t := s.flushBusy srcs dsts
          if t = s then none else some t
        else
          match s.freeOpn n with
          | none => none
          | some opn =>
            if !(s.entriesFree (srcs ++ dsts) dsts) || (s.hartAt n).sb.any (·.scope == 1) then none
            else
              match s.planPages c plans with
              | (t, none) => moved s t
              | (t, some pages) =>
                let s := t.captureBox n c.pass pages
                let (s, src) := addEach (fun s x => s.addLock opn 0 x) s srcs
                let (s, dels) := plans.foldl (fun (a : State × List Delivery) p => let (s, d) := a.1.beginPlan c opn p; (s, a.2 ++ [d])) (s, [])
                let (s, mlocks) := addEach (fun s x => s.addLock opn 1 x) s (s.metaSegs c)
                let (s, mlands) := s.addLands opn 0 0 (s.metaSegs c)
                let o : EngOp := { cmd := c, stream := false, write := true, dels := dels, srcLocks := src ++ mlocks, metaLands := mlands }
                some (pop (s.onMod fun m => { m with ops := tset m.ops opn o }))

/-! ## Transforms (05 R130) -/

/-- Element i of packed elements of width w in bytes. -/
def elemOf (b : List Byte) (w i : Nat) : Nat := joinBytes b / 2 ^ (w * i) % 2 ^ w

/-- The rank of an element's magnitude in a compaction: NaN above every number, then the exact magnitude. -/
def magRank (fmt x : Nat) : Bool × Val :=
  let v (k : FmtKind) (x : Nat) : Val := match kindVal {} k x with | .fin _ n e => .fin false n e | .inf _ => .inf false | z => z
  match fmtKind fmt with
  | .cint f => (false, ((v (.int f) (x % 2 ^ f.w)).add 0 (v (.int f) (x / 2 ^ f.w))).1)
  | .cflt f =>
    let a := v (.flt f) (x % 2 ^ f.w)
    let b := v (.flt f) (x / 2 ^ f.w)
    (a.isNan || b.isNan, (a.add 0 b).1)
  | k => ((v k x).isNan, v k x)

/-- a ranks above b. -/
def rankAbove (a b : Bool × Val) : Bool := if a.1 || b.1 then a.1 && !b.1 else a.2.gt b.2

/-- The two elements kept of a group, in index order: ties go to the lower index. -/
def keepTwo (fmt : Nat) (l : List Nat) : Nat × Nat :=
  let best (skip : Nat) : Nat :=
    (List.range 4).foldl (fun m i => if i = skip then m else if m = 4 then i else if rankAbove (magRank fmt (l.getD i 0)) (magRank fmt (l.getD m 0)) then i else m) 4
  let i := best 4
  let j := best i
  (min i j, max i j)

/-- A compacted group: its two elements and its nibble. -/
def compactGroup (fmt : Nat) (l : List Nat) : List Nat × Nat :=
  let (i, j) := keepTwo fmt l
  ([l.getD i 0, l.getD j 0], i + 4 * j)

/-- An expanded group, or none for invalid metadata. -/
def expandGroup (e0 e1 nib : Nat) : Option (List Nat) :=
  let i := nib % 4
  let j := nib / 4
  if i < j then some ((List.range 4).map fun k => if k = i then e0 else if k = j then e1 else 0) else none

/-- Bytes of elements of width w. -/
def elemsBytes (w : Nat) (l : List Nat) : List Byte := splitBytes (l.length * w / 8) (packCodes w l)

/-! ## Landing a piece -/

/-- The alignment of a destination byte within a 64-byte block. -/
def Where.low (w : Where) (off : Int) : Nat :=
  match w with
  | .virt va => (va + BitVec.ofInt 64 off).toNat % 64
  | .ring _ _ _ k0 => ((k0 : Int) + off).toNat % 64
  | .l1 _ o => ((o : Int) + off).toNat % 64

/-- The length of the next piece of a delivery (05 R112, R115): to the next 64-byte boundary, within the row unless rows join
without gaps; a whole row in rows mode. -/
def EngOp.pieceLen (o : EngOp) (d : Delivery) : Nat :=
  let it := o.cmd.it
  let inRow := it.rowlen - d.done % max it.rowlen 1
  if d.mode = 1 then inRow
  else
    let room := 64 - d.dst.low (it.at it.d1 it.d2 d.done)
    min room (if d.mode = 0 then it.total - d.done else inRow)

/-- The 64-byte blocks of the destination that a piece of a delivery writes (05 R112; 17 R400). -/
def EngOp.blocks (o : EngOp) (d : Delivery) : Nat :=
  let low := d.dst.low (o.cmd.it.at o.cmd.it.d1 o.cmd.it.d2 d.done)
  if d.part = 0 then 0 else (low + d.part + 63) / 64

/-- The runs of a side for bytes [k, k + n) of an iteration, row by row. -/
def Iter.runs (it : Iter) (s1 s2 : Int) : Nat → Nat → Nat → List (Int × Nat)
  | 0, _, _ => []
  | fuel + 1, k, n =>
    if n = 0 then []
    else
      let m := min n (it.rowlen - k % max it.rowlen 1)
      if m = 0 then [] else (it.at s1 s2 k, m) :: it.runs s1 s2 fuel (k + m) (n - m)

/-- The runs as virtual addresses. -/
def CopyCmd.srcRuns (c : CopyCmd) (k n : Nat) : List (Word × Nat) := (c.it.runs c.it.s1 c.it.s2 n k n).map fun r => (c.src + BitVec.ofInt 64 r.1, r.2)

/-- The nibble of a group among metadata bytes. -/
def nibbleOf (meta0 : List Byte) (g : Nat) : Nat := (meta0.getD (g / 2) 0).toNat / 16 ^ (g % 2) % 16

/-- The bytes of a piece [k, k + n) as read from the source: for a compaction also the nibbles of the groups it touches, by group
number. -/
def State.pieceBytes (s : State) (g : Agent) (c : CopyCmd) (k n : Nat) : EngR (State × List Byte × List (Nat × Nat)) :=
  if c.xf = 0 then (s.engReads g (c.srcRuns k n)).bind fun (s, b) => .ok (s, b, [])
  else
    let w := fmtWidth c.fmt
    let dense := 4 * w / 8
    let packed := 2 * w / 8
    let unit := if c.xf = 1 then dense else packed
    let g0 := k / unit
    let gs := (List.range ((k + n - 1) / unit + 1 - g0)).map (g0 + ·)
    let from1 := if c.xf = 1 then packed else dense
    (s.engRead g (c.src + w64 (g0 * from1)) (gs.length * from1)).bind fun (s, b) =>
      let cut (l : List Byte) : List Byte := (l.drop (k - g0 * unit)).take n
      if c.xf = 1 then
        let m0 := g0 / 2
        (s.engRead g (c.metaVa + w64 m0) ((g0 + gs.length - 1) / 2 + 1 - m0)).bind fun (s, md) =>
          let out := gs.zipIdx.map fun e => (e.1, expandGroup (elemOf b w (2 * e.2)) (elemOf b w (2 * e.2 + 1)) (nibbleOf md (e.1 - 2 * m0)))
          match out.find? (·.2.isNone) with
          | some (i, _) => .fault s { va := c.metaVa + w64 (i / 2), kind := 6, reason := 4 }
          | none => .ok (s, cut (elemsBytes w (out.flatMap fun e => e.2.getD [])), [])
      else
        let out := gs.zipIdx.map fun e => (e.1, compactGroup c.fmt ((List.range 4).map fun i => elemOf b w (4 * e.2 + i)))
        .ok (s, cut (elemsBytes w (out.flatMap (·.2.1))), out.map fun e => (e.1, e.2.2))

/-- Write bytes without an effect on facets (07 R160). -/
def State.engWritePlain (s : State) (keys : List Nat) (b : List Byte) (alloc : Bool) : State :=
  let s := (s.l2Writes keys false alloc).disturb keys
  let s := if s.m.flips.isEmpty then s else s.scrub (keys.filter fun k => !((keysFrom (k / 8 * 8) 8).all keys.contains))
  let s := (keys.foldl (fun l k => if isL1 k then sadd l (k / 256) else l) []).foldl (fun s x => s.logL1 (256 * x)) s
  s.onMod fun m => ({ m with mem := msets m.mem (keys.zip b), tags := keys.foldl (fun (g : List Nat) k => sdel g (k / 16)) m.tags }).unpoison keys

/-- The published COUNT of a delivery with `done` bytes landed. -/
def countOf (it : Iter) (mode done : Nat) : Nat := if mode = 0 then done else if mode = 1 then done / max it.rowlen 1 else 0

/-- Publish a watermark on the landing entries of a delivery. -/
def State.publish (s : State) (lands : List (Nat × Nat)) (count : Nat) : State := s.modLands lands fun x => { x with count := count }

/-- The locations of a destination piece, run by run. -/
def State.pieceKeys (s : State) (g : Agent) (d : Delivery) : List (Int × Nat) → EngR (State × List Nat × Nat)
  | [] => .ok (s, [], 0)
  | (off, n) :: r =>
    (s.dstKeys g d.dst off n).bind fun (s, k, mt) => (s.pieceKeys g d r).bind fun (s, l, mt') => .ok (s, k ++ l, max mt mt')

/-- The locations of a piece in several deliveries. -/
def State.targetKeys (s : State) (g : Agent) (it : Iter) (k n : Nat) : List Delivery → EngR (State × List (List Nat × Nat))
  | [] => .ok (s, [])
  | d :: r =>
    (s.pieceKeys g d (it.runs it.d1 it.d2 n k n)).bind fun (s, l, mt) => (s.targetKeys g it k n r).bind fun (s, t) => .ok (s, (l, mt) :: t)

/-- Metadata bytes that are complete once `done` bytes of a compaction's result have landed (05 R130). -/
def CopyCmd.metaDone (c : CopyCmd) (done : Nat) : Nat := if done = c.it.total then c.metaLen else done * 8 / (2 * fmtWidth c.fmt) / 2

/-- The metadata bytes of a compaction that a piece [k, k + n) completes, with their locations: of an odd last group the byte's other
half is kept. -/
def State.metaCells (s : State) (g : Agent) (c : CopyCmd) (nibs : List (Nat × Nat)) (k n : Nat) : EngR (State × List Host.Cell × Nat) :=
  let b0 := c.metaDone k
  let b1 := c.metaDone (k + n)
  if c.xf ≠ 2 ∨ b1 ≤ b0 then .ok (s, [], 0)
  else
    (s.engKeys g true 2 (c.metaVa + w64 b0) (b1 - b0)).bind fun (s, keys, mt) =>
      let half (i old : Nat) : Nat := ((nibs.find? (·.1 == i)).map (·.2)).getD old
      .ok (s, keys.zipIdx.map (fun e =>
        let old := (s.byteAt e.1).toNat
        (e.1, BitVec.ofNat 8 (half (2 * (b0 + e.2)) (old % 16) + 16 * half (2 * (b0 + e.2) + 1) (old / 16)))), mt)

/-- A piece as read and resolved: its length, its bytes, the locations in each delivery, the nibbles held and the metadata bytes. -/
structure Piece where
  n : Nat
  bytes : List Byte
  keys : List (List Nat × Nat)
  nibs : List (Nat × Nat) := []
  restMeta : List Host.Cell := []
  restMetaMt : Nat := 0

/-- Read and resolve a piece of n bytes at done bytes: the source, then every destination, before a byte is written (05 R112). -/
def State.readPiece (s : State) (g : Agent) (o : EngOp) (targets : List Delivery) (k n : Nat) : EngR (State × Piece) :=
  let c := o.cmd
  (s.pieceBytes g c k n).bind fun (s, b, nibs) =>
    let nibs := nibs ++ o.nibs.filter fun e => !nibs.any (·.1 == e.1)
    (s.targetKeys g c.it k n targets).bind fun (s, keys) =>
      (s.metaCells g c nibs k n).bind fun (s, cells, mt) =>
        .ok (s, { n := n, bytes := b, keys := keys, nibs := nibs.filter fun e => decide (c.metaDone (k + n) ≤ e.1 / 2), restMeta := cells, restMetaMt := mt })

/-- The same; in box mode, where a byte of the piece faults, the bytes before it (05 R118). -/
def State.readUpTo (s : State) (g : Agent) (o : EngOp) (targets : List Delivery) (box : Bool) (k : Nat) : Nat → EngR (State × Piece)
  | 0 => s.readPiece g o targets k 1
  | n + 1 =>
    match s.readPiece g o targets k (n + 1) with
    | .fault t f => if box && n != 0 then (match s.readUpTo g o targets box k n with | .fault .. => .fault t f | r => r) else .fault t f
    | r => r

/-- Change a delivery of an operation. -/
def State.modDel (s : State) (opn i : Nat) (f : Delivery → Delivery) : State :=
  s.modOp opn fun o => { o with dels := o.dels.mapIdx fun j d => if j = i then f d else d }

/-- The next bytes of the piece that a delivery has read are written, in the order of its iteration (04 R102), all that are left or as many atomicity units
as `splits` says (04 R99); with the last the piece has landed and the watermark is published. None while they wait at their channel. -/
def State.landRest (s : State) (opn i : Nat) : Option State :=
  match tget? s.m.ops opn with
  | none => none
  | some o =>
    match o.dels[i]? with
    | none => none
    | some d =>
      if d.part = 0 then none
      else
        let c := o.cmd
        let runs := pieceRuns c.hart false (d.rest.map (·.1))
        let now := d.rest.take (s.leading runs)
        let keys := now.map (·.1)
        if s.writeWaits keys false (d.restMt == 0) || (now.length == d.rest.length && s.writeWaits (o.restMeta.map (·.1)) false (o.restMetaMt == 0)) then none
        else
          let s := s.splitUsed runs
          let s := if c.fac then s.engWritePlain keys (now.map (·.2)) (d.restMt == 0) else s.engWrite keys (now.map (·.2)) (d.restMt == 0)
          if now.length < d.rest.length then some (s.modDel opn i fun d => { d with rest := d.rest.drop now.length })
          else
            let s := s.engWrite (o.restMeta.map (·.1)) (o.restMeta.map (·.2)) (o.restMetaMt == 0)
            let s := (List.range (o.blocks d)).foldl (fun s _ => s.energyAt (engineCore opn) 0x38 0) s
            let done := d.done + d.part
            let count := countOf c.it d.mode done
            let s := (s.modDel opn i fun d => { d with done := done, count := count, part := 0, rest := [] }).modOp opn fun o => { o with restMeta := [] }
            let s := s.publish d.lands count
            some (if c.xf = 2 then s.publish o.metaLands (c.metaDone done) else s)

/-- A piece is held by the deliveries that land it, and its first bytes are written. -/
def State.beginPiece (s : State) (opn : Nat) (same : Delivery → Bool) (p : Piece) : State :=
  match tget? s.m.ops opn with
  | none => s
  | some o =>
    let hit := (o.dels.zipIdx.filter fun e => same e.1).map (·.2)
    let s := s.modOp opn fun o => { o with got := [], nibs := p.nibs, restMeta := p.restMeta, restMetaMt := p.restMetaMt }
    let s := (hit.zip p.keys).foldl (fun s e => s.modDel opn e.1 fun d => { d with part := p.n, rest := e.2.1.zip p.bytes, restMt := e.2.2 }) s
    hit.foldl (fun s i => (s.landRest opn i).getD s) s

/-- An operation that waits: nothing happens unless the wait itself changed something. -/
def State.engWaits (s t : State) (owner : Nat) : Option State := let t := t.flushOwner owner; if t = s then none else some t

/-- Land one piece in every delivery that stands where delivery `d` stands (05 R112, R126): the source is read first, then
every destination is resolved, then the bytes are written and the watermarks published. -/
def State.landPiece (s : State) (opn : Nat) (o : EngOp) (d : Delivery) : Option State :=
  let same (e : Delivery) : Bool := !e.final && !e.frozen && e.part == 0 && e.done == d.done
  match s.readUpTo (o.cmd.agent (some opn)) o (o.dels.filter same) (d.mode == 2) d.done (o.pieceLen d) with
  | .wait t owner => s.engWaits t owner
  | .fault s f => some ((s.modOp opn fun o => { o with got := [] }).freeze opn same f)
  | .ok (s, p) => some (s.beginPiece opn same p)

/-! ## Streams (05 R128) -/

/-- The strips of a write stream go to its staging until `n` bytes stand there: the bytes and the strips left. -/
def stageStrips (n : Nat) (staged : List Byte) (left : Nat) : List Vec → List Byte × List Vec
  | [] => (staged, [])
  | x :: r => if n ≤ staged.length then (staged, x :: r) else stageStrips n (staged ++ splitBytes (min 64 left) x.toNat) (left - 64) r

/-- A write stream lands its next piece (05 R112, R115): to a 64-byte boundary, or a whole row in rows mode, from the strips appended;
once it is unbound also what is left of one. -/
def State.landStrips (s : State) (opn : Nat) (o : EngOp) (d : Delivery) : Option State :=
  let c := o.cmd
  let want := o.pieceLen d
  let (staged, strips) := stageStrips want o.staged (c.it.total - 64 * (o.appended - o.strips.length)) o.strips
  let n := if want ≤ staged.length then want else if o.unbound then staged.length else 0
  let stage (s : State) : State := s.modOp opn fun o => { o with staged := staged.drop n, strips := strips }
  if n = 0 then (if strips.length < o.strips.length then some (stage s) else none)
  else
    match s.targetKeys (c.agent (some opn)) c.it d.done n [d] with
    | .wait t owner => s.engWaits t owner
    | .fault s f => some (s.freeze opn (fun _ => true) f)
    | .ok (s, keys) => some ((stage s).beginPiece opn (fun _ => true) { n := n, bytes := staged.take n, keys := keys })

/-- An operation stands between two pieces: none is half read or half written. -/
def EngOp.between (o : EngOp) : Bool := o.got.isEmpty && o.dels.all (·.part == 0)

/-- No other delivery of a multicast is half through a piece or behind: each piece is read once for all of them (05 R126). -/
def EngOp.inStep (o : EngOp) (d : Delivery) : Bool := o.dels.all fun e => e.final || e.frozen || (e.part == 0 && decide (d.done ≤ e.done))

/-- A read stream fetches its next strip; a write stream lands its next piece. -/
def State.streamStep (s : State) (opn : Nat) (o : EngOp) : Option State :=
  let c := o.cmd
  if o.frozen || o.paused || o.aborted || !(s.allActive o.srcLocks (o.dels.flatMap (·.lands))) then none
  else if o.between && s.pausedByMove opn then none
  else if !o.write then
    if 4 ≤ o.strips.length ∨ o.stripCount ≤ o.fetched then none
    else
      let k := 64 * o.fetched
      match s.engReads (c.agent (some opn)) (c.srcRuns k (min 64 (c.it.total - k))) with
      | .wait t owner => s.engWaits t owner
      | .fault s f => some ((s.modOp opn fun o => { o with got := [] }).freeze opn (fun _ => true) f)
      | .ok (s, b) => some (s.modOp opn fun o => { o with got := [], strips := o.strips ++ [BitVec.ofNat 512 (joinBytes b)], fetched := o.fetched + 1 })
  else
    match o.dels with
    | d :: _ => if d.part = 0 then s.landStrips opn o d else s.landRest opn 0
    | [] => none

/-- ENGINE_PIECE_LAND (05 R112): the next piece of a delivery, once the operation's entries are active. -/
def State.pieceLand (s : State) (opn part : Nat) : Option State :=
  match tget? s.m.ops opn with
  | none => none
  | some o =>
    if o.stream then (if o.write then s.streamStep opn o else none)
    else
      match o.dels[part]? with
      | none => none
      | some d =>
        if d.part ≠ 0 then s.landRest opn part
        else if d.final || d.frozen || o.paused || o.aborted || decide (o.cmd.it.total ≤ d.done) || !o.inStep d || (o.between && s.pausedByMove opn)
            || !(s.allActive (o.srcLocks ++ o.dels.flatMap (·.locks)) (o.dels.flatMap (·.lands) ++ o.metaLands)) then none
        else s.landPiece opn o d

/-- STREAM_REFILL (05 R128): the stream that a v-register of a hart is bound to. -/
def State.streamRefill (s : State) (n v : Nat) : Option State :=
  match tget? (s.hartAt n).streams v with
  | none => none
  | some b =>
    match tget? s.m.ops b.opn with
    | none => none
    | some o => s.streamStep b.opn o

/-! ## Completion (05 R123, 07 R160) -/

/-- The L1 place of a destination. -/
def State.placeOf (s : State) (c : CopyCmd) (w : Where) : Option (Nat × Nat) :=
  match w with
  | .virt a =>
    if inSpan a then
      match window c.hart c.near a.toNat with
      | .ok t => let k := t.key s.m 0; some (keyHearth k, keyOff k)
      | .error _ => none
    else none
  | .ring h t row k0 => some (h, (row + k0 / 512) * 0x10000 + t * 512 + k0 % 512)
  | .l1 h o => some (h, o)

/-- The check of a carried copy at its destination (07 R160), the records it writes, and its report (07 R167, R168). It goes by the tiles
declared now: where one has gone since the copy was queued nothing is checked, and where one was declared anew its records count (log 76). -/
def State.carriedCheck (s : State) (c : CopyCmd) (d : Delivery) : State :=
  match s.placeOf c (.virt c.src), s.placeOf c d.dst with
  | some (hs, os), some (hd, od) =>
    match (s.hearth hs).tileAt os, (s.hearth hd).tileAt od with
    | some (_, a), some (_, b) =>
      let s := (s.scrubTile hs a).scrub ((List.range b.rows).flatMap fun i => keysFrom (b.elemKey hd i 0) b.rowBytes)
      let stored (k : Nat) : Option (BitVec 128) := let r := s.facet hs a k; if facetStale r then none else some r
      let res := checkLines b.fmt b.rows b.cols (b.elem s.m hd) stored
      let report (s : State) (cause i j reason : Nat) (va : Word) : State :=
        s.report c.ctx c.gang c.hart { cause := cause, val := va, info := facetInfo 1 c.user reason true i j }
      let s := match res with
        | .ok => s
        | .fix i j v =>
          let s := (s.writeElem hd b i j v).countFacet c.ctx hd true
          let s := s.logErr (0x500 + hd) 0 5 i (b.elemKey hd i j) 0 (if c.rptc then 0x24 else 0xFF) false
          if c.rptc then report s 0x24 i j 0 (l1Name d.dst.va hd (keyOff (b.elemKey hd i j))) else s
        | .refuse r i j noRow =>
          let s := s.countFacet c.ctx hd false
          report (s.logErr (0x500 + hd) 2 5 (if noRow then 0x8000 + j else i) (l1Key hd b.base) 0 0x23 false) 0x23 i j r d.dst.va
      (List.range (b.rows + b.cols)).foldl (fun s k => s.setFacet b.ctx hd (b.run + k) ((stored k).getD (b.fresh s.m hd k))) s
    | _, _ => s
  | _, _ => s

/-- A delivery becomes final: its facets are checked, its slot and its entries go; with the last one the operation ends, a bound
stream staying known to its binding. -/
def State.finish (s : State) (opn part : Nat) (o : EngOp) (d : Delivery) : State :=
  let c := o.cmd
  let s := if c.fac then s.carriedCheck c d else s
  let s := match d.slot with
    | some r => s.slotDone r (doneCount c.it.total d.mode (c.it.cnt1 * c.it.cnt2)) d.mode
    | none => s
  let s := s.dropEntries d.locks d.lands
  let s := s.modOp opn fun o => { o with dels := o.dels.mapIdx fun i e => if i = part then { e with final := true, locks := [], lands := [] } else e }
  match tget? s.m.ops opn with
  | some o =>
    if o.dels.all (·.final) then
      let s := s.dropEntries o.srcLocks o.metaLands
      if o.stream && !o.unbound then s.modOp opn fun o => { o with srcLocks := [], metaLands := [] }
      else s.onMod fun m => { m with ops := tdel m.ops opn }
    else s
  | none => s

/-- LANDING_COMPLETE (05 R123): a delivery with every byte landed, or an unbound write stream with no strip left. -/
def State.landingComplete (s : State) (opn part : Nat) : Option State :=
  match tget? s.m.ops opn with
  | none => none
  | some o =>
    match o.dels[part]? with
    | none => none
    | some d =>
      let full := decide (o.cmd.it.total ≤ d.done)
      if d.final || d.frozen || o.paused || o.aborted || !(if o.stream then o.strips.isEmpty && o.staged.isEmpty && d.part == 0 && (full || o.unbound) else full) then none
      else some (s.finish opn part o d)

/-- BUFFER_FREE_MESSAGE (05 R127): every receiver of handle H of a root has freed the next tile. -/
def State.bufferFree (s : State) (hearth handle : Nat) : Option State :=
  match s.handle? (hearth * 1024 + handle) with
  | none => none
  | some h =>
    if !h.trays.isEmpty && h.trays.all (fun t => h.freed.contains (t, h.told)) then
      some (s.modHandle (hearth * 1024 + handle) fun h => { h with mbox := h.mbox + 1, told := h.told + 1, freed := h.freed.filter fun e => e.2 != h.told })
    else none

/-- FILTER_BIT_CLEAR (02 R63). -/
def State.filterClear (s : State) (hearth row : Nat) : Option State :=
  if (s.hearth hearth).stale.contains row then some (s.modHearth hearth fun h => { h with filter := sdel h.filter row, stale := sdel h.stale row })
  else none

/-- RANGE_LOCK_ACTIVATE (02 R63): entries 0 to 255 are the range-lock table's, 256 to 511 the landing table's. -/
def State.activate (s : State) (hearth entry : Nat) : Option State :=
  if entry < 256 then s.activateLock hearth entry else s.activateLand hearth (entry - 256)

/-! ## The events -/

/-- R262, R273. -/
def execEngineOpBegin (hart : Nat) (s : State) : Out := eventOf (hartExists hart) (s.engineBegin hart) s
/-- R112. -/
def execEnginePieceLand (opn part : Nat) (s : State) : Out := eventOf (decide (opn < 0x6000)) (s.pieceLand opn part) s
/-- R123. -/
def execLandingComplete (opn part : Nat) (s : State) : Out := eventOf (decide (opn < 0x6000)) (s.landingComplete opn part) s
/-- R127. -/
def execBufferFreeMessage (hearth handle : Nat) (s : State) : Out := eventOf (decide (hearth < 4) && decide (handle < 1024)) (s.bufferFree hearth handle) s
/-- R128. -/
def execStreamRefill (hart : Nat) (v : VReg) (s : State) : Out := eventOf (hartExists hart) (s.streamRefill hart v.val) s
/-- R63. -/
def execRangeLockActivate (hearth entry : Nat) (s : State) : Out := eventOf (decide (hearth < 4) && decide (entry < 512)) (s.activate hearth entry) s
/-- R63. -/
def execFilterBitClear (hearth row : Nat) (s : State) : Out := eventOf (decide (hearth < 4) && decide (row < 1024)) (s.filterClear hearth row) s

end Sys2Proof.Machine
end

