-- ==== Sys2Proof/Machine/Matrix.lean ====
section
/-! DEFINITION. Matrix commands: formats, shapes and places (12 R282 to R285, R291, R292), the checks of acceptance, operand layout
and the arithmetic of a part (06 R149; 12 R284, R286 to R290; 07 R161, R162). -/

namespace Sys2Proof.Machine

/-! ## Parts -/

/-- The physical core that runs a logical core of a hart's gang (08 R174). -/
def State.coreOfLogical (s : State) (n l : Nat) : Nat :=
  match s.gang? (s.hartAt n).gang with
  | some g => g.cores.getD l n
  | none => n

/-- The parts of a command of the hart on core n. -/
def State.mxParts (s : State) (n : Nat) (c : MxCmd) : List MxPart :=
  let l := (s.hartAt n).id.lcore.toNat
  (List.range c.nT).map fun i =>
    { p := i / c.nC, q := i % c.nC, core := if c.nT = 1 then n else s.coreOfLogical n (8 * (c.base l + i) + l % 8) }

/-! ## EINFO -/

/-- EINFO of R298. -/
def mxInfo (reason : Nat) (imp kn : Bool) (seq rule tray : Nat) : Word :=
  w64 (0x100 * reason + 0x4000 * b2n imp + 0x8000 * b2n kn + 0x10000 * (seq % 65536) + 0x100000000 * (if kn then rule % 64 else 0)
    + 0x10000000000 * tray)

/-- A trap of acceptance: cause, EVAL, EINFO. -/
abbrev MxErr := Nat × Word × Word

/-! ## The checks of acceptance (12 R285, R291, R292) -/

/-- Step 3, and the shapes of step 4, for a command of the hart on core n. -/
def State.mxShape (s : State) (n : Nat) (c : MxCmd) : Option MxErr :=
  let tray := trayOf n
  let shape (r : Nat) : Option MxErr := some (0x25, c.dest, mxInfo r false false 0 0 tray)
  let format (f : Nat) : Option MxErr := some (0x26, w64 f, mxInfo 0 false false 0 0 tray)
  match c.kind with
  | .mma =>
    match mxOffender c.afmt c.bfmt c.cfmt with
    | some f => format f
    | none =>
      let h := s.hartAt n
      let plain (i : Nat) : Bool := c.parts.any fun p => match s.ownHandle h.ctx (dieOf p.core * 1024 + i) with | some x => !x.repl | none => false
      if (c.sp && (c.ta || c.up != 0 || decide (1 < c.nT))) || (c.tok && c.up == 0) then shape 0
      else if 1 < c.nT ∧ bits h.id.gangsz.toNat 12 0 / 8 < c.base h.id.lcore.toNat + c.nT then shape 1
      else if (blocked c.afmt && c.ta) || (blocked c.bfmt && !c.tb) || ((blocked c.afmt || blocked c.bfmt) && c.k % 32 != 0) then shape 5
      else if decide (1 < c.nT) && (plain c.ah || plain c.bh) then shape 6
      else none
  | .trn => if !trnFmt c.afmt then format c.afmt else if 64 < c.m ∨ 64 < c.n then shape 0 else none
  | .scale => if !scaleFmt c.cfmt then format c.cfmt else if 64 < c.m ∨ 64 < c.n then shape 0 else none
  | .uprog => none

/-- Step 6: the box in c[A], its windows and the region check; the L1 segments of a number of sub-boxes. -/
def State.mxBox (s : State) (n : Nat) (c : MxCmd) : Except MxErr (List Seg) :=
  if !c.toCap then .ok []
  else
    let h := s.hartAt n
    let bad : MxErr := (0x25, c.dest, mxInfo 3 false false 0 0 (trayOf n))
    if !c.cap.fits (boxAt c.dest 0) c.boxLen then .error bad
    else
      match sidesOf (s.ctx h.ctx) n c.near c.dest.toNat c.boxLen { rd := c.readsDest, wr := true, eng := true } with
      | .error r => .error (0x18, c.dest, einfo 7 c.user 0 r 0 0)
      | .ok [] => .error bad
      | .ok l => .ok l

/-- Step 7: the handles, in each part's Hearth. -/
def State.mxHandles (s : State) (n : Nat) (c : MxCmd) : Option MxErr :=
  let h := s.hartAt n
  let need (core i : Nat) : Option MxErr :=
    match s.ownHandle h.ctx (dieOf core * 1024 + i) with
    | none => some (0x22, 0, w64 0x500)
    | some x => if !x.cons || x.track || (x.ring (x.keyFor core)).isNone then some (0x22, 0, w64 0x800) else none
  let names := match c.kind with
    | .mma => [c.ah, c.bh]
    | .trn => c.ah :: (if c.dh = 0x3FF then [] else [c.dh])
    | _ => []
  c.parts.findSome? fun p => names.findSome? (need p.core)

/-- Where c[A].ADDR lies: Hearth and L1 offset (13 R304). -/
def mxDestLoc (core : Nat) (near : BitVec 4) (a : Word) : Option (Nat × Nat) :=
  if inSpan a then
    match window core near a.toNat with
    | .ok (.l1 h o) => some (h, o)
    | .ok (.near t slab w) => some (t / 128, nearOff (t % 128) slab w)
    | _ => none
  else none

/-! ## Operands (12 R284) -/

/-- An exact operand: a real value, or a complex one with its imaginary part. -/
abbrev CVal := Val × Val

/-- The exact value of element column c from its bytes, after the input flush (06 R149). -/
def opValue (env : FEnv) (fmt c : Nat) (b : List Byte) : CVal :=
  if blocked fmt then
    let e := (b.getD 2 0).toNat
    (decBlocked env (fmt == 0x15) (joinBytes (b.take 2)) (if fmt = 0x15 then (if c % 2 = 0 then e % 16 else e / 16) else e), .fin false 0 0)
  else
    let x := if fmtWidth fmt = 4 then (let e := joinBytes b; if c % 2 = 0 then e % 16 else e / 16) else joinBytes b
    match fmtKind fmt with
    | .cint f => (kindVal env (.int f) (x % 2 ^ f.w), kindVal env (.int f) (x / 2 ^ f.w))
    | .cflt f => (kindVal env (.flt f) (x % 2 ^ f.w), kindVal env (.flt f) (x / 2 ^ f.w))
    | k => (kindVal env k x, .fin false 0 0)

/-! ## Accumulators (06 R149) -/

/-- The format of an accumulator: FP32, I32 or CI32. -/
def accFmt (afmt : Nat) : Nat := match mxGroup afmt with | 1 => 0x03 | 4 => 0x0A | _ => 0x10

/-- The integer of a finite exact value; 0 for others. -/
def Val.toInt : Val → Int
  | .fin neg n e => let m : Int := ((if 0 ≤ e then n * 2 ^ e.toNat else n / 2 ^ (-e).toNat : Nat) : Int); if neg then -m else m
  | _ => 0

/-- The exact sum of a list of values, as R149 joins products: in order, a zero sum signed as R138 says. -/
def sumVals (rm : Nat) : List Val → Val
  | [] => .fin false 0 0
  | v :: r => r.foldl (fun a x => (a.add rm x).1) v

/-- The exact product of two operands, real or complex. -/
def cmul (cplx : Bool) (x y : CVal) : CVal :=
  if cplx then
    (((x.1.mul y.1).1.add 0 (x.2.mul y.2).1.neg).1, ((x.1.mul y.2).1.add 0 (x.2.mul y.1).1).1)
  else ((x.1.mul y.1).1, .fin false 0 0)

/-- Add an exact group sum to an accumulator's bits: rounded to FP32, or modulo 2^32 for each component. -/
def accAdd (env : FEnv) (fmt : Nat) (acc : Nat) (sum : CVal) : Nat :=
  match fmt with
  | 0x10 => (fp32.round env ((fp32.dec acc).add env.rm sum.1).1).1
  | 0x03 => wrap 32 ((acc : Int) + sum.1.toInt)
  | _ => wrap 32 ((acc % 2 ^ 32 : Nat) + sum.1.toInt) + 2 ^ 32 * wrap 32 ((acc / 2 ^ 32 : Nat) + sum.2.toInt)

/-- The bits an accumulator starts from: those of an element of C, or zero. The element is taken exactly: FI of its class does not flush
it (06 R149; log 65). -/
def accInit (fmt cfmt : Nat) (x : Nat) : Nat :=
  match fmtKind cfmt with
  | .flt f => (fp32.round {} (f.dec x)).1
  | .int f => wrap 32 (f.val x)
  | .cint f => wrap 32 (f.val (x % 2 ^ f.w)) + 2 ^ 32 * wrap 32 (f.val (x / 2 ^ f.w))
  | _ => fmt * 0

/-- The value of an accumulator, for writeback: by component. -/
def accValue (fmt acc : Nat) : CVal :=
  match fmt with
  | 0x10 => (fp32.dec acc, .fin false 0 0)
  | 0x03 => (.int (toSigned 32 acc), .fin false 0 0)
  | _ => (.int (toSigned 32 (acc % 2 ^ 32)), .int (toSigned 32 (acc / 2 ^ 32)))

/-! ## Writeback (12 R287) -/

/-- One component: v × SCALE rounded once into a component format, with the flags NV 1, OF 2, SAT 4 of MXSTAT. -/
def wbComp (env : FEnv) (k : FmtKind) (scale v : Val) : FRes :=
  let p := v.mul scale
  match k with
  | .flt f =>
    let (x, fl) := f.round env p.1
    (x, (fl &&& (fNV ||| fOF)) ||| flagIf (p.1.isNan && !v.isNan && !scale.isNan) fNV)
  | .int f =>
    let (x, fl) := toIntFmt env f p.1
    (x, if fl &&& fNV ≠ 0 then fNV else flagIf (fl &&& fCSAT != 0) fSAT)
  | _ => (0, 0)

/-- An element of a C or tile format. -/
def wbElem (env : FEnv) (fmt : Nat) (scale : Val) (v : CVal) : FRes :=
  match fmtKind fmt with
  | .cint f =>
    let (x, fx) := wbComp env (.int f) scale v.1
    let (y, fy) := wbComp env (.int f) scale v.2
    (x + y * 2 ^ f.w, fx ||| fy)
  | .cflt f =>
    let (x, fx) := wbComp env (.flt f) scale v.1
    let (y, fy) := wbComp env (.flt f) scale v.2
    (x + y * 2 ^ f.w, fx ||| fy)
  | k => wbComp env k scale v.1

/-! ## Microprograms (12 R289, R290) -/

/-- Op k of an image. -/
def upOp (image : BitVec 256) (k : Nat) : Nat := bits image.toNat (16 * k + 15) (16 * k)
/-- INIT -/
def upInit (image : BitVec 256) : Nat := bits image.toNat 95 64
/-- KC -/
def upKc (image : BitVec 256) : Nat := bits image.toNat 127 96
/-- TK -/
def upTk (image : BitVec 256) : Nat := bits image.toNat 159 128
/-- CTRL.TCOND -/
def upCond (image : BitVec 256) : Nat := bits image.toNat 161 160
/-- CTRL.KIND is I32. -/
def upInt (image : BitVec 256) : Bool := bit image.toNat 162 == 1

/-- The ops before the first END. -/
def upOps (image : BitVec 256) : List Nat := ((List.range 4).map (upOp image)).takeWhile (· != 0)

/-- An op that is not END has no reserved field or code. -/
def upOpOk (o : Nat) : Bool :=
  let opc := bits o 15 12
  decide (1 ≤ opc) && decide (opc ≤ 6) && decide (bits o 11 9 ≤ 2) && decide (bits o 8 6 ≤ 5) && decide (bits o 5 3 ≤ 5)
    && (opc != 6 || bits o 5 3 == 0) && o % 8 == 0

/-- A valid image. -/
def upValid (image : BitVec 256) : Bool :=
  let ops := upOps image
  ops.all upOpOk && (((List.range 4).map (upOp image)).drop ops.length).all (· == 0) && ops.any (fun o => bits o 11 9 == 0)
    && upCond image != 3 && bits image.toNat 167 163 == 0 && image.toNat / 2 ^ 168 == 0

/-- One op on bits of FP32, or of I32. -/
def upApply (env : FEnv) (int : Bool) (opc x y : Nat) : FRes :=
  if int then
    let a := toSigned 32 x
    let b := toSigned 32 y
    match opc with
    | 1 => (wrap 32 (a + b), 0)
    | 2 => (wrap 32 (a - b), 0)
    | 3 => (wrap 32 (a * b), 0)
    | 4 => (wrap 32 (if b ≤ a then a else b), 0)
    | 5 => (wrap 32 (if a ≤ b then a else b), 0)
    | _ => (x, 0)
  else
    let a := fp32.decIn env x
    let b := fp32.decIn env y
    let nv (v : Val) : Flags := flagIf (v.isNan && !a.isNan && !b.isNan) fNV
    let out (v : Val) : FRes := ((fp32.round env v).1, nv v)
    match opc with
    | 1 => out (a.add env.rm b).1
    | 2 => out (a.add env.rm b.neg).1
    | 3 => out (a.mul b).1
    | 4 => (fp32.minmax env true x y, 0)
    | 5 => (fp32.minmax env false x y, 0)
    | _ => (x, 0)

/-- The registers s, t0, t1 after one op on a and b. -/
def upStep (env : FEnv) (image : BitVec 256) (a b : Nat) (st : Nat × Nat × Nat × Flags) (o : Nat) : Nat × Nat × Nat × Flags :=
  let (s, t0, t1, fl) := st
  let rd (i : Nat) : Nat := match i with | 0 => a | 1 => b | 2 => s | 3 => t0 | 4 => t1 | _ => upKc image
  let (r, f) := upApply env (upInt image) (bits o 15 12) (rd (bits o 8 6)) (rd (bits o 5 3))
  match bits o 11 9 with
  | 0 => (r, t0, t1, fl ||| f)
  | 1 => (s, r, t1, fl ||| f)
  | _ => (s, t0, r, fl ||| f)

/-- One k of a microprogram. -/
def upElem (env : FEnv) (image : BitVec 256) (s : Nat) (fl : Flags) (a b : Val) : Nat × Flags :=
  let enc (v : Val) : Nat := if upInt image then wrap 32 v.toInt else (fp32.round {} v).1
  let r := (upOps image).foldl (upStep env image (enc a) (enc b)) (s, 0, 0, fl)
  (r.1, r.2.2.2)

/-- TCOND holds for a result; a float is compared after the input flush (06 R142). -/
def upHolds (env : FEnv) (image : BitVec 256) (s : Nat) : Bool :=
  let c := upCond image
  if upInt image then
    let x := toSigned 32 s
    let t := toSigned 32 (upTk image)
    if c = 1 then decide (t < x) else decide (x < t)
  else (fp32.decIn env s).cmp (fp32.decIn env (upTk image)) == some (if c = 1 then .gt else .lt)

/-! ## Checksum cells (07 R161, R162) -/

/-- A checksum cell after a group whose exact sum and exact sum of magnitudes are given: for FP32 two words, else as an
accumulator. -/
def chkAdd (env : FEnv) (fmt cell : Nat) (sum : CVal) (mag : Val) : Nat :=
  if fmt = 0x10 then
    let r (x : Nat) (v : Val) : Nat := (fp32.round env ((fp32.dec x).add env.rm v).1).1
    r (cell % 2 ^ 32) sum.1 + 2 ^ 32 * r (cell / 2 ^ 32) mag
  else accAdd env fmt cell sum

/-- The first group of a cell joins the exact sum of the C values of its line; the absolute sum of an FP32 cell starts from the sum of
their magnitudes (07 R161; log 68). -/
def chkStart (env : FEnv) (fmt : Nat) (c : List CVal) (sum : CVal) (mag : Val) : Nat :=
  let cs := c.map (·.1)
  if fmt = 0x10 then
    let mags := cs.map fun v => match v with | .fin _ n e => .fin false n e | .inf _ => Val.inf false | z => z
    let r (l : List Val) (v : Val) : Nat := (fp32.round env ((sumVals 0 l).add env.rm v).1).1
    r cs sum.1 + 2 ^ 32 * r mags mag
  else accAdd env fmt (accAdd env fmt 0 (sumVals 0 cs, sumVals 0 (c.map (·.2)))) sum

/-- A word of an FP32 cell is finite. -/
def chkFinite (cell : Nat) : Bool :=
  let fin (x : Nat) : Bool := match fp32.dec x with | .fin .. => true | _ => false
  fin (cell % 2 ^ 32) && fin (cell / 2 ^ 32)

/-- Differs (07 R162) for a line of accumulators and its cell: the line's exact sums against the cell, `n` in tau. A cell has no NONFIN flag:
it stands for a line that is not finite where one of its two words is not (log 78). -/
def chkDiffers (fmt n cell : Nat) (l : List Nat) : Bool :=
  if fmt = 0x10 then
    match floatSums fp32 l with
    | none => chkFinite cell
    | some (s, a) => !chkFinite cell || floatDiffers n [cell % 2 ^ 32] [s] (cell / 2 ^ 32) a
  else
    let r := lineFacet fmt l
    if fmt = 0x03 then facetW r 0 != cell % 2 ^ 32 else facetW r 0 != cell % 2 ^ 32 || facetW r 1 != cell / 2 ^ 32

/-- CheckTile over the accumulator of a part (07 R162): `groups` is ⌈K ÷ G⌉, plus 1 when it accumulates. -/
def chkPart (fmt rows cols groups : Nat) (acc rowChk colChk : List Nat) : Checked :=
  let cell (n : Nat) : Nat := if n < rows then colChk.getD n 0 else rowChk.getD (n - rows) 0
  checkWith rows cols (fun i j => acc.getD (i * cols + j) 0) (fun n l => chkDiffers fmt (l.length + groups) (cell n) l)
    fun i l => candidate fmt (mkFacet (cell i % 2 ^ 32) (cell i / 2 ^ 32) 0 0) l

end Sys2Proof.Machine
end

