-- ==== Sys2Proof/Machine/Kneader.lean ====
section
/-! DEFINITION. The Kneader (13): windows, rules, the matching pass and the KN instructions. -/

namespace Sys2Proof.Machine

/-! ## Rules (13 R303, R304, R315) -/

/-- CLS -/
def rCls (r : Nat) : Nat := bits r 1 0
/-- NPAT -/
def rNpat (r : Nat) : Nat := bits r 3 2
/-- Replacements -/
def rReps (r : Nat) : Nat := 1 + bit r 4
/-- Base slot of replacement i. -/
def rBase (r i : Nat) : Nat := if i = 0 then bits r 6 5 else bits r 8 7
/-- PRED -/
def rPred (r : Nat) : Nat := bits r 12 9
/-- PAT k -/
def rPat (r k : Nat) : Nat := bits r (17 + 5 * k) (13 + 5 * k)
/-- EQ k -/
def rEq (r k : Nat) : Nat := bits r (39 + 12 * k) (28 + 12 * k)
/-- OVR k -/
def rOvr (r k : Nat) : Nat := bits r (88 + 13 * k) (76 + 13 * k)
/-- The constraints that are not all zero. -/
def rEqs (r : Nat) : List Nat := ((List.range 4).map (rEq r)).filter (· != 0)
/-- The overrides in use. -/
def rOvrs (r : Nat) : List Nat := ((List.range 13).map (rOvr r)).filter fun o => bits o 6 5 != 0

/-- The fields that a kind of command has (13 R304): 1 MX.MMA, 2 MX.TRN, 3 MX.SCALE. -/
def knHas (kind : Nat) : List Nat :=
  match kind with
  | 1 => [0, 1, 3, 4, 5, 6, 7, 8, 9, 10, 11, 12, 13]
  | 2 => [0, 2, 3, 4, 5, 7, 8, 9, 11, 12, 13]
  | _ => [3, 4, 5, 7, 8, 9, 10]

/-- Why a rule is invalid (13 R315), REASON 1 to 4. -/
def ruleBad (r : Nat) : Option Nat :=
  let n := rNpat r
  let kind (k : Nat) : Nat := rPat r k % 8
  let raw := (List.range 13).map (rOvr r)
  if n = 0 ∨ r / 2 ^ 245 ≠ 0 ∨ raw.any (fun o => o != 0 && bits o 6 5 == 0)
      ∨ (List.range 3).any (fun k => if k < n then !(decide (1 ≤ kind k) && decide (kind k ≤ 3)) else rPat r k != 0) then some 1
  else if (rEqs r).any (fun e => decide (n ≤ bits e 1 0) || decide (n ≤ bits e 7 6)) ∨ n ≤ rBase r 0
      ∨ (rReps r = 2 ∧ n ≤ rBase r 1) ∨ (rReps r = 1 ∧ rBase r 1 ≠ 0)
      ∨ (rOvrs r).any (fun o => decide (n ≤ bits o 8 7) || (bit o 0 == 1 && rReps r == 1)) then some 2
  else if (rOvrs r).any (fun o =>
      let f := bits o 4 1
      !((knHas (kind (rBase r (bit o 0)))).contains f) || (bits o 6 5 == 2 && !([11, 12, 13].contains f)) || (bits o 6 5 == 3 && f != 10)) then some 3
  else if 3 < rPred r ∨ ((rPred r = 1 ∨ rPred r = 2) ∧ (n ≠ 2 ∨ kind 0 ≠ 1 ∨ kind 1 ≠ 3))
      ∨ (rPred r = 3 ∧ (n ≠ 2 ∨ kind 0 ≠ 1 ∨ kind 1 ≠ 1)) then some 4
  else none

/-- A rule after reset has CLS 3 (13 R312). -/
def Tray.rule (t : Tray) (i : Nat) : Nat := ((tget? t.rules i).map (·.toNat)).getD 3

/-! ## Command fields (13 R304) -/

/-- The number of a kind in a rule. -/
def MxKind.num : MxKind → Nat
  | .mma => 1 | .trn => 2 | .scale => 3 | .uprog => 0

/-- The handle a command of the hart on core n names by index. -/
def State.knHandle (s : State) (n i : Nat) : Option Handle := s.ownHandle (s.hartAt n).ctx (dieOf n * 1024 + i)

/-- A field of a command, where `before` are the earlier commands of the window; none where its kind lacks it. -/
def State.knField (s : State) (n : Nat) (before : List MxCmd) (c : MxCmd) (code : Nat) : Option Nat :=
  let mma := c.kind == .mma
  let trn := c.kind == .trn
  let scale := c.kind == .scale
  match code with
  | 0 => if mma || trn then some c.ah else none
  | 1 => if mma then some c.bh else none
  | 2 => if trn then some c.dh else none
  | 3 => if c.toCap then c.destLoc.map fun l => l1Key l.1 l.2 else none
  | 4 => if c.kind = .uprog then none else some c.m
  | 5 => if c.kind = .uprog then none else some c.n
  | 6 => if mma then some c.k else none
  | 7 => if c.kind = .uprog then none else some c.afmt
  | 8 => if c.kind = .uprog then none else some c.bfmt
  | 9 => if c.kind = .uprog then none else some c.cfmt
  | 10 => if mma || scale then some c.scale.toNat else none
  | 11 => if mma then some (b2n c.ta) else if trn then some 0 else none
  | 12 => if mma then some (b2n c.tb) else if trn then some 0 else none
  | 13 => if mma then some (b2n c.acc) else if trn then some 0 else none
  | 14 =>
    if (mma || trn) && !(before.any (·.names c.ah)) then
      match s.knHandle n c.ah with
      | some h =>
        let key := h.keyFor n
        match h.ring key with
        | some r => if (r.slot r.head).st == .full then some (l1Key (dieOf n) (h.off key (r.head * h.slotsz))) else none
        | none => none
      | none => none
    else none
  | _ => if c.kind = .uprog then none else some (b2n trn)

/-! ## The tests of a rule on a run S (13 R301, R302, R305, R306) -/

/-- A run with what stands before it in the window. -/
structure Run where
  before : List MxCmd
  s : List MxCmd

/-- Field of slot k. -/
def State.runField (s : State) (n : Nat) (x : Run) (k code : Nat) : Option Nat :=
  match x.s[k]? with
  | some c => s.knField n (x.before ++ x.s.take k) c code
  | none => none

/-- Kinds(r, S) -/
def knKinds (r : Nat) (x : Run) : Bool :=
  x.s.zipIdx.all fun e =>
    let p := rPat r e.2
    e.1.kind.num == p % 8 && (bit p 3 == 0 || !e.1.acc) && (bit p 4 == 0 || (!e.1.ta && !e.1.tb))

/-- Equalities(r, S) -/
def State.knEqs (s : State) (n r : Nat) (x : Run) : Bool :=
  (rEqs r).all fun e =>
    match s.runField n x (bits e 1 0) (bits e 5 2), s.runField n x (bits e 7 6) (bits e 11 8) with
    | some a, some b => a == b
    | _, _ => false

/-- The exact product of two FP32 words, as an FP32 word where it is finite and exact. -/
def exactMul (a b : Nat) : Option Nat :=
  let p := ((fp32.dec a).mul (fp32.dec b)).1
  match p with
  | .fin .. => let x := (fp32.round {} p).1; if (fp32.dec x).cmp p = some .eq then some x else none
  | _ => none

/-- Pred(r, S) (13 R305). -/
def State.knPred (s : State) (n r : Nat) (x : Run) : Bool :=
  match x.s with
  | a :: b :: _ =>
    let sc := b.scale.toNat
    match rPred r with
    | 0 => true
    | 1 => a.scale == 0x3F800000 && (match fmtKind a.cfmt with | .int _ => true | .cint _ => true | _ => false)
        && decide (127 ≤ sc / 2 ^ 23) && decide (sc / 2 ^ 23 ≤ 157) && sc % 2 ^ 23 == 0
    | 2 =>
      let p := ((fp32.dec a.scale.toNat).mul (fp32.dec sc)).1
      let pow2 : Bool := match fp32.dec sc with | .fin _ m _ => m != 0 && m == 2 ^ log2Below 64 m | _ => false
      pow2 && (p.reaches (-126)) && !(p.reaches 128)
    | _ =>
      (s.runField n x 1 14).isSome && decide (a.k * a.n * b.n + a.m * a.k * b.n < a.m * a.k * a.n + a.m * a.n * b.n)
        && match s.knHandle n b.ah with
          | some h => decide (a.k * roundUp (b.n * a.wC / 8) 64 ≤ h.slotsz)
          | none => false
  | _ => rPred r == 0

/-- A declared tile overlaps a ring copy. -/
def State.tileInRing (s : State) (hearth : Nat) (h : Handle) (key : Nat) : Bool :=
  (s.hearth hearth).tiles.any fun t => (Range.flat t.2.base t.2.span).overlaps (h.range key 0 (h.nslot * h.slotsz))

/-- The slots of a run that become bases of replacements. -/
def rBases (r : Nat) : List Nat := (List.range (rReps r)).map (rBase r)

/-- Conditions(r, S) (13 R302), but those on the replacements. -/
def State.knConditions (s : State) (n r : Nat) (x : Run) : Bool :=
  let same (a b : MxCmd) : Bool := a.round == b.round && a.flush == b.flush && a.rptc == b.rptc
  (match x.s with | a :: rest => rest.all (same a) | [] => true)
    && x.s.all (fun c => c.kind != .uprog && !c.tok && !c.sp && c.up == 0 && c.nT == 1)
    && x.s.zipIdx.all fun e =>
      let c := e.1
      if c.kind != .trn then true
      else
        (match s.knHandle n c.ah with | some h => !(s.tileInRing (dieOf n) h (h.keyFor n)) | none => true)
          && ((rBases r).contains e.2 ||
            (c.dh != 0x3FF && (x.s.drop (e.2 + 1)).any (fun d => d.ah == c.dh || d.bh == c.dh) && !(x.before.any (·.names c.dh))
              && (x.s.filter (·.names c.dh)).length == 2
              && match s.knHandle n c.dh with
                | some h => match h.ring (h.keyFor n) with
                  | some g => g.slots.all fun y => y.st != .filling && y.st != .full
                  | none => false
                | none => false))

/-- Permitted(r, S) (13 R306). -/
def knPermitted (r : Nat) (x : Run) : Bool :=
  x.s.all fun c => c.kind != .mma || rCls r == 0 || (if rCls r = 1 then c.kpRound else c.kpReassoc)

/-! ## Replacements (13 R307) -/

/-- Write a field of a command from field f1 of a command `src`; none where no command can hold the value. DEST comes from another DEST
with its capability, or from a place in L1, which the command's own capability must cover. -/
def MxCmd.setField (c : MxCmd) (f v f1 : Nat) (src : MxCmd) : Option MxCmd :=
  let recap (c : MxCmd) (v : Nat) : MxCmd :=
    if c.toCap && c.kind != .trn then { c with cfmt := v, cap := { c.cap with md := c.cap.md &&& ~~~(0x1F00#64) ||| w64 (v % 32 * 256) } } else { c with cfmt := v }
  match f with
  | 0 => if v < 1024 then some { c with ah := v } else none
  | 1 => if v < 1024 then some { c with bh := v } else none
  | 2 => if v < 1024 then some { c with dh := v } else none
  | 3 => if !c.toCap then none else if f1 ≠ 3 then (if v < 0x10000000 then some { c with dest := apertureVa (keyHearth v) (keyOff v), destLoc := some (keyHearth v, keyOff v) } else none) else if src.toCap then some { c with dest := src.dest, destLoc := src.destLoc, near := src.near, cap := { src.cap with md := if c.kind = .trn then src.cap.md else src.cap.md &&& ~~~(0x1F00#64) ||| w64 (c.cfmt % 32 * 256) } } else none
  | 4 => some { c with m := v }
  | 5 => some { c with n := v }
  | 6 => some { c with k := v }
  | 7 | 8 | 9 =>
    if 32 ≤ v then none
    else if c.kind = .mma then (if f = 7 then some { c with afmt := v } else if f = 8 then some { c with bfmt := v } else some (recap c v))
    else some (recap { c with afmt := v, bfmt := v } v)
  | 10 => if v < 2 ^ 32 then some { c with scale := BitVec.ofNat 32 v } else none
  | 11 => if 2 ≤ v ∨ (c.kind = .trn ∧ v = 1) then none else if c.kind = .trn then some c else some { c with ta := v == 1 }
  | 12 => if 2 ≤ v ∨ (c.kind = .trn ∧ v = 1) then none else if c.kind = .trn then some c else some { c with tb := v == 1 }
  | 13 => if 2 ≤ v ∨ (c.kind = .trn ∧ v = 1) then none else if c.kind = .trn then some c else some { c with acc := v == 1 }
  | _ => none

/-- Apply one override to a replacement whose base slot is `base` (R304): MUL takes the SCALE of S1, whatever F1 names. -/
def State.knOverride (s : State) (n : Nat) (x : Run) (base : Nat) (c : MxCmd) (o : Nat) : Option MxCmd :=
  let f := bits o 4 1
  let f1 := if bits o 6 5 = 3 then 10 else bits o 12 9
  match s.runField n x (bits o 8 7) f1, x.s[bits o 8 7]? with
  | some v, some src =>
    match bits o 6 5 with
    | 1 => c.setField f v f1 src
    | 2 => (s.runField n x base f).bind fun b => c.setField f (b ^^^ v) f src
    | _ => (s.runField n x base 10).bind fun b => (exactMul b v).bind fun p => c.setField 10 p 10 src
  | _, _ => none

/-- Shapes that a tail can hold (09 R213). -/
def MxCmd.encodable (c : MxCmd) : Bool :=
  let top := if c.kind = .mma then 512 else 64
  c.m % 8 == 0 && decide (8 ≤ c.m) && decide (c.m ≤ top) && c.n % 8 == 0 && decide (8 ≤ c.n) && decide (c.n ≤ top)
    && (c.kind != .mma || (c.k % 16 == 0 && decide (16 ≤ c.k) && decide (c.k ≤ 4096)))

/-- The first range lies within the second. -/
def Range.within (a b : Range) : Bool :=
  a.pieces.all fun p => b.pieces.any fun q => decide (q.1 ≤ p.1) && decide (p.1 + p.2 ≤ q.1 + q.2)

/-- A box lies within a slot of a ring of its Hearth. -/
def State.inRingSlot (s : State) (x : Seg) : Bool :=
  (s.hearth x.1).handles.any fun h => !h.2.track && h.2.rings.any fun g => (List.range h.2.nslot).any fun i =>
    x.2.within (h.2.range g.1 (i * h.2.slotsz) h.2.slotsz)

/-- A replacement with the segments of its box and the originals whose entries it takes over. -/
structure Formed where
  cmd : MxCmd
  segs : List Seg
  taken : List MxCmd

/-- Two commands write one destination. -/
def MxCmd.sameDest (a b : MxCmd) : Bool := a.toCap && b.toCap && a.destLoc.isSome && a.destLoc == b.destLoc

/-- The capability of a destination grants what its command needs (12 R285 step 2, R291, R292). -/
def MxCmd.capOk (c : MxCmd) : Bool := !c.toCap || (c.cap.lacks { rd := c.kind == .scale, wr := true, eng := true }).isNone

/-- Form replacement i of rule r, which stands at index idx (13 R307). -/
def State.knFormOne (s : State) (n r idx i : Nat) (x : Run) : Option Formed :=
  match x.s[rBase r i]? with
  | none => none
  | some b =>
    let mmas := x.s.filter (·.kind == .mma)
    let start : MxCmd := { b with
      locks := [], lands := [], spareLocks := [], spareLands := [], spareSlots := [], seqs := [], kn := true, rule := idx, elided := [], undo := []
      kpRound := if mmas.isEmpty then b.kpRound else mmas.all (·.kpRound)
      kpReassoc := if mmas.isEmpty then b.kpReassoc else mmas.all (·.kpReassoc) }
    let c := ((rOvrs r).filter (fun o => bit o 0 == i)).foldl (fun (c : Option MxCmd) o => c.bind fun c => s.knOverride n x (rBase r i) c o) (some start)
    match c with
    | none => none
    | some c =>
      let c := { c with parts := s.mxParts n c, fc := x.s.any fun d => d.fc && d.sameDest c }
      if !c.encodable || c.nT != 1 || !c.capOk || (s.mxShape n c).isSome || (s.mxHandles n c).isSome then none
      else
        match s.mxBox n c with
        | .error _ => none
        | .ok segs =>
          if !c.toCap then some { cmd := c, segs := [], taken := [] }
          else
            let taken := x.s.filter (·.sameDest c)
            let held := taken.flatMap fun d => d.locks.filterMap fun e => (tget? (s.hearth e.1).locks e.2).map fun y => (e.1, y.range)
            if taken.isEmpty || !(segs.all fun g => held.any (fun y => y.1 == g.1 && g.2.within y.2) || s.inRingSlot g) then none
            else some { cmd := c, segs := segs, taken := taken }

/-- Formable(r, S): every replacement. -/
def State.knForm (s : State) (n r idx : Nat) (x : Run) : Option (List Formed) :=
  let l := (List.range (rReps r)).map fun i => s.knFormOne n r idx i x
  if l.all (·.isSome) then some (l.filterMap id) else none

/-- The destination iteration of a part of a command (12 R287). -/
def MxCmd.partIter (c : MxCmd) (p q : Nat) : Iter :=
  let m := if c.kind = .uprog then 0 else if c.kind = .trn then c.n else c.pm p
  let n := if c.kind = .trn then c.m else c.pn q
  { rowlen := n * c.wC / 8, cnt1 := m, cnt2 := 1, s1 := 0, s2 := 0, d1 := c.pitch, d2 := 0, dims := if m ≤ 1 then 1 else 2 }

/-- The watermark mode and shift of a part (05 R115). -/
def MxCmd.partMode (c : MxCmd) (p q : Nat) : Nat × Nat := (c.partIter p q).mode

/-- The length of a part's box. -/
def MxCmd.partLen (c : MxCmd) (p q : Nat) : Nat :=
  if c.kind = .mma then (c.pm p - 1) * c.pitch + c.pn q * c.wC / 8 else c.boxLen

/-- The segments of a part's box. -/
def MxCmd.partSegs (n : Nat) (c : MxCmd) (p : MxPart) : List Seg :=
  (segsOf n c.near (c.dest.toNat + c.partOff p.p p.q) (c.partLen p.p p.q)).toOption.getD []

/-- Create the entries of a command over its destination: one lock for the box, a landing entry for each part (12 R279, R287). -/
def State.mxEntries (s : State) (n : Nat) (c : MxCmd) (segs : List Seg) : State × MxCmd :=
  let o := mxOwner n c.seq
  let (s, locks) := addEach (fun s x => s.addLock o 1 (s.nearForm x)) s segs
  let (s, lands) := c.parts.foldl (fun (a : State × List (Nat × Nat)) p =>
    let (m, sh) := c.partMode p.p p.q
    let (s, l) := a.1.addLands o m sh ((c.partSegs n p).map s.nearForm)
    (s, a.2 ++ l)) (s, [])
  (s, { c with locks := locks, lands := lands })

/-- A range-lock entry of a command becomes another command's, over its range: rows it covers no longer become stale (02 R63). -/
def State.resizeLock (s : State) (owner : Nat) (e : Nat × Nat) (r : Range) : State :=
  s.modHearth e.1 fun h =>
    match tget? h.locks e.2 with
    | none => h
    | some x =>
      Hearth.restale { h with
        locks := tset h.locks e.2 { x with owner := owner, range := r, active := x.active && r.within x.range }
        filter := r.rows.foldl sadd h.filter, stale := r.rows.foldl sdel h.stale } x.range.rows

/-- The same for a landing entry. -/
def State.resizeLand (s : State) (owner : Nat) (mode : Nat × Nat) (e : Nat × Nat) (r : Range) (off : Nat) : State :=
  s.modHearth e.1 fun h =>
    match tget? h.lands e.2 with
    | none => h
    | some x =>
      Hearth.restale { h with
        lands := tset h.lands e.2 { x with owner := owner, range := r, mode := mode.1, shift := mode.2, off := off, active := x.active && r.within x.range }
        filter := r.rows.foldl sadd h.filter, stale := r.rows.foldl sdel h.stale } x.range.rows

/-- Entries fit segments: those of the segments' Hearths are resized, what is over is removed and what lacks is made. -/
def fitEntries (resize : State → Nat × Nat → Range → Nat → State) (add : State → Seg → Nat → State × (Nat × Nat)) (del : State → Nat × Nat → State)
    (segs : List Seg) (s : State) (old : List (Nat × Nat)) : State × List (Nat × Nat) :=
  let (s, left, mine) := (withOffs segs).foldl (fun (a : State × List (Nat × Nat) × List (Nat × Nat)) g =>
    match a.2.1.find? (·.1 == g.1.1) with
    | some e => (resize a.1 e g.1.2 g.2, a.2.1.erase e, a.2.2 ++ [e])
    | none => let (s, e) := add a.1 g.1 g.2; (s, a.2.1, a.2.2 ++ [e])) (s, old, [])
  (left.foldl del s, mine)

/-- The entries of several commands fit the same segments, those of each in turn. -/
def fitEach (fit : State → List (Nat × Nat) → State × List (Nat × Nat)) (s : State) (l : List (List (Nat × Nat))) : State × List (Nat × Nat) :=
  l.foldl (fun p e => let (s, r) := fit p.1 e; (s, p.2 ++ r)) (s, [])

/-- A replacement takes over the entries of the originals, each resized to its box (R307). -/
def State.knTake (s : State) (n : Nat) (f : Formed) : State × MxCmd :=
  if !f.cmd.toCap then (s, f.cmd)
  else
    let o := mxOwner n f.cmd.seq
    let mode := f.cmd.partMode 0 0
    let box := ((f.cmd.parts.head?.map (f.cmd.partSegs n)).getD []).map s.nearForm
    let (s, locks) := fitEach (fitEntries (fun s e r _ => s.resizeLock o e r) (fun s x _ => s.addLock o 1 x) State.delLock (f.segs.map s.nearForm)) s
      (f.taken.map (·.locks))
    let (s, lands) := fitEach (fitEntries (·.resizeLand o mode) (fun s x f => s.addLand o mode.1 mode.2 x f) State.delLand box) s (f.taken.map (·.lands))
    (s, { f.cmd with locks := locks, lands := lands })

/-- Replace a run of a hart's window: the replacements, all eligible, in its place. The last of them stands for every original,
with the transposes elided, the entries that nothing writes any longer, and the set of those before it (13 R302, R307, R310). The first
takes the place of the oldest original, a second that of the newest, or the place after it where there is but one. -/
def State.knApply (s : State) (n r idx : Nat) (x : Run) (l : List Formed) : State :=
  let h := s.hartAt n
  let seqs := x.s.flatMap (·.seqs)
  let sets := h.mx.sets + 1
  let old := (x.s.filter (·.kn)).map (·.set)
  let elided := x.s.flatMap (·.elided) ++ (x.s.zipIdx.filterMap fun e =>
    if e.1.kind = .trn ∧ !(rBases r).contains e.2 ∧ e.1.dh ≠ 0x3FF then
      some (dieOf n * 1024 + e.1.dh, ((s.knHandle n e.1.dh).map (·.keyFor n)).getD 512)
    else none)
  let entered := (x.s.map (·.enteredAt)).foldl min ((x.s.head?.map (·.enteredAt)).getD 0)
  let (s, reps) := l.foldl (fun (a : State × List MxCmd) f =>
    let c := { f.cmd with seq := if a.2.length + 1 = l.length then seqs.getLastD f.cmd.seq else seqs.headD f.cmd.seq }
    let (s, c) := a.1.knTake n { f with cmd := c }
    let stamp := if a.2.isEmpty then (x.s.head?.map (·.stamp)).getD c.stamp
      else match x.s with | [b] => b.stamp + 1 | l => (l.getLast?.map (·.stamp)).getD c.stamp
    (s, a.2 ++ [{ c with set := sets, stage := .eligible, enteredAt := entered, stamp := stamp }])) (s, [])
  let used := l.flatMap (·.taken)
  let loose := x.s.filter fun d => !(used.any fun u => u.stamp == d.stamp)
  let s := loose.foldl (fun s d =>
    let o := mxOwner n (seqs.getLastD d.seq)
    d.lands.foldl (fun s e => s.modLands [e] fun y => { y with owner := o }) (d.locks.foldl (fun s e => s.modHearth e.1 fun h =>
      match tget? h.locks e.2 with
      | some y => { h with locks := tset h.locks e.2 { y with owner := o } }
      | none => h) s)) s
  let last (c : MxCmd) : MxCmd :=
    { c with seqs := seqs, elided := elided, undo := x.s.flatMap (·.undo)
             spareLocks := x.s.flatMap (·.spareLocks) ++ loose.flatMap (·.locks), spareLands := x.s.flatMap (·.spareLands) ++ loose.flatMap (·.lands)
             spareSlots := x.s.flatMap (·.spareSlots) }
  let reps := reps.mapIdx fun i c => if i + 1 = reps.length then last c else c
  let run := x.s.map (·.stamp)
  let relabel (c : MxCmd) : MxCmd := if c.kn && old.contains c.set then { c with set := sets, rule := idx } else c
  let q := h.mx.queue.filter fun c => !run.contains c.stamp
  let (front, back) := q.partition fun c => c.stage != .queued
  let mx := { h.mx with
    queue := front.map relabel ++ reps ++ back
    sets := sets
    rw := min (h.mx.rw + 1) 65535
    absd := min (h.mx.absd + x.s.length - reps.length) 65535
    ex := if rCls r = 0 then min (h.mx.ex + 1) 65535 else h.mx.ex
    rd := if rCls r = 1 then min (h.mx.rd + 1) 65535 else h.mx.rd
    ra := if rCls r = 2 then min (h.mx.ra + 1) 65535 else h.mx.ra }
  (s.modHart n fun h => { h with mx := mx }).modTray (trayOf n) fun t => { t with hits := tmod 0 t.hits idx fun k => min (k + 1) 0xFFFFFFFF }

/-- The pass from rule r on (13 R301). -/
def State.knRules (s : State) (n : Nat) : Nat → Nat → State
  | 0, _ => s
  | fuel + 1, i =>
    let t := s.tray (trayOf n)
    let r := t.rule i
    let h := s.hartAt n
    let win := h.mx.queue.filter fun c => c.stage == .eligible || c.stage == .ready
    let el := win.filter (·.stage == .eligible)
    let p := rNpat r
    if !t.rmask.getLsbD i || rCls r == 3 || p == 0 || decide (el.length < p) then s.knRules n fuel (i + 1)
    else
      let x : Run := { before := win.take (win.length - p), s := win.drop (win.length - p) }
      if knKinds r x && s.knEqs n r x && s.knPred n r x && s.knConditions n r x then
        match s.knForm n r i x with
        | none => s.knRules n fuel (i + 1)
        | some l =>
          if knPermitted r x then s.knApply n r i x l
          else (s.modHart n fun h => { h with mx := { h.mx with den := min (h.mx.den + 1) 65535 } }).knRules n fuel (i + 1)
      else s.knRules n fuel (i + 1)

/-- The first command that waits to enter enters the window; with its bit of CMASK set, one pass runs. -/
def State.knEnterOne (s : State) (n : Nat) : Option State :=
  let h := s.hartAt n
  match h.mx.queue.find? (·.stage == .queued) with
  | none => none
  | some c =>
    if 8 ≤ h.mx.window.length then none
    else
      let on := (s.tray (trayOf n)).cmask.getLsbD (n % 8)
      let f (d : MxCmd) : MxCmd := if d.stamp = c.stamp then { d with stage := if on then .eligible else .ready, enteredAt := s.m.now } else d
      let s := s.modHart n fun h => { h with mx := { h.mx with queue := h.mx.queue.map f } }
      some (if on then s.knRules n 64 0 else s)

/-- While a command waits to enter a full window, the oldest one becomes dispatchable (13 R300). -/
def State.knPressed (s : State) (n : Nat) : State :=
  let x := (s.hartAt n).mx
  if x.queue.any (·.stage == .queued) && decide (8 ≤ x.window.length) then
    match x.queue.find? fun c => c.stage == .eligible || c.stage == .ready with
    | some o =>
      let f (d : MxCmd) : MxCmd := if d.stamp = o.stamp ∧ d.stage = .eligible then { d with stage := .ready } else d
      s.modHart n fun h => { h with mx := { h.mx with queue := h.mx.queue.map f } }
    | none => s
  else s

/-- Enter what has room. -/
def State.knEnter (s : State) (n : Nat) : Nat → State
  | 0 => s.knPressed n
  | fuel + 1 =>
    match s.knEnterOne n with
    | some s => s.knEnter n fuel
    | none => s.knPressed n

/-- KNEADER_ENTRY (13 R300, R301). -/
def execKneaderEntry (n : Nat) (s : State) : Out :=
  eventOf (decide (n < 4096)) ((s.knEnterOne n).map fun s => s.knPressed n) s

/-- The window of a hart is due to flush by age: 64 cycles of the array's clock (13 R300; log 5). -/
def State.knAged (s : State) (n : Nat) : Option State :=
  let x := (s.hartAt n).mx
  match x.window with
  | [] => none
  | c :: _ =>
    if x.window.any (·.stage == .eligible) && decide (c.enteredAt + 64 * mclkUnits ≤ s.m.now) then
      some (s.modHart n fun h => { h with mx := h.mx.flush true })
    else none

/-- KNEADER_AGE_FLUSH (13 R300). -/
def execKneaderAgeFlush (n : Nat) (s : State) : Out := eventOf (decide (n < 4096)) (s.knAged n) s

/-! ## KN.LOAD, KN.CTL, KN.STAT (13 R311 to R315) -/

/-- Every window of a Tray flushes. -/
def State.flushTray (s : State) (tray : Nat) : State := (List.range 8).foldl (fun s i => s.flushWindow (8 * tray + i)) s

/-- KNEAD_RULE. -/
def kneadRule {α : Type} (s : State) (a : Word) (reason : Nat) : R α := raise s 0x29 a (w64 (0x100 * reason))

/-- Write rules of an image at indices from `first`. -/
def Tray.loadRules (t : Tray) (v first : Nat) (n : Nat) : Tray :=
  (List.range n).foldl (fun t i => { t with rules := tset t.rules (first + i) (BitVec.ofNat 256 (v / 2 ^ (256 * (i + 1)))) }) t

/-- R312: KN.LOAD. -/
def execKnLoad (n : Fin 4) (b : CReg) (s : State) : Out :=
  complete do
    if s.miller then illegalInsn s (.knLoad n b) 4
    s.needLevel (.knLoad n b) .k
    s.readyC [b]
    let c := s.rc b
    let (s, hd, _, _) ← s.readCap c b.val c.addr 32 32
    let k := hd % 256
    let first := hd / 256 % 256
    let bytes := 32 + 32 * k
    let (s, v, _, ev) ← s.readCap c b.val c.addr bytes 32
    if k = 0 ∨ 64 < k ∨ 64 < first + k ∨ hd / 65536 ≠ 0 then kneadRule s c.addr 0
    match (List.range k).findSome? fun i => (ruleBad (v / 2 ^ (256 * (i + 1)) % 2 ^ 256)).map fun r => (i, r) with
    | some (i, r) => kneadRule s (c.addr + w64 (32 + 32 * i)) r
    | none =>
      let s ← s.pairGate
      let t := trayOf s.cur
      let s := (s.flushTray t).modTray t fun t => t.loadRules v first k
      .ok ((s.retire { s := n, maj := 0x3B, ev := ev }).pairOnce)

/-- R313: KN.CTL with OP 0. -/
def execKnCtlRmask (n : Fin 4) (b : CReg) (s : State) : Out :=
  complete do
    if s.miller then illegalInsn s (.knCtlRmask n b) 4
    s.needLevel (.knCtlRmask n b) .k
    s.readyC [b]
    let s ← s.pairGate
    let t := trayOf s.cur
    let v := s.ra b
    .ok ((((s.flushTray t).modTray t fun t => { t with rmask := v }).retire { s := n, maj := 0x3B }).pairOnce)

/-- R313: KN.CTL with OP 1. -/
def execKnCtlCmask (n : Fin 4) (b : CReg) (s : State) : Out :=
  complete do
    if s.miller then illegalInsn s (.knCtlCmask n b) 4
    s.needLevel (.knCtlCmask n b) .k
    s.readyC [b]
    let v := s.ra b
    if 256 ≤ v.toNat then handleState s 8 0
    let s ← s.pairGate
    let t := trayOf s.cur
    .ok ((((s.flushTray t).modTray t fun t => { t with cmask := v.setWidth 8 }).retire { s := n, maj := 0x3B }).pairOnce)

/-- The KN.STAT counters of a hart cleared. -/
def MxSt.clearCounts (x : MxSt) : MxSt := { x with rw := 0, absd := 0, fl := 0, age := 0, ex := 0, rd := 0, ra := 0, den := 0 }

/-- R313: KN.CTL with OP 2. -/
def execKnCtlClr (n : Fin 4) (s : State) : Out :=
  complete do
    if s.miller then illegalInsn s (.knCtlClr n) 4
    s.needLevel (.knCtlClr n) .k
    let s ← s.pairGate
    let t := trayOf s.cur
    let s := (s.flushTray t).modTray t fun t => { t with hits := [] }
    let s := (List.range 8).foldl (fun s i => s.modHart (8 * t + i) fun h => { h with mx := h.mx.clearCounts }) s
    .ok ((s.retire { s := n, maj := 0x3B }).pairOnce)

/-- Four 16-bit counts. -/
def counts4 (a b c d : Nat) : Word := w64 (a + b * 0x10000 + c * 0x100000000 + d * 0x1000000000000)

/-- R314: KN.STAT with SEL 0. -/
def execKnStatCore (n : Fin 4) (a : CReg) (s : State) : Out :=
  complete do
    if s.miller then illegalInsn s (.knStatCore n a) 4
    let x := s.hart.mx
    .ok ((s.setX a (counts4 x.rw x.absd x.fl x.age)).retire { s := n, maj := 0x3B })

/-- R314: KN.STAT with SEL 1. -/
def execKnStatRule (n : Fin 4) (a b : CReg) (s : State) : Out :=
  complete do
    if s.miller then illegalInsn s (.knStatRule n a b) 4
    s.readyC [b]
    let i := (s.ra b).toNat % 64
    let t := s.tray (trayOf s.cur)
    .ok ((s.setX a (w64 (tget 0 t.hits i + rCls (t.rule i) * 0x100000000))).retire { s := n, maj := 0x3B })

/-- R314: KN.STAT with SEL 2. -/
def execKnStatClass (n : Fin 4) (a : CReg) (s : State) : Out :=
  complete do
    if s.miller then illegalInsn s (.knStatClass n a) 4
    let x := s.hart.mx
    .ok ((s.setX a (counts4 x.ex x.rd x.ra x.den)).retire { s := n, maj := 0x3B })

end Sys2Proof.Machine
end

