-- ==== Sys2Proof/Machine/MatrixRun.lean ====
section
/-! DEFINITION. The matrix instructions (12 R281 to R295), and their commands at work: dispatch, tile steps, retirement and faults
(12 R286, R296 to R299; 07 R162, R163; 13 R310). -/

namespace Sys2Proof.Machine

/-! ## Acceptance (12 R279) -/

/-- A command with what it samples of the hart whose turn it is. -/
def State.mxBase (s : State) (kind : MxKind) (a : CReg) (toCap : Bool) : MxCmd where
  kind := kind
  seq := 0
  seqs := []
  m := 0
  n := 0
  k := 0
  afmt := 0
  bfmt := 0
  cfmt := 0
  ah := 0x3FF
  bh := 0x3FF
  dh := 0x3FF
  dest := s.ra a
  destLoc := if toCap then mxDestLoc s.cur s.hart.ctl.nearctl (s.ra a) else none
  scale := 0x3F800000
  round := s.hart.ctl.round
  flush := s.hart.ctl.flush
  rptc := s.hart.ctl.rptc
  user := s.user
  near := s.hart.ctl.nearctl
  pass := s.hart.rep.phase == 1
  cap := s.rc a

/-- Steps 3, 4, 6 and 7 of R285, with `mid` (step 5) between; the command with its parts, and the segments of its box. -/
def State.mxCheck (s : State) (c : MxCmd) (mid : R MxCmd) : R (MxCmd × List Seg) := do
  let c0 := { c with parts := s.mxParts s.cur c }
  match s.mxShape s.cur c0 with
  | some (cause, v, i) => raise s cause v i
  | none => .ok ()
  let c1 ← mid
  let c1 := { c1 with parts := c0.parts }
  match s.mxBox s.cur c1 with
  | .error (cause, v, i) => raise s cause v i
  | .ok segs =>
    match s.mxHandles s.cur c1 with
    | some (cause, v, i) => raise s cause v i
    | none => .ok (c1, segs)

/-- A command is accepted: it waits while a queue that takes it is full, entries are lacking or its box overlaps an operation
outside its own queue; then it takes its number, its entries and its place, and enters the window if there is room. -/
def State.mxAccept (s : State) (c : MxCmd) (segs : List Seg) : R State := do
  let own (o : Nat) : Bool := decide (0x100000 ≤ o) && (o - 0x100000) / 0x10000 == s.cur
  let lands := c.parts.flatMap fun p => if c.toCap then c.partSegs s.cur p else []
  guardWait (decide (s.mxLoad s.cur < 16) && c.parts.all (fun p => decide (s.mxLoad p.core < 16))) true s
  guardWait (s.entriesFree segs lands) true s
  guardWait (!(s.busy own (if c.readsDest then segs else []) segs)) true (s.flushBusyBut own segs segs)
  let seq := (s.hart.mx.nextSeq + 1) % 65536
  let c := { c with seq := seq, seqs := [seq], stamp := s.m.mxStamp + 1 }
  let s := s.onMod fun m => { m with mxStamp := m.mxStamp + 2 }
  let s := if segs.isEmpty then s else s.captureBox s.cur c.pass (segPages segs)
  let (s, c) := if c.toCap then s.mxEntries s.cur c segs else (s, c)
  let s := s.onHart fun h => { h with mx := { h.mx with nextSeq := seq, queue := h.mx.queue ++ [c] } }
  .ok (s.knEnter s.cur 16)

/-- A command that has passed its checks is accepted; in a paired stream it is held (14 R347). -/
def State.mxSubmit (s : State) (c : MxCmd) (segs : List Seg) : R State := s.orHold (.matrix c segs) c.dest [] (·.mxAccept c segs)

/-- Step 1 of R285. -/
def State.mxBound (s : State) : R Unit := guardHandle (s.hart.bound .mxpush) s 6 0

/-- Head B of a plain or scaled command (12 R287): c0 stands for 1.0. -/
def State.mxScale (s : State) (b : CReg) (sp : Bool) (c : MxCmd) : R MxCmd :=
  if b = 0 then .ok c
  else
    let v := (s.ra b).toNat
    if v / 2 ^ 35 ≠ 0 ∨ (!sp ∧ bits v 34 32 ≠ 0) then raise s 0x25 c.dest (mxInfo 4 false false 0 0 (trayOf s.cur))
    else .ok { c with scale := BitVec.ofNat 32 v, skv := bits v 34 32 }

/-- A stream register is bound as a read stream of FMT N16 (12 R288). -/
def State.n16Stream (s : State) (v : Nat) : Bool :=
  match tget? s.hart.streams v with
  | some b => !b.write && (((tget? s.m.ops b.opn).map (·.cmd.fmt)) == some 0x06)
  | none => false

/-- Step 5 of R285 for MX.MMA: the token targets, or the scale register and the skip list. -/
def State.mxHeadB (s : State) (o : MmaOp) (c : MxCmd) : R MxCmd := do
  if o.tok then
    let b1 : CReg := ⟨(o.b.val + 1) % 16, by omega⟩
    if o.b.val % 2 = 1 then raise s 0x25 c.dest (mxInfo 4 false false 0 0 (trayOf s.cur))
    s.jumpCheck (s.rc o.b) o.b.val
    s.jumpCheck (s.rc b1) b1.val
    .ok { c with t0 := s.ra o.b, t1 := s.ra b1 }
  else if o.up ≠ 0 then .ok c
  else
    let c ← s.mxScale o.b o.sp c
    guardHandle (!o.sp || s.n16Stream (24 + c.skv)) s 6 0
    .ok c

/-- R281 to R285: MX.MMA. With UP ≠ 0 and TOK = 0 nothing reads c[B]: any B is accepted, and its latency is met as that of any source (log
81). -/
def execMxMma (o : MmaOp) (s : State) : Out :=
  complete do
    if s.miller then illegalInsn s (.mxMma o) 4
    s.readyC ([o.a, o.b] ++ (if o.tok then [⟨(o.b.val + 1) % 16, by omega⟩] else []))
    s.mxBound
    s.capEngine (s.rc o.a) 7 { wr := true, eng := true }
    let c : MxCmd := { s.mxBase .mma o.a true with
      m := 8 * (o.mc.val + 1), n := 8 * (o.nc.val + 1), k := 16 * (o.kc.val + 1)
      afmt := o.afmt.val, bfmt := o.bfmt.val, cfmt := (s.rc o.a).fmt, ah := o.ah.val, bh := o.bh.val
      ta := o.ta, tb := o.tb, acc := o.acc, fc := o.fc, sp := o.sp, tok := o.tok, up := o.up.val
      kpReassoc := o.kpReassoc, kpRound := o.kpRound }
    let (c, segs) ← s.mxCheck c (s.mxHeadB o c)
    let s ← s.mxSubmit c segs
    .ok (s.retire { s := o.s, maj := 0x3A, ev := [0x15], width := widthIx (if fmtWidth o.afmt.val < fmtWidth o.bfmt.val then o.bfmt.val else o.afmt.val) })

/-- R291: MX.TRN. -/
def execMxTrn (n : Fin 4) (a : CReg) (ah dh : Fin 1024) (mc nc : Fin 64) (fmt : Fin 32) (s : State) : Out :=
  complete do
    if s.miller then illegalInsn s (.mxTrn n a ah dh mc nc fmt) 4
    s.readyC [a]
    s.mxBound
    let toCap := dh.val == 0x3FF
    if toCap then s.capEngine (s.rc a) 7 { wr := true, eng := true }
    let c : MxCmd := { s.mxBase .trn a toCap with
      m := 8 * (mc.val + 1), n := 8 * (nc.val + 1), afmt := fmt.val, bfmt := fmt.val, cfmt := fmt.val, ah := ah.val, dh := dh.val }
    let (c, segs) ← s.mxCheck c (.ok c)
    let s ← s.mxSubmit c segs
    .ok (s.retire { s := n, maj := 0x3A, ev := [0x15], width := widthIx fmt.val })

/-- R292: MX.SCALE. -/
def execMxScale (n : Fin 4) (a b : CReg) (mc nc : Fin 64) (s : State) : Out :=
  complete do
    if s.miller then illegalInsn s (.mxScale n a b mc nc) 4
    s.readyC [a, b]
    s.mxBound
    s.capEngine (s.rc a) 7 { rd := true, wr := true, eng := true }
    let f := (s.rc a).fmt
    let c : MxCmd := { s.mxBase .scale a true with m := 8 * (mc.val + 1), n := 8 * (nc.val + 1), afmt := f, bfmt := f, cfmt := f }
    let (c, segs) ← s.mxCheck c (s.mxScale b false c)
    let s ← s.mxSubmit c segs
    .ok (s.retire { s := n, maj := 0x3A, ev := [0x15] })

/-- R293: MX.UPROG. -/
def execMxUprog (n : Fin 4) (b : CReg) (up : Fin 16) (s : State) : Out :=
  complete do
    if s.miller then illegalInsn s (.mxUprog n b up) 4
    if up = 0 then illegalInsn s (.mxUprog n b up) 2
    s.readyC [b]
    s.mxBound
    let (s, v, _, ev) ← s.readCap (s.rc b) b.val (s.ra b) 32 32
    let image := BitVec.ofNat 256 v
    if !upValid image then raise s 0x27 0 (mxInfo 1 false false 0 0 (trayOf s.cur))
    let c : MxCmd := { s.mxBase .uprog 0 false with up := up.val, image := image }
    let (c, segs) ← s.mxCheck c (.ok c)
    let s ← s.mxSubmit c segs
    .ok (s.retire { s := n, maj := 0x3A, ev := 0x15 :: ev })

/-- R294: MX.WAIT. -/
def execMxWait (n : Fin 4) (a : CReg) (s : State) : Out :=
  complete do
    if s.miller then illegalInsn s (.mxWait n a) 4
    let s := s.flushWindow s.cur
    let s ← s.pairGate
    guardWait s.hart.mx.queue.isEmpty true s
    .ok (((s.setX a (w64 s.hart.mx.seq)).retire { s := n, maj := 0x3A }).pairOnce)

/-- MXSTAT (12 R295). -/
def Hart.mxstat (h : Hart) : Word :=
  let x := h.mx
  w64 (x.seq + (x.queue.foldl (fun n c => n + c.seqs.length) 0) % 32 * 0x10000 + b2n x.nv * 2 ^ 24 + b2n x.ovf * 2 ^ 25 + b2n x.sat * 2 ^ 26
    + b2n x.flt * 2 ^ 27 + h.ctl.mxwgt.toNat * 2 ^ 32 + x.tokens.length % 16 * 2 ^ 40)

/-- R295: MX.STAT. -/
def execMxStat (n : Fin 4) (a : CReg) (clr : Bool) (s : State) : Out :=
  complete do
    if s.miller then illegalInsn s (.mxStat n a clr) 4
    let s ← s.pairGate
    let t := s.setX a s.hart.mxstat
    let t := if clr then t.onHart fun h => { h with mx := { h.mx with nv := false, ovf := false, sat := false, flt := false } } else t
    .ok ((t.retire { s := n, maj := 0x3A }).pairOnce)

/-! ## Commands in flight -/

/-- Change the command of a hart with a stamp. -/
def State.modMx (s : State) (n stamp : Nat) (f : MxCmd → MxCmd) : State :=
  s.modHart n fun h => { h with mx := { h.mx with queue := h.mx.queue.map fun c => if c.stamp = stamp then f c else c } }

/-- Change a part of a command. -/
def State.modPart (s : State) (n stamp p q : Nat) (f : MxPart → MxPart) : State :=
  s.modMx n stamp fun c => { c with parts := c.parts.map fun x => if x.p = p ∧ x.q = q then f x else x }

/-- A command found after acceptance to fault (12 R296): the first cause stays. -/
def State.mxFault (s : State) (n stamp : Nat) (a : Async) : State :=
  s.modMx n stamp fun c => if c.fault.isSome then c else { c with fault := some a }

/-- No command accepted earlier has a part in the queue of a core. -/
def State.mxFront (s : State) (stamp core : Nat) : Bool :=
  s.cores.all fun n => (s.hartAt n).mx.queue.all fun c => decide (stamp ≤ c.stamp) || c.parts.all (·.core != core)

/-- The arithmetic modes a command sampled. -/
def MxCmd.env (c : MxCmd) : FEnv := Ctl.env { round := c.round, flush := c.flush } 0

/-- The handle name of an operand for a part. -/
def MxPart.name (p : MxPart) (i : Nat) : Nat := dieOf p.core * 1024 + i

/-- The operands a command claims. -/
def MxCmd.wantsA (c : MxCmd) : Bool := c.kind == .mma || c.kind == .trn
/-- A second operand. -/
def MxCmd.wantsB (c : MxCmd) : Bool := c.kind == .mma

/-- A part holds every slot it needs. -/
def MxCmd.claimed (c : MxCmd) (p : MxPart) : Bool := (!c.wantsA || p.aSlot.isSome) && (!c.wantsB || p.bSlot.isSome)

/-- The ring copy of an operand of a part. -/
def State.mxRing (s : State) (ctx : Nat) (p : MxPart) (i : Nat) : Option (Handle × Nat) :=
  (s.ownHandle ctx (p.name i)).map fun h => (h, h.keyFor p.core)

/-- Claim the next slot a part needs (12 R286): A, then B; MX.TRN takes a FULL slot only (R291). -/
def State.mxClaim (s : State) (n : Nat) (c : MxCmd) (p : MxPart) : Option State :=
  let i := if p.aSlot.isNone then c.ah else c.bh
  match s.mxRing (s.hartAt n).ctx p i with
  | none =>
    let s := s.modPart n c.stamp p.p p.q fun x => { x with done := true }
    some (if c.dead then s else s.mxFault n c.stamp { cause := 0x22, val := 0, info := w64 0x4500 })
  | some (h, key) =>
    let full := match h.ring key with | some r => (r.slot r.head).st == .full | none => false
    if c.kind = .trn ∧ !full then none
    else (s.claim (p.name i) key).map fun t => t.1.modPart n c.stamp p.p p.q fun x => if p.aSlot.isNone then { x with aSlot := some t.2 } else { x with bSlot := some t.2 }

/-- The faults that a part finds at dispatch (12 R284, R290, R291, R293). -/
def State.mxDispatchFault (s : State) (n : Nat) (c : MxCmd) (p : MxPart) : Option Async :=
  let ctx := (s.hartAt n).ctx
  let slotsz (i : Nat) : Nat := match s.mxRing ctx p i with | some (h, _) => h.slotsz | none => 0
  let tray := trayOf p.core
  let shape : Option Async := some { cause := 0x25, val := c.dest, info := mxInfo 2 true false 0 0 tray }
  let prog (r : Nat) : Option Async := some { cause := 0x27, val := c.dest, info := mxInfo r true false 0 0 tray }
  if c.wantsA && decide (slotsz c.ah < opSize c.afmt (c.shapeA p.p)) then shape
  else if c.wantsB && decide (slotsz c.bh < opSize c.bfmt (c.shapeB p.q)) then shape
  else if c.kind == .trn && c.dh != 0x3FF && decide (slotsz c.dh < c.boxLen) then shape
  else if c.kind == .mma && c.up != 0 then
    match tget? (s.tray tray).uprog c.up with
    | none => prog 0
    | some im =>
      let ok := if upInt im then mxGroup c.afmt == 1 && mxGroup c.bfmt == 1
        else (mxGroup c.afmt == 2 || mxGroup c.afmt == 3) && !blocked c.afmt && !blocked c.bfmt
      if !ok then prog 2 else if c.tok && upCond im == 0 then prog 3 else none
  else none

/-- The dispatch of a command completes (12 R286, R290, R291, R293; 14 R355): each part reads the microprogram of its Tray's unit,
MX.UPROG's image is stored, a transpose takes DH's TAIL slot and makes its entries. None while that slot is not FREE. -/
def State.mxLeave (s : State) (n : Nat) (c : MxCmd) : Option State :=
  let tray := trayOf n
  match c.kind with
  | .uprog => some ((s.modTray tray fun t => { t with uprog := tset t.uprog c.up c.image }).modMx n c.stamp fun c =>
      { c with stage := .dispatched, parts := c.parts.map fun p => { p with done := true } })
  | .mma =>
    let inj := (s.hartAt n).mx.inj
    let parts := c.parts.map fun p => { p with image := (tget? (s.tray (trayOf p.core)).uprog c.up).getD 0 }
    some ((s.modMx n c.stamp fun c => { c with stage := .dispatched, parts := parts, inj := inj }).modHart n fun h => { h with mx := { h.mx with inj := none } })
  | .scale => some (s.modMx n c.stamp fun c => { c with stage := .dispatched })
  | .trn =>
    if c.dh = 0x3FF then some (s.modMx n c.stamp fun c => { c with stage := .dispatched })
    else
      match s.mxRing (s.hartAt n).ctx { p := 0, q := 0, core := n } c.dh with
      | none => some (s.mxFault n c.stamp { cause := 0x22, val := 0, info := w64 0x4500 })
      | some (h, key) =>
        match h.ring key with
        | none => none
        | some r =>
          let hh := dieOf n
          let x : Seg := s.nearForm (hh, h.range key (r.tail * h.slotsz) c.boxLen)
          if (r.slot r.tail).st != .free || !(s.entriesFree [x] [x]) then none
          else
            let o := mxOwner n c.seq
            let va := apertureVa hh (h.off key (r.tail * h.slotsz))
            let s := s.captureBox n c.pass (segPages [x])
            let (s, ref) := s.fillSlot (hh * 1024 + c.dh) key o va
            let (m, sh) := c.partMode 0 0
            let s := s.modSlotAt ref fun y => { y with mode := m }
            let (s, l) := s.addLock o 1 x
            let (s, d) := s.addLand o m sh x
            some (s.modMx n c.stamp fun c => { c with stage := .dispatched, dstSlot := some ref, locks := c.locks ++ [l], lands := c.lands ++ [d] })

/-- A part of a command that was dispatched before has claimed its slots anew (12 R297): it is checked, and reads its unit's
microprogram, as a command dispatched now would. -/
def State.mxAgain (s : State) (n : Nat) (c : MxCmd) (p : MxPart) : State :=
  match ((s.hartAt n).mx.queue.find? (·.stamp == c.stamp)).bind fun c => (c.parts.find? fun x => x.p == p.p && x.q == p.q).map fun p => (c, p) with
  | some (c, p) =>
    if c.stage != .dispatched || !c.claimed p then s
    else
      match s.mxDispatchFault n c p with
      | some a => s.mxFault n c.stamp a
      | none => s.modPart n c.stamp p.p p.q fun p => { p with image := (tget? (s.tray (trayOf p.core)).uprog c.up).getD 0 }
  | none => s

/-- MX_DISPATCH (12 R286, 13 R300): the front command of a hart's queue, dispatchable, claims the next slot of a part at the front
of its core's queue, or, with every slot claimed, is checked and leaves. The hart's die-local stores are performed first
(04 R100). -/
def State.mxDispatch (s : State) (n : Nat) : Option State :=
  let h := s.hartAt n
  match h.mx.queue with
  | [] => none
  | c :: _ =>
    if (c.stage != .ready && c.stage != .dispatched) || h.sb.any (·.scope == 1) then none
    else
      let open0 (p : MxPart) : Bool := !p.done && !p.frozen && !c.claimed p && s.mxFront c.stamp p.core
      match (c.parts.filter open0).findSome? fun p => (s.mxClaim n c p).map fun t => t.mxAgain n c p with
      | some t => some (t.knPressed n)
      | none =>
        if c.stage == .dispatched || c.dead || c.fault.isSome || !(c.parts.all fun p => c.claimed p && s.mxFront c.stamp p.core) then none
        else
          match c.parts.findSome? fun p => s.mxDispatchFault n c p with
          | some a => some (s.mxFault n c.stamp a)
          | none => (s.mxLeave n c).map fun s => s.knPressed n

/-- MX_DISPATCH. -/
def execMxDispatch (n : Nat) (s : State) : Out := eventOf (decide (n < 4096)) (s.mxDispatch n) s

/-! ## Reading -/

/-- What reading operands gives: the bytes, a wait, or poison at an address. -/
inductive MxRead where
  | ok (b : List Byte)
  | wait
  | poison (va : Word) (key : Nat)

/-- Read locations for a command of the hart on core n: entries of its own queue do not count (12 R279). -/
def State.mxRead (s : State) (n : Nat) (va : Nat → Word) (keys : List Nat) : MxRead :=
  let own (o : Nat) : Bool := decide (0x100000 ≤ o) && (o - 0x100000) / 0x10000 == n
  if keys.any fun k => s.markBut own k != .pass then .wait
  else
    match keys.zipIdx.find? fun e => s.poisoned e.1 with
    | some (k, i) => .poison (va i) k
    | none => .ok (keys.map s.byteAt)

/-- The locations of destination bytes at an offset. -/
def State.destKeys (s : State) (n : Nat) (c : MxCmd) (off len : Nat) : List Nat :=
  match c.dstSlot with
  | some r => (List.range len).map fun i => s.slotKey r (off + i)
  | none =>
    match window n c.near (c.dest.toNat + off) with
    | .ok t => (List.range len).map (t.key s.m)
    | .error _ => []

/-- Elements of the destination of a part, as bits, row by row. -/
def State.readC (s : State) (n : Nat) (c : MxCmd) (p : MxPart) : Except (Option (Word × Nat)) (List Nat) :=
  let w := c.wC / 8
  let off0 := c.partOff p.p p.q
  let cols := if c.kind = .mma then c.pn p.q else c.n
  let rows := if c.kind = .mma then c.pm p.p else c.m
  let row (i : Nat) : Except (Option (Word × Nat)) (List Nat) :=
    match s.mxRead n (fun b => c.dest + w64 (off0 + i * c.pitch + b)) (s.destKeys n c (off0 + i * c.pitch) (cols * w)) with
    | .ok b => .ok ((List.range cols).map fun j => joinBytes ((b.drop (j * w)).take w))
    | .wait => .error none
    | .poison va k => .error (some (va, k))
  (List.range rows).foldl (fun a i => match a, row i with
    | .ok l, .ok r => .ok (l ++ r)
    | .error e, _ => .error e
    | _, .error e => .error e) (.ok [])

/-- Values of an operand, for pairs (row, column) of its slot. -/
def State.readOp (s : State) (n : Nat) (env : FEnv) (fmt cols : Nat) (r : SlotRef) (l : List (Nat × Nat)) : Except (Option (Word × Nat)) (List CVal) :=
  let one (e : Nat × Nat) : Except (Option (Word × Nat)) CVal :=
    let offs := opBytes fmt cols e.1 e.2
    match s.mxRead n (fun i => s.slotVa r (offs.getD i 0)) (offs.map (s.slotKey r)) with
    | .ok b => .ok (opValue env fmt e.2 b)
    | .wait => .error none
    | .poison va k => .error (some (va, k))
  l.foldl (fun a e => match a with
    | .ok vs => (one e).map fun v => vs ++ [v]
    | x => x) (.ok [])

/-! ## Tile steps (12 R299; 06 R149; 07 R161) -/

/-- Poison is consumed by a command (16 R380, R391). -/
def State.mxPoison (s : State) (n : Nat) (c : MxCmd) (p : MxPart) (va : Word) (k : Nat) : State :=
  let h := s.hartAt n
  let (site, sub, addr) := s.poisonSite k
  let inj := s.poisonInj k
  let unit := trayOf p.core
  let info := ueInfo 6 c.user site unit true
  match s.ueMode h.gang with
  | .plain => (s.logErr unit 2 site sub addr 0 0x40 inj).mxFault n c.stamp { cause := 0x40, val := va, info := info }
  | .roll => (s.logErr unit 2 site sub addr 0 0xFF inj).beginRoll h.gang
  | .limit nu => (s.logErr unit 2 site sub addr 0 0x41 inj).mxFault n c.stamp { cause := 0x41, val := va, info := info + w64 (0x100 * b2n nu) }

/-- What the skip list gives a part for its next block. -/
inductive Skip where
  | ok (ks : List (Nat × Nat)) (stored : Nat) (pop : Option Nat)
  | wait
  | fault (a : Async)

/-- The skip list of a command with SP = 1: one strip of its stream for the block (12 R288, R297). -/
def State.mxSkip (s : State) (n : Nat) (c : MxCmd) (p : MxPart) (len : Nat) : Skip :=
  let tray := trayOf p.core
  let ended : Skip := .fault { cause := 0x27, val := c.dest, info := mxInfo 4 true false 0 0 tray }
  let bad (o : EngOp) (i r : Nat) : Skip := .fault { cause := 0x28, val := o.cmd.srcAt (64 * i), info := mxInfo r true false 0 0 tray }
  if !c.sp then .ok ((List.range len).map fun i => (p.kdone + i, p.kdone + i)) len none
  else
    match s.skipStrip n c with
    | none => ended
    | some (opn, o) =>
      if o.aborted then ended
      else
        match o.strips with
        | [] => if o.stripCount ≤ o.fetched then bad o o.fetched 1 else .wait
        | x :: _ =>
          match skipSegs x (ceilDiv len 16) with
          | .error r => bad o (o.fetched - o.strips.length) r
          | .ok segs => let (ks, m) := presentKs p.kdone len p.skipPos segs; .ok ks m (some opn)

/-- Split the present k values of a block into groups of G by their number, leaving out empty ones (06 R149, 12 R288). -/
def kGroups (g : Nat) (ks : List Nat) : List (List Nat) :=
  (ks.foldl (fun (a : List (Nat × List Nat)) k =>
    match a with
    | (i, l) :: r => if i = k / g then (i, l ++ [k]) :: r else (k / g, [k]) :: a
    | [] => [(k / g, [k])]) []).reverse.map (·.2)

/-- The operands of a block: A' by row and index, B' by index and column, and the k values. -/
structure Block where
  ks : List Nat
  a : List CVal
  b : List CVal

/-- A'[i] at index t of the block. -/
def Block.av (x : Block) (i t : Nat) : CVal := x.a.getD (i * x.ks.length + t) (.fin false 0 0, .fin false 0 0)
/-- B'[j] at index t of the block. -/
def Block.bv (x : Block) (n j t : Nat) : CVal := x.b.getD (t * n + j) (.fin false 0 0, .fin false 0 0)

/-- The magnitude of a value. -/
def Val.abs : Val → Val
  | .fin _ n e => .fin false n e
  | .inf _ => .inf false
  | .nan => .nan

/-- One group of a part: its accumulators and its checksum cells after it. `first` names the C values that the checksum cells start
from, where this is the first group. -/
def mxGroupStep (c : MxCmd) (m n : Nat) (x : Block) (idx : List Nat) (first : Option (List CVal)) (st : List Nat × List Nat × List Nat) :
    List Nat × List Nat × List Nat :=
  let env := c.env
  let fmt := accFmt c.afmt
  let cplx := mxGroup c.afmt == 4
  let prods (i j : Nat) : List CVal := idx.map fun t => cmul cplx (x.av i t) (x.bv n j t)
  let sum (l : List CVal) : CVal := (sumVals env.rm (l.map (·.1)), sumVals env.rm (l.map (·.2)))
  let mag (l : List CVal) : Val := sumVals 0 (l.map (·.1.abs))
  let acc := (List.range (m * n)).map fun e => accAdd env fmt (st.1.getD e 0) (sum (prods (e / n) (e % n)))
  if !c.fc then (acc, st.2)
  else
    let cell (old : Nat) (line : List CVal) (ps : List CVal) : Nat :=
      match first with
      | some _ => chkStart env fmt line (sum ps) (mag ps)
      | none => chkAdd env fmt old (sum ps) (mag ps)
    let cv (i j : Nat) : List CVal := match first with | some l => (l[i * n + j]?).toList | none => []
    let rows := (List.range n).map fun j => cell (st.2.1.getD j 0) ((List.range m).flatMap fun i => cv i j) ((List.range m).flatMap fun i => prods i j)
    let cols := (List.range m).map fun i => cell (st.2.2.getD i 0) ((List.range n).flatMap fun j => cv i j) ((List.range n).flatMap fun j => prods i j)
    (acc, rows, cols)

/-- The format of a part's accumulators: that of its operands (06 R149), or of its microprogram (12 R290). -/
def MxCmd.resultFmt (c : MxCmd) (p : MxPart) : Nat := if c.up = 0 then accFmt c.afmt else if upInt p.image then 0x03 else 0x10

/-- The C values that checksum cells start from (07 R161): those of accumulators that no group has changed yet. -/
def MxCmd.chkFrom (c : MxCmd) (acc : List Nat) : List CVal := if c.acc then acc.map (accValue (accFmt c.afmt)) else []

/-- A block of a part of MX.MMA (06 R149), or of its microprogram (12 R290): its accumulators, cells and flags after it. The cells
start with the first group that has a present k (07 R161, 12 R288). -/
def mxBlock (c : MxCmd) (m n : Nat) (x : Block) (c0 : List Nat) (p : MxPart) : MxPart × Flags :=
  let fmt := c.resultFmt p
  let start := if p.kdone = 0 then (if c.acc then c0.map (accInit fmt c.cfmt) else List.replicate (m * n) (if c.up = 0 then 0 else upInit p.image)) else p.acc
  if c.up = 0 then
    let idxs := kGroups (min (mxGroupLen c.afmt) (mxGroupLen c.bfmt)) x.ks
    let at0 (k : Nat) : Nat := x.ks.idxOf k
    let r := idxs.foldl (fun (a : List Nat × List Nat × List Nat) g =>
      mxGroupStep c m n x (g.map at0) (if a.2.1.isEmpty then some (c.chkFrom a.1) else none) a) (start, p.rowChk, p.colChk)
    ({ p with acc := r.1, rowChk := r.2.1, colChk := r.2.2 }, 0)
  else
    let one (e : Nat) : Nat × Flags :=
      (List.range x.ks.length).foldl (fun (a : Nat × Flags) t => upElem c.env p.image a.1 a.2 (x.av (e / n) t).1 (x.bv n (e % n) t).1) (start.getD e 0, 0)
    let l := (List.range (m * n)).map one
    ({ p with acc := l.map (·.1) }, orFlags (l.map (·.2)))

/-- The cells of a part of which every group is absent: the sums of the C values alone (07 R161, 12 R288). -/
def MxCmd.chkBare (c : MxCmd) (m n : Nat) (p : MxPart) : MxPart :=
  if !(c.fc && c.up == 0 && p.rowChk.isEmpty) then p
  else
    let l := c.chkFrom p.acc
    let zero : Val := .fin false 0 0
    let cell (line : List CVal) : Nat := chkStart c.env (accFmt c.afmt) line (zero, zero) zero
    { p with
      rowChk := (List.range n).map fun j => cell ((List.range m).filterMap fun i => l[i * n + j]?)
      colChk := (List.range m).map fun i => cell ((List.range n).filterMap fun j => l[i * n + j]?) }

/-- The check of a part after its last group (07 R162, R167, R168), with the error that ERRINJ planted. -/
def State.mxPartCheck (s : State) (n : Nat) (c : MxCmd) (p : MxPart) : State × MxPart :=
  let rows := c.pm p.p
  let cols := c.pn p.q
  let fmt := accFmt c.afmt
  let p := c.chkBare rows cols p
  let (p, hit) := match c.inj with
    | some (b, r, k) =>
      if p.p = 0 ∧ p.q = 0 ∧ r < rows ∧ k < cols ∧ (b < 32 ∨ fmt = 0x0A) then
        ({ p with acc := p.acc.mapIdx fun i x => if i = r * cols + k then x ^^^ 2 ^ b else x }, true)
      else (p, false)
    | none => (p, false)
  if !(c.fc && c.up == 0) then (s, p)
  else
    let groups := ceilDiv c.k (min (mxGroupLen c.afmt) (mxGroupLen c.bfmt)) + b2n c.acc
    let h := s.hartAt n
    let tray := trayOf p.core
    let place (i j : Nat) : Nat := ((s.destKeys n c (c.partOff p.p p.q + i * c.pitch + j * c.wC / 8) 1).headD 0)
    let va (i j : Nat) : Word := c.dest + w64 (c.partOff p.p p.q + i * c.pitch + j * c.wC / 8)
    let sub (i j : Nat) : Nat := i / 8 * 8 + j / 8
    match chkPart fmt rows cols groups p.acc p.rowChk p.colChk with
    | .ok => (s, p)
    | .fix i j v =>
      let s := s.countFacet h.ctx (dieOf p.core) true
      let s := s.logErr tray 0 6 (sub i j) (place i j) 0 (if c.rptc then 0x24 else 0xFF) hit
      let s := if c.rptc then s.report h.ctx h.gang n { cause := 0x24, val := va i j, info := facetInfo 2 c.user 0 true (64 * p.p + i) (64 * p.q + j) } else s
      (s, { p with acc := p.acc.mapIdx fun k x => if k = i * cols + j then v else x })
    | .refuse r i j _ =>
      let s := s.countFacet h.ctx (dieOf p.core) false
      let s := s.logErr tray 2 6 (sub i j) ((s.destKeys n c 0 1).headD 0) 0 0x23 hit
      (s.mxFault n c.stamp { cause := 0x23, val := c.dest, info := facetInfo 2 c.user r true (64 * p.p + i) (64 * p.q + j) }, p)

/-- Set flags of MXSTAT. -/
def MxSt.flags (x : MxSt) (f : Flags) : MxSt :=
  { x with nv := x.nv || f.getLsbD 0, ovf := x.ovf || f.getLsbD 1, sat := x.sat || f.getLsbD 2 }

/-- The locations of the destination bytes of a part. -/
def State.partKeys (s : State) (n : Nat) (c : MxCmd) (p : MxPart) : List Nat :=
  let w := (if c.kind = .mma then c.pn p.q else c.cols) * c.wC / 8
  (List.range (if c.kind = .mma then c.pm p.p else c.rows)).flatMap fun i => s.destKeys n c (c.partOff p.p p.q + i * c.pitch) w

/-- The locations that a part's next block reads: of its operand slots, and of C. -/
def State.blockKeys (s : State) (n : Nat) (c : MxCmd) (p : MxPart) (ks : List (Nat × Nat)) : List Nat :=
  let slot (r : Option SlotRef) (isA : Bool) : List Nat := match r with | some r => (c.blockBytes p isA ks).map (s.slotKey r) | none => []
  slot p.aSlot true ++ slot p.bSlot false ++ (if c.acc && p.kdone == 0 then s.partKeys n c p else [])

/-- The locations of the source of MX.TRN in its slot. -/
def State.trnKeys (s : State) (r : SlotRef) (c : MxCmd) : List Nat :=
  (List.range c.m).flatMap fun i => (List.range (c.n * c.wC / 8)).map fun b => s.slotKey r (i * opPitch c.afmt c.n + b)

/-- One K block of a part of MX.MMA; none while it must wait. -/
def State.mmaStep (s : State) (n : Nat) (c : MxCmd) (p : MxPart) : Option State :=
  match p.aSlot, p.bSlot with
  | some ra, some rb =>
    let m := c.pm p.p
    let cols := c.pn p.q
    let len := min 512 (c.k - p.kdone)
    match s.mxSkip n c p len with
    | .wait => none
    | .fault a => some (s.mxFault n c.stamp a)
    | .ok ks stored pop =>
      let s := s.scrub (s.blockKeys n c p ks)
      let pa (i : Nat) (k : Nat × Nat) : Nat × Nat := if c.ta then (k.2, i) else (i, k.2)
      let pb (k : Nat × Nat) (j : Nat) : Nat × Nat := if c.tb then (j, k.1) else (k.1, j)
      let a := s.readOp n c.env c.afmt (c.shapeA p.p).2 ra ((List.range m).flatMap fun i => ks.map (pa i))
      let b := s.readOp n c.env c.bfmt (c.shapeB p.q).2 rb (ks.flatMap fun k => (List.range cols).map (pb k))
      let c0 := if c.acc && p.kdone == 0 then s.readC n c p else .ok []
      match a, b, c0 with
      | .error none, _, _ => none
      | _, .error none, _ => none
      | _, _, .error none => none
      | .error (some (va, k)), _, _ => some (s.mxPoison n c p va k)
      | _, .error (some (va, k)), _ => some (s.mxPoison n c p va k)
      | _, _, .error (some (va, k)) => some (s.mxPoison n c p va k)
      | .ok a, .ok b, .ok c0 =>
        let s := match pop with | some opn => s.popStrips [opn] | none => s
        let (p', fl) := mxBlock c m cols { ks := ks.map (·.1), a := a, b := b } c0 p
        let p' := { p' with kdone := p.kdone + len, skipPos := p.skipPos + stored }
        let last := c.k ≤ p'.kdone
        let (s, p') := if last then s.mxPartCheck n c p' else (s, p')
        let p' := { p' with done := last, tokHit := c.tok && last && p'.acc.any (upHolds c.env p.image) }
        some ((s.modPart n c.stamp p.p p.q fun _ => p').modHart n fun h => { h with mx := h.mx.flags fl })
  | _, _ => none

/-- Rows of `bytes` bytes that begin where `key` says are exactly the rows of a tile (07 R163): both ends of each lie where the tile's
do. -/
def Tile.liesAt (t : Tile) (hearth bytes : Nat) (key : Nat → Nat → Nat) : Bool :=
  (List.range t.rows).all fun i => key i 0 == t.elemKey hearth i 0 && key i (bytes - 1) == t.elemKey hearth i 0 + (bytes - 1)

/-- The declared tile that rows of elements exactly are, with its Hearth: the geometry, the format and the places match (07 R163). -/
def State.exactTile (s : State) (rows cols fmt : Nat) (key : Nat → Nat → Nat) : Option (Nat × Tile) :=
  let k0 := key 0 0
  if rows = 0 ∨ !isL1 k0 then none
  else
    let h := keyHearth k0
    ((s.hearth h).tileAt (keyOff k0)).bind fun e =>
      if e.2.rows == rows && e.2.cols == cols && e.2.fmt == fmt && e.2.liesAt h e.2.rowBytes key then some (h, e.2) else none

/-- The declared tile that the source of MX.TRN is. -/
def State.trnSource (s : State) (c : MxCmd) (r : SlotRef) : Option (Nat × Tile) :=
  s.exactTile c.m c.n c.afmt fun i b => s.slotKey r (i * opPitch c.afmt c.n + b)

/-- The one step of MX.TRN: the source tile is read, and checked where it is declared (07 R163, R168). -/
def State.trnStep (s : State) (n : Nat) (c : MxCmd) (p : MxPart) : Option State :=
  match p.aSlot with
  | none => none
  | some r =>
    let tile := s.trnSource c r
    let s := s.scrub (s.trnKeys r c)
    let h := s.hartAt n
    let (s, bad) := match tile with
      | none => (s, false)
      | some (hd, t) =>
        let (s, res) := s.checkTile hd t c.rptc
        match res with
        | .ok => (s, false)
        | .fix i j _ =>
          let a : Async := { cause := 0x24, val := apertureVa hd (keyOff (t.elemKey hd i j)), info := facetInfo 3 c.user 0 true i j }
          (if c.rptc then s.report h.ctx h.gang n a else s, false)
        | .refuse why i j _ => (s.mxFault n c.stamp { cause := 0x23, val := s.slotVa r 0, info := facetInfo 3 c.user why true i j }, true)
    if bad then some s
    else
      let w := c.wC / 8
      let one (a : Except (Option (Word × Nat)) (List Nat)) (e : Nat) : Except (Option (Word × Nat)) (List Nat) :=
        match a with
        | .error x => .error x
        | .ok l =>
          let offs := opBytes c.afmt c.n (e % c.m) (e / c.m)
          match s.mxRead n (fun i => s.slotVa r (offs.getD i 0)) (offs.map (s.slotKey r)) with
          | .ok b => .ok (l ++ [joinBytes (b.take w)])
          | .wait => .error none
          | .poison va k => .error (some (va, k))
      match (List.range (c.m * c.n)).foldl one (.ok []) with
      | .error none => none
      | .error (some (va, k)) => some (s.mxPoison n c p va k)
      | .ok l => some (s.modPart n c.stamp 0 0 fun p => { p with acc := l, done := true, tokHit := tile.isSome })

/-- The one step of MX.SCALE (12 R292): its elements scaled and rounded. -/
def State.scaleStep (s : State) (n : Nat) (c : MxCmd) (p : MxPart) : Option State :=
  let s := s.scrub (s.partKeys n c p)
  match s.readC n c p with
  | .error none => none
  | .error (some (va, k)) => some (s.mxPoison n c p va k)
  | .ok l =>
    let sc := fp32.dec c.scale.toNat
    let bytes (x : Nat) : List Byte := splitBytes (c.wC / 8) x
    let r := l.map fun x => wbElem c.env c.cfmt sc (opValue c.env c.cfmt 0 (bytes x))
    some ((s.modPart n c.stamp 0 0 fun p => { p with acc := r.map (·.1), done := true }).modHart n fun h => { h with mx := h.mx.flags (orFlags (r.map (·.2))) })

/-- A step of a part: its command is dispatched and its entries are active. Once one part of a command has faulted none of its others goes
on, is checked, counted or logged (log 77). -/
def State.partStep (s : State) (n : Nat) (c : MxCmd) (p : MxPart) : Option State :=
  if c.stage != .dispatched || c.fault.isSome || c.dead || p.done || p.frozen || !c.claimed p || !(s.allActive c.locks c.lands)
      || s.pausedByMove (mxOwner n c.seq) then none
  else
    match c.kind with
    | .mma => s.mmaStep n c p
    | .trn => s.trnStep n c p
    | .scale => s.scaleStep n c p
    | .uprog => none

/-- The part in the queue of a core that was accepted first, with its command and the core of its hart. -/
def State.frontPart (s : State) (core : Nat) : Option (Nat × MxCmd × MxPart) :=
  let l := s.cores.flatMap fun n => (s.hartAt n).mx.queue.flatMap fun c => (c.parts.filter (·.core == core)).map fun p => (n, c, p)
  l.find? fun e => l.all fun x => decide (e.2.1.stamp ≤ x.2.1.stamp)

/-- The windows that hold the commands at whose landing entries the next read of a core's front part waits flush (13 R309). -/
def State.flushRead (s : State) (core : Nat) : State :=
  match s.frontPart core with
  | none => s
  | some (n, c, p) =>
    let own (o : Nat) : Bool := decide (0x100000 ≤ o) && (o - 0x100000) / 0x10000 == n
    if c.stage != .dispatched || p.done || p.frozen || !c.claimed p then s
    else
      let keys := match c.kind with
        | .mma => s.blockKeys n c p (s.nextKs n c p)
        | .trn => match p.aSlot with | some r => s.trnKeys r c | none => []
        | .scale => s.partKeys n c p
        | .uprog => []
      keys.foldl (fun s k => match s.markBut own k with | .wait o => s.flushOwner o | _ => s) s

/-- The step that the queue of a core can run: of the part there that was accepted first. -/
def State.coreStep1 (s : State) (core : Nat) : Option State :=
  match s.frontPart core with
  | some (n, c, p) =>
    if (s.hartAt n).mx.queue.head?.map (·.stamp) = some c.stamp then
      (s.partStep n c p).map fun s => s.energyAt core 0x3A (widthIx (if fmtWidth c.afmt < fmtWidth c.bfmt then c.bfmt else c.afmt))
    else none
  | none => none

/-- TILE_STEP (12 R299, 17 R403): the arbiter grants one step: to the queue that holds the grant while its credit lasts, else to the
next queue in rotation that can run. A droop hold grants none. Where none can run, what the front parts wait for flushes (13 R309). -/
def State.tileStep (s : State) (tray : Nat) : Option State :=
  let t := s.tray tray
  if t.droop.isSome then none
  else
    let go (i : Nat) : Option State := s.coreStep1 (8 * tray + i)
    let held := if t.credit = 0 then none else (go t.arb).map fun s => s.modTray tray fun t => { t with credit := t.credit - 1 }
    let next := held.or ((List.range 8).findSome? fun d =>
      let i := (t.arb + 1 + d) % 8
      (go i).map fun x => x.modTray tray fun y => { y with arb := i, credit := (s.hartAt (8 * tray + i)).ctl.mxwgt.toNat - 1 })
    next.or (let t := (List.range 8).foldl (fun s i => s.flushRead (8 * tray + i)) s; if t = s then none else some t)

/-- TILE_STEP. -/
def execTileStep (tray : Nat) (s : State) : Out := eventOf (decide (tray < 512)) (s.tileStep tray) s

/-! ## Retirement (12 R286, R287; 07 R163; 13 R302, R310) -/

/-- Row i of a part's result, with the flags of MXSTAT (12 R287). -/
def MxCmd.partRow (c : MxCmd) (p : MxPart) (i : Nat) : List Byte × Flags :=
  let w := c.wC / 8
  match c.kind with
  | .uprog => ([], 0)
  | .mma =>
    let cols := c.pn p.q
    let sc := if c.up = 0 then fp32.dec c.scale.toNat else .fin false 1 0
    let es := (List.range cols).map fun j => wbElem c.env c.cfmt sc (accValue (c.resultFmt p) (p.acc.getD (i * cols + j) 0))
    (es.flatMap fun e => splitBytes w e.1, orFlags (es.map (·.2)))
  | _ => ((List.range c.cols).flatMap fun j => splitBytes w (p.acc.getD (i * c.cols + j) 0), 0)

/-- The landing entries of a part: of the command's, those over its box. -/
def MxCmd.partLands (n : Nat) (c : MxCmd) (p : MxPart) : List (Nat × Nat) :=
  if c.nT = 1 then c.lands
  else
    let before := c.parts.takeWhile fun x => x.p != p.p || x.q != p.q
    (c.lands.drop ((before.map fun x => (c.partSegs n x).length).foldl (· + ·) 0)).take (c.partSegs n p).length

/-- The bytes a part lands. -/
def MxCmd.partTotal (c : MxCmd) (p : MxPart) : Nat := (c.partIter p.p p.q).total

/-- The destination of a command is exactly a declared tile (07 R163). -/
def State.destTile (s : State) (n : Nat) (c : MxCmd) : Option (Nat × Tile) :=
  if c.kind = .uprog then none else s.exactTile c.rows c.cols c.cfmt fun i b => (s.destKeys n c (i * c.pitch + b) 1).headD noKey

/-- A part lands its next piece (05 R112, R115; 12 R287): a whole row in rows mode, else to the next 64-byte boundary, within the row
unless rows join without gaps. Its
watermark is published; the old bytes are kept while a member of its set may fault (13 R310). A declared tile that the destination
exactly is takes no deltas or stale marks (07 R163). -/
def State.landOne (s : State) (n : Nat) (c : MxCmd) (exact : Bool) (p : MxPart) : State × MxPart :=
  let it := c.partIter p.p p.q
  let mode := (c.partMode p.p p.q).1
  let i := p.landed / it.rowlen
  let b := p.landed % it.rowlen
  let off := c.partOff p.p p.q + i * c.pitch + b
  let room := 64 - ((s.destKeys n c off 1).headD 0) % 64
  let len := if mode = 1 then it.rowlen else min room (if mode = 0 then it.total - p.landed else it.rowlen - b)
  let rows := (List.range ((b + len + it.rowlen - 1) / it.rowlen)).map fun r => c.partRow p (i + r)
  let fl := orFlags (rows.map (·.2))
  let keys := s.destKeys n c off len
  let bytes := ((rows.flatMap (·.1)).drop b).take len
  let old := keys.zip (keys.map s.byteAt)
  let s := if exact then s.engWritePlain keys bytes true else s.engWrite keys bytes true
  let count := countOf it mode (p.landed + len)
  let s := s.publish (c.partLands n p) count
  let s := match c.dstSlot with | some r => s.modSlotAt r fun x => { x with len := count } | none => s
  let q := { p with landed := p.landed + len }
  let s := (s.modPart n c.stamp p.p p.q fun _ => q).modMx n c.stamp fun c => { c with undo := c.undo ++ old }
  (s.modHart n fun h => { h with mx := h.mx.flags fl }, q)

/-- A part lands what is left of it. -/
def State.landAll (n : Nat) (c : MxCmd) (exact : Bool) : Nat → State × MxPart → State
  | 0, x => x.1
  | fuel + 1, x => if c.partTotal x.2 ≤ x.2.landed then x.1 else State.landAll n c exact fuel (x.1.landOne n c exact x.2)

/-- The parts of a command land: every one to its end, or one piece of those that `splits` names. -/
def State.mxLand (s : State) (n : Nat) (c : MxCmd) : State :=
  let exact := (s.destTile n c).isSome
  let left := c.parts.filter fun p => decide (p.landed < c.partTotal p)
  match s.splits with
  | [] => left.foldl (fun s p => State.landAll n c exact (c.partTotal p) (s, p)) s
  | l :: rest => (left.zipIdx.filter fun e => l.contains e.2).foldl (fun s e => (s.landOne n c exact e.1).1) { s with splits := rest }

/-- A command's result has landed: the facets of the tile that the destination exactly is are generated, those of a checked transpose
swapped from its source (07 R163). -/
def State.mxFacets (s : State) (n : Nat) (c : MxCmd) : State :=
  match s.destTile n c with
  | none => s
  | some (hd, t) =>
    match (c.parts.head?.bind fun p => if c.kind == .trn && p.tokHit then p.aSlot else none).bind (s.trnSource c) with
    | some (hs, a) => (List.range (t.rows + t.cols)).foldl (fun s k =>
        s.setFacet t.ctx hd (t.run + k) (s.facet hs a (if k < t.rows then a.rows + k else k - t.rows))) s
    | none => s.regenTile hd t

/-- A command's whole result at its destination. -/
def State.mxWriteback (s : State) (n : Nat) (c : MxCmd) : State := ({ s with splits := [] }.mxLand n c).mxFacets n c

/-- Slots of a command's parts are released. -/
def State.mxRelease (s : State) (c : MxCmd) : State :=
  (c.parts.flatMap fun p => p.aSlot.toList ++ p.bSlot.toList).foldl State.release s

/-- The command leaves its hart's queue. -/
def Hart.mxDrop (h : Hart) (stamp : Nat) : Hart := { h with mx := { h.mx with queue := h.mx.queue.filter fun c => c.stamp != stamp } }

/-- The token a command pushes (12 R290). -/
def MxCmd.token (c : MxCmd) : Word := if c.parts.any (·.tokHit) then c.t1 else c.t0

/-- An elided transpose: TAIL and HEAD of its ring advance (13 R302). -/
def State.mxSkipRing (s : State) (e : Nat × Nat) : State :=
  match s.handle? e.1 with
  | some h => s.modRing e.1 e.2 fun r => { r with head := (r.head + 1) % max h.nslot 1, tail := (r.tail + 1) % max h.nslot 1 }
  | none => s

/-- The entries that a command holds leave the tables. -/
def State.mxDropEntries (s : State) (c : MxCmd) : State := s.dropEntries (c.locks ++ c.spareLocks) (c.lands ++ c.spareLands)

/-- The ring slots that a faulted command and its set have filled are aborted (12 R296, 13 R310): the slot it fills, and those that
ended members filled which nothing has claimed, the last filled first (log 85). The owners of the slots behind them are the answer. -/
def State.mxAbortSlots (s : State) (dst : Option SlotRef) (spare : List SlotRef) : State × List Nat :=
  let last (s : State) (r : SlotRef) : Bool := match (s.handle? r.name).bind fun h => (h.ring r.key).map fun g => (h, g) with
    | some (h, g) =>
      let n := max h.nslot 1
      (List.range ((g.tail + n - r.slot - 1) % n)).all fun i => (g.slot ((r.slot + 1 + i) % n)).st == .filling
    | none => false
  let go (p : State × List Nat) (ok : Bool) (r : SlotRef) : State × List Nat :=
    if ok then (let (s, l) := p.1.abortSlots r; (s, p.2 ++ l)) else p
  let p : State × List Nat := match dst with
    | some r => go (s, []) (((s.slot? r).map RSlot.st) == some SlotSt.filling) r
    | none => (s, [])
  spare.reverse.foldl (fun p r => go p ((((p.1.slot? r).map RSlot.st) == some SlotSt.full) && last p.1 r) r) p

/-- A command whose result has landed ends (12 R286): it releases its slots, pushes its token and leaves its queue; a member of a set
that is not the last leaves its entries, the ring slot it filled and what it overwrote to the last (13 R310). -/
def State.mxEnd (s : State) (n : Nat) (c : MxCmd) : State :=
  let s := s.mxRelease c
  let s := match c.dstSlot with
    | some r => s.slotDone r (doneCount (c.partIter 0 0).total (c.partMode 0 0).1 c.rows) (c.partMode 0 0).1
    | none => s
  let s := if c.tok then s.modHart n fun h => { h with mx := { h.mx with tokens := h.mx.tokens ++ [c.token] } } else s
  if c.seqs.isEmpty then
    let last := ((s.hartAt n).mx.queue.filter fun d => d.stamp != c.stamp && d.kn && d.set == c.set).getLast?
    let s := s.modHart n (·.mxDrop c.stamp)
    match last with
    | some d => s.modMx n d.stamp fun d => { d with
        spareLocks := d.spareLocks ++ c.spareLocks ++ c.locks, spareLands := d.spareLands ++ c.spareLands ++ c.lands
        spareSlots := d.spareSlots ++ c.spareSlots ++ c.dstSlot.toList, undo := d.undo ++ c.undo }
    | none => s.mxDropEntries c
  else
    let s := s.mxDropEntries c
    let s := c.elided.foldl State.mxSkipRing s
    let s := s.modHart n fun h => { h.mxDrop c.stamp with mx := { (h.mxDrop c.stamp).mx with seq := c.seqs.getLastD c.seq } }
    s.knPressed n

/-- MX_RETIRE (12 R286, R287): the front command with every part computed lands its result, as far as `splits` says, and with the last
byte of it ends. None while the token queue is full. -/
def State.mxRetire (s : State) (n : Nat) : Option State :=
  match (s.hartAt n).mx.queue with
  | [] => none
  | c :: _ =>
    if c.stage != .dispatched || c.fault.isSome || c.dead || !(c.parts.all (·.done)) || !(s.allActive c.locks c.lands)
        || (c.tok && decide (8 ≤ (s.hartAt n).mx.tokens.length)) || s.pausedByMove (mxOwner n c.seq) then none
    else
      let s := s.mxLand n c
      match (s.hartAt n).mx.queue with
      | c :: _ => if c.parts.all (fun p => decide (c.partTotal p ≤ p.landed)) then some ((s.mxFacets n c).mxEnd n c) else some s
      | [] => some s

/-- MX_RETIRE. -/
def execMxRetire (n : Nat) (s : State) : Out := eventOf (decide (n < 4096)) (s.mxRetire n) s

/-! ## Faulted commands (12 R296, R298; 13 R310) -/

/-- The report of a faulted command: R298 adds the sequence number, and for a rewrite the rule. -/
def mxReport (c : MxCmd) (seq : Nat) (a : Async) : Async :=
  if a.cause = 0x25 ∨ a.cause = 0x27 ∨ a.cause = 0x28 then { a with info := a.info + mxInfo 0 false c.kn seq c.rule 0 } else a

/-- MX_COMMAND_FAULT (12 R296): the front command, found to fault, with its slots claimed as far as it can, ends: slots popped,
entries removed, a ring slot it fills aborted, FLT set, one report. The later members of its set end without one. -/
def State.mxCommandFault (s : State) (n : Nat) : Option State :=
  match (s.hartAt n).mx.queue with
  | [] => none
  | c :: rest =>
    if !(c.fault.isSome || c.dead) || !(c.parts.all fun p => p.done || c.claimed p) || c.parts.any (·.frozen) then none
    else
      let s : State := s.mxRelease c
      let members := rest.filter fun d => c.kn && d.kn && d.set == c.set
      let p := s.mxAbortSlots c.dstSlot (c.spareSlots ++ members.flatMap (·.spareSlots))
      let s := abortOps 4096 p.2 p.1
      let s := s.mxDropEntries c
      let undo := (members.flatMap (·.undo) ++ c.undo).reverse
      let s := s.engWrite (undo.map (·.1)) (undo.map (·.2)) false
      let seqs := c.seqs ++ members.flatMap (·.seqs)
      let h := s.hartAt n
      let s := match c.fault with
        | some a => s.report h.ctx h.gang n (mxReport c (seqs.headD c.seq) a)
        | none => s
      let s := members.foldl (fun s d => s.modMx n d.stamp fun d => { d with dead := true, undo := [], spareSlots := [], stage := if d.stage = .eligible then .ready else d.stage }) s
      let s := s.modHart n fun h => { h.mxDrop c.stamp with mx := { (h.mxDrop c.stamp).mx with flt := true } }
      some (s.knPressed n)

/-- MX_COMMAND_FAULT. -/
def execMxCommandFault (n : Nat) (s : State) : Out := eventOf (decide (n < 4096)) (s.mxCommandFault n) s

end Sys2Proof.Machine
end

