-- ==== Sys2Proof/Machine/Sync.lean ====
section
/-! DEFINITION. Barriers, domains, phases, sends and wake registers (08 R176 to R182; 14 R320 to R327), with the ordering halves of
04 R105. -/

namespace Sys2Proof.Machine

/-! ## Gangs and domains -/

/-- SIZE of the hart's gang. -/
def Hart.size (h : Hart) : Nat := bits h.id.gangsz.toNat 12 0
/-- Its LCORE. -/
def Hart.lc (h : Hart) : Nat := h.id.lcore.toNat
/-- DID of a DOMAIN register (08 R177). -/
def domId (d : BitVec 43) : Nat := bits d.toNat 11 0
/-- LOG -/
def domLog (d : BitVec 43) : Nat := bits d.toNat 15 12
/-- V -/
def domV (d : BitVec 43) : Bool := d.getLsbD 16
/-- PHASE -/
def domPhase (d : BitVec 43) : Bool := d.getLsbD 17
/-- XDIE -/
def domX (d : BitVec 43) : Bool := d.getLsbD 18
/-- MEMB -/
def domMemb (d : BitVec 43) : Nat := bits d.toNat 31 19
/-- BARID -/
def domBar (d : BitVec 43) : Nat := bits d.toNat 42 32
/-- The first LCORE of the domain. -/
def domFirst (d : BitVec 43) : Nat := domId d * (8 * 2 ^ domLog d)

/-- A DOMAIN register. -/
def mkDom (did log : Nat) (v phase xdie : Bool) (memb bar : Nat) : BitVec 43 :=
  BitVec.ofNat 43 (did % 4096 + log % 16 * 0x1000 + b2n v * 0x10000 + b2n phase * 0x20000 + b2n xdie * 0x40000 + memb % 8192 * 0x80000 + bar % 2048 * 0x100000000)

/-- The register with a phase. -/
def withPhase (d : BitVec 43) (p : Bool) : BitVec 43 := mkDom (domId d) (domLog d) (domV d) p (domX d) (domMemb d) (domBar d)

/-- DOMAIN register of a level. -/
def Hart.domAt (h : Hart) (l : Nat) : BitVec 43 := h.id.dom.toList.getD l 0

/-- Change one. -/
def Hart.setDom (h : Hart) (l : Nat) (d : BitVec 43) : Hart :=
  { h with id := { h.id with dom := Vector.ofFn fun i => if i.val = l then d else h.id.dom[i] } }

/-- The smallest LOG for which 8 × 2^LOG reaches a size (08 R176). -/
def topLog (size : Nat) : Nat := ((List.range 10).find? fun k => decide (size ≤ 8 * 2 ^ k)).getD 9

/-- DOMAIN (14 R322). -/
def domainTrap {α : Type} (s : State) (reason : Nat) (val : Nat) : R α := raise s 0x33 (w64 val) (w64 (0x100 * reason))

/-! ## Barriers (08 R178, 14 R320, R321) -/

/-- The barrier that a level of a hart names. -/
inductive BarRef where
  | bar (id : Nat)
  | tray (gang t : Nat)
deriving DecidableEq, Repr

/-- The barrier of a level; none where the level has V = 0. -/
def Hart.barRef (h : Hart) (l : Nat) : Option BarRef :=
  if l = 4 then some (.tray h.gang (h.lc / 8))
  else if domV (h.domAt l) then some (.bar (domBar (h.domAt l))) else none

/-- A barrier as it stands. -/
def State.barAt (s : State) : BarRef → Option Barrier
  | .bar i => tget? s.m.bars i
  | .tray g t => (s.gang? g).bind fun g => tget? g.trayBars t

/-- Change a barrier. -/
def State.setBar (s : State) (r : BarRef) (b : Barrier) : State :=
  match r with
  | .bar i => s.onMod fun m => { m with bars := tset m.bars i b }
  | .tray g t => s.modGang g fun g => { g with trayBars := tset g.trayBars t b }

/-- The barrier of a level for the hart whose turn it is, or DOMAIN, REASON 0. -/
def State.levelBar (s : State) (l : Nat) : R (BarRef × Barrier) :=
  match s.hart.barRef l with
  | none => domainTrap s 0 l
  | some r =>
    match s.barAt r with
    | some b => .ok (r, b)
    | none => domainTrap s 0 l

/-- The scope of a barrier (04 R105, 14 R321): DIE 1, DEVICE 2. -/
def Hart.barScope (h : Hart) (l : Nat) : Nat := if (if l = 4 then h.id.gangsz.getLsbD 13 else domX (h.domAt l)) then 2 else 1

/-- The LCOREs that an arrival of the hart counts for: in a paired stream both harts' (14 R347). -/
def State.arrivers (s : State) : List Nat :=
  s.hart.lc :: (if s.hart.pair.on then ((tget? s.m.parkedPair (s.cur ^^^ 1)).map Hart.lc).toList else [])

/-- A(L) -/
def Hart.arriveAt (h : Hart) (l : Nat) : Option Nat := (h.sync.arrive.toList[l]?).bind fun x => x

/-- Set A(L). -/
def Hart.setArrive (h : Hart) (l : Nat) (g : Option Nat) : Hart :=
  { h with sync := { h.sync with arrive := Vector.ofFn fun i => if i.val = l then g else h.sync.arrive[i] } }

/-- Generation g of a barrier has completed. -/
def Barrier.completed (b : Barrier) (g : Nat) : Bool :=
  let d := (b.gen + 65536 - g % 65536) % 65536
  decide (1 ≤ d) && decide (d ≤ 32768)

/-- Arrive at the current generation, in a paired stream for both harts. -/
def State.arriveAt (s : State) (l : Nat) (r : BarRef) (b : Barrier) : State :=
  let s := (s.setBar r { b with arrived := s.arrivers.foldl sadd b.arrived, last := s.time.toNat }).onHart fun h => h.setArrive l (some b.gen)
  match if s.hart.pair.on then tget? s.m.parkedPair (s.cur ^^^ 1) else none with
  | some o => s.onMod fun m => { m with parkedPair := tset m.parkedPair (s.cur ^^^ 1) (o.setArrive l (some b.gen)) }
  | none => s

/-- The hart waits for the barrier of a level. -/
def State.atBarrier (s : State) (l : Nat) : State := s.onHart fun h => { h with barWait := some l }

/-- A wait on a level's barrier returns (08 R179, R180): the hart sees the domain's phase, and the first return in the generation that
opened a communication phase is the moment that W is measured from. -/
def State.phaseSeen (s : State) (l : Nat) (b : Barrier) : State :=
  if 4 ≤ l then s
  else
    s.onHart fun h =>
      let d := h.domAt l
      let h' := h.setDom l (withPhase d b.phase)
      if b.phase && !(domPhase d && h.sync.openGen.toList.getD l 0 == b.gen) then
        { h' with sync := { h'.sync with
            openAt := Vector.ofFn fun i => if i.val = l then h.cyc else h.sync.openAt[i]
            openGen := Vector.ofFn fun i => if i.val = l then b.gen else h.sync.openGen[i] } }
      else h'

/-- The check of BAR.WAIT and BAR.TEST: the generation has completed, or it is the last one arrived at. -/
def State.checkGen (s : State) (l g : Nat) (b : Barrier) : R Bool :=
  match s.hart.arriveAt l with
  | none => domainTrap s 3 l
  | some a =>
    if g = a then .ok (b.completed g)
    else
      let d := (a + 65536 - g) % 65536
      if 1 ≤ d ∧ d ≤ 32767 then .ok true else domainTrap s 3 l

/-- The hart's snapshot for the next superstep boundary, where it has just arrived at one, and in a paired stream that of the parked core
(16 R389). -/
def State.snap (s : State) (l : Nat) (b : Barrier) : State :=
  if l = 3 ∧ b.phase then
    let s := s.writeSnap s.hart.gang s.hart.lc s.hart
    match tget? s.m.parkedPair (s.cur ^^^ 1) with
    | some o => s.writeSnap s.hart.gang (s.hart.lc + 1) o
    | none => s
  else s

/-- R320: BAR.ARRIVE. -/
def execBarArrive (n : Fin 4) (a : CReg) (lvl : Fin 8) (s : State) : Out :=
  complete do
    let l := lvl.val
    if 4 < l then illegalInsn s (.barArrive n a lvl) 2
    let (r, b) ← s.levelBar l
    if b.arrived.contains s.hart.lc then domainTrap s 1 l
    let s ← s.pairGate
    guardWait (s.hart.fenced (s.hart.barScope l)) false s
    let s := s.arriveAt l r b
    .ok ((((s.setX a (w64 b.gen)).retire { s := n, maj := 0x3C }).snap l b).pairOnce)

/-- R320: BAR.WAIT. -/
def execBarWait (n : Fin 4) (b : CReg) (lvl : Fin 8) (s : State) : Out :=
  complete do
    let l := lvl.val
    if 4 < l then illegalInsn s (.barWait n b lvl) 2
    s.readyC [b]
    let (_, x) ← s.levelBar l
    let ok ← s.checkGen l ((s.ra b).toNat % 65536) x
    guardSync ok (s.atBarrier l)
    .ok ((s.phaseSeen l x).retire { s := n, maj := 0x3C })

/-- The generation that a BAR.SYNC at this PC waits on already. -/
def Hart.syncing (h : Hart) (l : Nat) : Option Nat :=
  (tget? h.sync.synced l).bind fun e => if e / 65536 = h.pc.toNat then some (e % 65536) else none

/-- R320: BAR.SYNC arrives once, and waits on that generation, a trap or a stop in its wait apart (14 R319). -/
def execBarSync (n : Fin 4) (lvl : Fin 8) (s : State) : Out :=
  complete do
    let l := lvl.val
    if 4 < l then illegalInsn s (.barSync n lvl) 2
    let (r, b) ← s.levelBar l
    match s.hart.syncing l with
    | some g =>
      guardSync (b.completed g) (s.atBarrier l)
      let s := s.onHart fun h => { h with sync := { h.sync with synced := tdel h.sync.synced l } }
      .ok ((s.phaseSeen l b).retire { s := n, maj := 0x3C })
    | none =>
      if b.arrived.contains s.hart.lc then domainTrap s 1 l
      let s ← s.pairGate
      guardWait (s.hart.fenced (s.hart.barScope l)) false s
      let s := s.arriveAt l r b
      let s := s.onHart fun h => { h with sync := { h.sync with synced := tset h.sync.synced l (h.pc.toNat * 65536 + b.gen) } }
      .error (.wait true 0x16 ((s.atBarrier l).snap l b))

/-- R320: BAR.TEST. -/
def execBarTest (n : Fin 4) (a b : CReg) (lvl : Fin 8) (s : State) : Out :=
  complete do
    let l := lvl.val
    if 4 < l then illegalInsn s (.barTest n a b lvl) 2
    s.readyC [b]
    let (_, x) ← s.levelBar l
    let ok ← s.checkGen l ((s.ra b).toNat % 65536) x
    let s ← s.pairGate
    let s := if ok then s.phaseSeen l x else s
    .ok (((s.setX a (w64 (b2n ok))).retire { s := n, maj := 0x3C }).pairOnce)

/-- Every member of a barrier has arrived: a generation completes and its phase flips (08 R178, R179). -/
def Barrier.complete? (b : Barrier) : Option Barrier :=
  if b.members.all b.arrived.contains && !b.members.isEmpty then some { b with gen := (b.gen + 1) % 65536, arrived := [], phase := !b.phase }
  else none

/-- The barrier of domain `dom` at a level of a gang, or of its logical Tray `dom`. -/
def State.gangBar (s : State) (gang lvl dom : Nat) : Option BarRef :=
  if lvl = 4 then some (.tray gang dom)
  else
    match s.gang? gang with
    | none => none
    | some g => g.cores.findSome? fun c =>
        let d := (s.hartAt c).domAt lvl
        if domV d && domId d == dom then some (.bar (domBar d)) else none

/-- The hardware barriers of a gang: those its DOMAIN registers name. -/
def State.gangBars (s : State) (g : Gang) : List Nat :=
  g.cores.foldl (fun l c => (s.hartAt c).id.dom.toList.foldl (fun l d => if domV d then sadd l (domBar d) else l) l) []

/-- The snapshot of a gang at a superstep boundary becomes current (16 R389). -/
def State.boundary0 (s : State) (gang : Nat) (snap : Tbl Hart) : State :=
  match s.gang? gang with
  | none => s
  | some g =>
    let bars := (s.gangBars g).filterMap fun b => (tget? s.m.bars b).map fun x => (b, x)
    let heads := (List.range (g.cores.length / 8)).map fun k => g.cores.getD (8 * k) 0
    let trays := heads.zipIdx.map fun e => (e.2, s.tray (trayOf e.1))
    let s := match g.roll with | some r => s.writeSet g r snap (heads.map dieOf) | none => s
    (s.newSuperstep gang).modGang gang fun g =>
      { g with roll := g.roll.map fun r => { r with retry := 0, set := 1 - r.set, cur := snap, next := [], curBars := bars, curTrayBars := g.trayBars, curTrays := trays } }

/-- A barrier generation completes. -/
def State.barComplete (s : State) (r : BarRef) : Option State := ((s.barAt r).bind Barrier.complete?).map (s.setBar r)

/-! ## Collectives (17 R407) -/

/-- The lowest step at which the cap or a thermal ceiling holds a Tray. -/
def Mod.heldStep (m : Mod) : Nat := ((List.range 512).map fun t => min m.power.capstep (tget {} m.trays t).ceiling).foldl min 15

/-- THROTTLED while a Tray is held below SLKSTEP (17 R407): the step it is held at is advertised to the peers at every active port, and so
is its end. -/
def Mod.rethrottle (m : Mod) : Mod :=
  let held := m.heldStep
  let on := decide (held < m.power.slkstep)
  let advert := if on then some held else none
  let ports := ((List.range 16).filter fun p => (tget {} m.host.links p).st == .active).map fun p => (p, advert)
  { m with
    power := { m.power with throttled := on, advert := advert }
    host := if advert == m.power.advert then m.host else { m.host with adverts := m.host.adverts ++ ports } }

/-- SLKSTEP after a completion of the collective barrier of a context at TIME t, the last own arrival being at `arrival`. The first completion
has no slack (log 36). -/
def Mod.slacken (m : Mod) (ctx t arrival : Nat) : Mod :=
  let c := tget {} m.ctxs ctx
  let span := t - c.lastCompletion
  let high := decide (8 * span < 100 * (t - arrival))
  let low := decide (100 * (t - arrival) < 2 * span)
  let run := if high && c.lastCompletion != 0 then c.slackRun + 1 else 0
  let still := m.power.lastSlk != 0 && decide (t - m.power.lastSlk < 4000000)
  let floor := (m.power.peerFloor.map (·.2)).foldl max 0
  let p := m.power
  let step := if still || c.lastCompletion == 0 then p.slkstep
    else if 4 ≤ run then max (min floor p.slkstep) (p.slkstep - 1)
    else if low then min 15 (p.slkstep + 1) else p.slkstep
  let changed := step != p.slkstep
  ({ m with
    ctxs := tset m.ctxs ctx { c with lastCompletion := t, slackRun := if changed && decide (4 ≤ run) then 0 else run }
    power := { p with slkstep := step, lastSlk := if changed then t else p.lastSlk } }).rethrottle

/-- A barrier has completed that contexts have named their collective. -/
def State.collective (s : State) (i : Nat) : State :=
  let arrival := ((tget? s.m.bars i).map (·.last)).getD 0
  let l := s.m.ctxs.filter (·.2.collective == some i)
  if l.isEmpty then s else (l.foldl (fun s e => s.onMod fun m => m.slacken e.1 s.nowNs arrival) s).retargetAll

/-- A completion of level 3 that enters a computation phase is a superstep boundary of a gang with rollback (16 R389). -/
def State.superstep (s : State) (gang lvl : Nat) (r : BarRef) : State :=
  match (s.gang? gang).bind (·.roll), s.barAt r with
  | some x, some b => if lvl = 3 ∧ !b.phase then s.boundary0 gang x.next else s
  | _, _ => s

/-- BARRIER_COMPLETE (08 R178), a collective barrier apart. -/
def State.barrierComplete (s : State) (gang lvl dom : Nat) : Option State :=
  match s.gangBar gang lvl dom with
  | none => none
  | some r => ((s.barComplete r).map (·.superstep gang lvl r)).map fun t => match r with
    | .bar i => t.collective i
    | .tray .. => t

/-- BARRIER_COMPLETE. -/
def execBarrierComplete (gang lvl dom : Nat) (s : State) : Out := eventOf (decide (lvl ≤ 4)) (s.barrierComplete gang lvl dom) s

/-! ## Reserving barriers; DOM.SET (08 R176, R178; 14 R323) -/

/-- The lowest free hardware barrier for members on some cores. -/
def Mod.freeBar (m : Mod) (cores : List Nat) : Option Nat :=
  let h := dieOf (cores.headD 0)
  if cores.all fun c => dieOf c == h then ((List.range 256).map (h * 256 + ·)).find? fun i => (tget? m.bars i).isNone
  else ((List.range 64).map (1024 + ·)).find? fun i => (tget? m.bars i).isNone

/-- Reserve barriers for the domains of a valid level with log `log`, in a gang whose cores are listed by LCORE: the DOMAIN register
of each domain. -/
def Mod.reserve (m : Mod) (cores : List Nat) (log : Nat) : Option (Mod × List (BitVec 43)) :=
  let k := 8 * 2 ^ log
  (List.range (ceilDiv cores.length k)).foldl (fun a i =>
    match a with
    | none => none
    | some (m, l) =>
      let mem := (cores.drop (i * k)).take k
      match m.freeBar mem with
      | none => none
      | some b =>
        let x := mem.any fun c => dieOf c != dieOf (mem.headD 0)
        some ({ m with bars := tset m.bars b { members := (List.range mem.length).map (i * k + ·) } }, l ++ [mkDom i log true false x mem.length b]))
    (some (m, []))

/-- The harts of a gang that take part on their own: those not parked in a pair. -/
def State.takers (s : State) (g : Gang) : List Nat := g.cores.filter fun c => (tget? s.m.parkedPair c).isNone

/-- R323: DOM.SET. -/
def execDomSet (n : Fin 4) (b : CReg) (lvl : Fin 8) (s : State) : Out :=
  complete do
    let l := lvl.val
    if 4 ≤ l then illegalInsn s (.domSet n b lvl) 2
    s.readyC [b]
    if l = 3 then domainTrap s 2 l
    let v := (s.ra b).toNat
    if 32 ≤ v then domainTrap s 4 l
    match s.hart.sync.domres with
    | some r =>
      let s := s.onHart fun h => { h with sync := { h.sync with domres := none } }
      if r = 0 then .ok (s.retire { s := n, maj := 0x3C }) else domainTrap s r l
    | none =>
      let pendingGen := match s.hart.barRef l with
        | some r => (match s.barAt r with | some x => x.arrived.contains s.hart.lc | none => false)
        | none => false
      if pendingGen then domainTrap s 1 l
      guardWait (s.hart.sync.domset.isSome || s.hart.fenced 2) false s
      .error (.wait false 0x10 (s.onHart fun h => { h with sync := { h.sync with domset := some (l, v) } }))

/-- The outcome of a DOM.SET: 0, or REASON 4 or 5, with the module's barriers and the DOMAIN registers by domain (14 R323). -/
def State.reformPlan (s : State) (g : Gang) (l : Nat) (vals : List Nat) : Nat × Mod × List (BitVec 43) :=
  let v := vals.headD 0
  let log := v % 16
  let valid := decide (16 ≤ v)
  let h := s.hartAt (g.cores.headD 0)
  let other (k : Nat) : Option Nat := if domV (h.domAt k) then some (domLog (h.domAt k)) else none
  let inner := (List.range l).filterMap other
  let outer := ((List.range 3).filter (fun k => decide (l < k))).filterMap other
  let old := g.cores.filterMap fun c => let d := (s.hartAt c).domAt l; if domV d then some (domBar d) else none
  if vals.any (· != v) || (valid && (decide (9 < log) || inner.any (fun x => decide (log < x)) || outer.any (fun x => decide (x < log)))) then (4, s.m, [])
  else
    let m := { s.m with bars := old.foldl tdel s.m.bars }
    if !valid then (0, m, [])
    else
      match m.reserve g.cores log with
      | some (m, doms) => (0, m, doms)
      | none => (5, s.m, [])

/-- A hart's registers after its level is re-formed. -/
def Hart.reformed (h : Hart) (l : Nat) (log : Nat) (doms : List (BitVec 43)) : Hart :=
  let d := if doms.isEmpty then mkDom 0 log false false false 0 0 else doms.getD (h.lc / (8 * 2 ^ log)) 0
  let h := (h.setDom l d).setArrive l (some 0)
  { h with sync := { h.sync with
    slotTab := Vector.ofFn fun i => if i.val = l then none else h.sync.slotTab[i]
    synced := tdel h.sync.synced l, domset := none, domres := some 0 } }

/-- DOMAIN_REFORM (14 R323): every hart of the gang waits in DOM.SET for a level. -/
def State.domainReform (s : State) (gang l : Nat) : Option State :=
  match s.gang? gang with
  | none => none
  | some g =>
    let harts := s.takers g
    let vals := harts.filterMap fun c => ((s.hartAt c).sync.domset).bind fun e => if e.1 = l then some e.2 else none
    if harts.isEmpty || vals.length != harts.length then none
    else
      let (r, m, doms) := s.reformPlan g l vals
      let log := vals.headD 0 % 16
      if r = 0 then
        let s := { s with m := m }
        let s := harts.foldl (fun s c => s.modHart c fun h => h.reformed l log doms) s
        let quiet (h : Hart) : Hart := { h with sync := { h.sync with domres := none } }
        let parked (e : Nat × Hart) : Nat × Hart := if g.cores.contains e.1 then (e.1, quiet (e.2.reformed l log doms)) else e
        some (s.onMod fun m => { m with parkedPair := m.parkedPair.map parked })
      else some (harts.foldl (fun s c => s.modHart c fun h => { h with sync := { h.sync with domset := none, domres := some r } }) s)

/-- DOMAIN_REFORM. -/
def execDomainReform (gang l : Nat) (s : State) : Out := eventOf (decide (l ≤ 2)) (s.domainReform gang l) s

/-! ## Phases and sends (08 R180, R181; 14 R324 to R326) -/

/-- The slot table of a level. -/
def Hart.slotsAt (h : Hart) (l : Nat) : Option SlotTab := (h.sync.slotTab.toList[l]?).bind fun x => x

/-- Bind or drop it. -/
def Hart.setSlots (h : Hart) (l : Nat) (t : Option SlotTab) : Hart :=
  { h with sync := { h.sync with slotTab := Vector.ofFn fun i => if i.val = l then t else h.sync.slotTab[i] } }

/-- A slot table in memory is valid for a level (14 R324). -/
def slotTableOk (l memb : Nat) (x : Bool) (v : Nat) : Bool :=
  let n := v % 65536
  let cyc := v / 65536 % 65536
  v / 2 ^ 32 % 256 == l && bits v 127 40 == 0 && decide (1 ≤ n) && decide (n ≤ 256) && decide ((if x then 512 else 32) ≤ cyc)
    && (List.range n).all fun i =>
      let e := v / 2 ^ (128 + 32 * i) % 2 ^ 32
      e / 2 ^ 24 == 0 && decide (e % 4096 < memb) && decide (e / 4096 % 4096 < memb)

/-- R324: PHASE. -/
def execPhase (n : Fin 4) (a b : CReg) (lvl : Fin 8) (s : State) : Out :=
  complete do
    let l := lvl.val
    if 4 ≤ l then illegalInsn s (.phase n a b lvl) 2
    if b ≠ 0 then s.readyC [b]
    let d := s.hart.domAt l
    if !domV d then domainTrap s 0 l
    let out := w64 (b2n (domPhase d))
    if b = 0 then .ok (((s.onHart (·.setSlots l none)).setX a out).retire { s := n, maj := 0x3C })
    else
      let c := s.rc b
      let (s, hd, _, _) ← s.readCap c b.val c.addr 16 16
      let k := hd % 65536
      let (s, v, _, ev) ← s.readCap c b.val c.addr (16 + 4 * (if k ≤ 256 then k else 0)) 16
      if !slotTableOk l (domMemb d) (domX d) v then domainTrap s 2 l
      let t : SlotTab := { slotcyc := v / 65536 % 65536, entries := (List.range k).map fun i => v / 2 ^ (128 + 32 * i) % 2 ^ 24 }
      .ok (((s.onHart (·.setSlots l (some t))).setX a out).retire { s := n, maj := 0x3C, ev := ev })

/-- SLOT_VIOLATION and PHASE_VIOLATION (08 R181). -/
def slotTrap {α : Type} (s : State) (cause reason : Nat) (v : Word) (idx : Nat) : R α := raise s cause v (w64 (0x10000 * (idx % 4096) + 0x100 * reason))

/-- Payloads on their way to a hart or in its receive buffer: that of the parked state in a pair (14 R347). -/
def State.rxLoad (s : State) (core : Nat) : Nat :=
  ((tget? s.m.parkedPair core).getD (s.hartAt core)).sync.rx.length + (s.m.sends.filter (·.hart == core)).length

/-- The cores of the other harts of a hart's domain at a level. -/
def State.domainPeers (s : State) (n l : Nat) : List Nat :=
  let d := (s.hartAt n).domAt l
  (((s.gang? (s.hartAt n).gang).map (·.cores)).getD []).filter fun c => c != n && domV ((s.hartAt c).domAt l) && domId ((s.hartAt c).domAt l) == domId d

/-- W of a level (08 R180). -/
def Hart.opened (h : Hart) (l : Nat) : Nat := h.sync.openAt.toList.getD l 0

/-- The hart has seen the present communication phase of a level: W is its wait's return in the generation that opened it. -/
def State.sawPhase (s : State) (n l : Nat) : Bool :=
  match ((s.hartAt n).barRef l).bind s.barAt with
  | some b => b.phase && domPhase ((s.hartAt n).domAt l) && (s.hartAt n).sync.openGen.toList.getD l 0 == b.gen
  | none => false

/-- A slot that opens at a time after W has its turn (08 R181): no other hart of the domain can still do anything at an earlier time after
its own W, which is the same moment (log 60). A hart that waits for anything but its phase or its own slot waits through it. -/
def State.slotTurn (s : State) (n l at0 : Nat) : Bool :=
  (s.domainPeers n l).all fun c =>
    let h := s.hartAt c
    h.place != .placed ||
      match h.sync.sendAt with
      | some (k, t) => k != l || decide (at0 + h.opened l ≤ t)
      | none => if s.sawPhase c l then h.waiting || decide (at0 + h.opened l ≤ h.cyc) else h.waiting && h.barWait != some l

/-- No payload of an earlier slot of a domain is on its way: each arrives before its slot closes (08 R181). -/
def State.slotsClear (s : State) (n l slot : Nat) : Bool :=
  s.m.sends.all fun x => x.pay.lvl != l || !((n :: s.domainPeers n l).contains x.hart) || decide (slot ≤ x.pay.slot)

/-- A payload leaves, after the release half (04 R105). -/
def State.doSend (x : SendMsg) (s : State) : R State := do
  guardWait (s.hart.fenced (if dieOf x.hart = s.die then 1 else 2)) false s
  .ok (s.onMod fun m => { m with sends := m.sends ++ [x] })

/-- R325, R181: SEND. -/
def execSend (n : Fin 4) (b : CReg) (vr : VReg) (lvl : Fin 4) (s : State) : Out :=
  complete do
    let l := lvl.val
    s.readyC [b]
    s.ready (s.watched [vr])
    let d := s.hart.domAt l
    if !domV d then domainTrap s 0 l
    let v := s.ra b
    let idx := s.hart.lc - domFirst d
    match (if domPhase d then s.hart.slotsAt l else none) with
    | none => slotTrap s 0x32 0 v idx
    | some t =>
      let e := t.entries.getD v.toNat 0
      if t.entries.length ≤ v.toNat ∨ e % 4096 ≠ idx then slotTrap s 0x31 1 v idx
      let w := s.hart.sync.openAt.toList.getD l 0
      let cyc := t.slotcyc
      let guard0 := if domX d then 256 else 16
      let rcv := s.coreOfLogical s.cur (domFirst d + e / 4096)
      if s.hart.sync.sendAt.isNone ∧ w + (v.toNat + 1) * cyc ≤ s.hart.cyc + guard0 then slotTrap s 0x31 2 v idx
      let opens := w + v.toNat * cyc
      let held := s.onHart fun h => { h with sync := { h.sync with sendAt := some (l, opens) } }
      guardWait (decide (opens ≤ s.hart.cyc) && s.slotTurn s.cur l (v.toNat * cyc) && s.slotsClear s.cur l v.toNat) false held
      let (xs, pops) ← s.vread [] [vr]
      guardWait (s.hart.pair.on || s.hart.fenced (if dieOf rcv = s.die then 1 else 2)) false held
      let s := s.onHart fun h => { h with sync := { h.sync with sendAt := none } }
      if 32 ≤ s.rxLoad rcv then slotTrap s 0x31 3 v idx
      let x : SendMsg := { hart := rcv, pay := { data := src xs 0, slot := v.toNat, sender := idx, lvl := l } }
      let s ← (s.popStrips pops).orHold (.send x) v (splitBytes 64 (src xs 0).toNat) (State.doSend x)
      .ok (s.retire { s := n, maj := 0x3C })

/-- SLOT_OPEN (08 R181): the slot that a SEND waits for opens on the sender's clock; the time passes for every hart of the domain that
waits. -/
def State.slotOpen (s : State) (n : Nat) : Option State :=
  match (s.hartAt n).sync.sendAt with
  | some (l, t) =>
    let at0 := t - (s.hartAt n).opened l
    if (s.hartAt n).cyc < t && s.slotTurn n l at0 then
      let late (c : Nat) : Nat := if (s.hartAt c).place == .placed && s.sawPhase c l then at0 + (s.hartAt c).opened l - (s.hartAt c).cyc else 0
      let s := (s.domainPeers n l).foldl (fun s c => if late c = 0 then s else s.idleFor c (late c)) s
      some (s.idleFor n (t - (s.hartAt n).cyc))
    else none
  | none => none

/-- SLOT_OPEN. -/
def execSlotOpen (n : Nat) (s : State) : Out := eventOf (hartExists n) (s.slotOpen n) s

/-- Change what a core's hart holds of messages: in a pair the parked state holds its own (14 R347). -/
def State.modReceiver (s : State) (core : Nat) (f : Hart → Hart) : State :=
  match tget? s.m.parkedPair core with
  | some h => s.onMod fun m => { m with parkedPair := tset m.parkedPair core (f h) }
  | none => s.modHart core f

/-- SEND_DELIVERY (14 R325): payload number i in flight enters its receiver's buffer, behind those sent to it before. -/
def State.sendDelivery (s : State) (i : Nat) : Option State :=
  match s.m.sends[i]? with
  | none => none
  | some x =>
    if (s.m.sends.take i).any (·.hart == x.hart) then none
    else some ((s.modReceiver x.hart fun h => { h with sync := { h.sync with rx := h.sync.rx ++ [x.pay] } }).onMod fun m => { m with sends := m.sends.eraseIdx i })

/-- SEND_DELIVERY. -/
def execSendDelivery (i : Nat) (s : State) : Out := eventOf true (s.sendDelivery i) s

/-- The word that RECV writes (14 R326). -/
def Payload.word (p : Payload) : Word := w64 (p.sender % 4096 + p.slot * 0x1000 + p.lvl * 0x100000)

/-- R326: RECV. -/
def execRecv (n : Fin 4) (a : CReg) (vr : VReg) (s : State) : Out :=
  complete do
    let s ← s.pairGate
    match s.hart.sync.rx with
    | [] => .error (.wait true 0x10 s)
    | p :: rest =>
      s.queueParity badPayloads
      guardWait (s.canAppend vr) false s
      let s := s.onHart fun h => ({ h with sync := { h.sync with rx := rest } }).popBad badPayloads
      .ok ((((s.setVec vr p.data 1 0x3C).setX a p.word).retire { s := n, maj := 0x3C }).pairOnce)

/-! ## Wake registers (08 R182, 14 R327) -/

/-- A mask leaves, after the release half (04 R105). -/
def State.doWake (x : WakeMsg) (s : State) : R State := do
  guardWait (s.hart.fenced (if dieOf x.hart = s.die then 1 else 2)) false s
  .ok (s.onMod fun m => { m with wakes := m.wakes ++ [x] })

/-- R327: WAKE. -/
def execWake (n : Fin 4) (a b : CReg) (s : State) : Out :=
  complete do
    s.readyC [a, b]
    let t := (s.ra a).toNat
    if s.hart.size ≤ t then domainTrap s 6 t
    let rcv := s.coreOfLogical s.cur t
    let x : WakeMsg := { hart := rcv, mask := s.ra b }
    let s ← s.orHold (.wake x) (s.ra a) (splitBytes 8 (s.ra b).toNat) (State.doWake x)
    .ok (s.retire { s := n, maj := 0x3C })

/-- WAKE_DELIVERY (08 R182): mask number i in flight joins its target's WAKEREG; a hart parked in a pair holds its own, and a paired
stream receives it between two intervals, at a checkpoint (16 R393). -/
def State.wakeDelivery (s : State) (i : Nat) : Option State :=
  match s.m.wakes[i]? with
  | none => none
  | some x =>
    let h := s.hartAt x.hart
    if (tget? s.m.parkedPair x.hart).isNone && h.pair.on && h.pair.begun then none
    else
      let f (h : Hart) : Hart := { h with sync := { h.sync with wakereg := h.sync.wakereg ||| x.mask } }
      let point (e : Nat × Hart) : Nat × Hart := if e.1 = x.hart then (e.1, f e.2) else e
      some ((s.modReceiver x.hart f).onMod fun m => { m with wakes := m.wakes.eraseIdx i, checkpoint := m.checkpoint.map point })

/-- WAKE_DELIVERY. -/
def execWakeDelivery (i : Nat) (s : State) : Out := eventOf true (s.wakeDelivery i) s

/-- R327: WFW. -/
def execWfw (n : Fin 4) (a b : CReg) (s : State) : Out :=
  complete do
    s.readyC [b]
    let m := s.ra b
    let s ← s.pairGate
    let v := s.hart.sync.wakereg &&& m
    guardSync (m == 0 || v != 0) s
    let s := s.onHart fun h => { h with sync := { h.sync with wakereg := h.sync.wakereg &&& ~~~v } }
    .ok (((s.setX a v).retire { s := n, maj := 0x3C }).pairOnce)

end Sys2Proof.Machine
end

