-- ==== Sys2Proof/Machine/Tasks.lean ====
section
/-! DEFINITION. Task slices, the dispensers and the Opal token (08 R183 to R188; 14 R328 to R330; 15 R368, R369). -/

namespace Sys2Proof.Machine

/-! ## Queues (08 R183 to R185) -/

/-- The task queue of a context on a Hearth. -/
def State.taskQ (s : State) (ctx hearth : Nat) : TaskQ := tget {} (s.ctx ctx).queues hearth

/-- Change it. -/
def State.modTaskQ (s : State) (ctx hearth : Nat) (f : TaskQ → TaskQ) : State :=
  s.modCtx ctx fun c => { c with queues := tmod {} c.queues hearth f }

/-- EN of TQCFG. -/
def TaskQ.enabled (q : TaskQ) : Bool := q.cfg.getLsbD 15
/-- Records of the L1 part. -/
def l1Part : Nat := 4096
/-- Records of the spill ring. -/
def TaskQ.ringCap (q : TaskQ) : Nat := let k := bits q.cfg.toNat 14 10; if k = 0 then 0 else 2 ^ k

/-- A task record as 32 bytes in memory (08 R183). -/
def TaskRec.ofBytes (v gang spawner : Nat) : TaskRec where
  entry := v % 2 ^ 32
  deadline := v / 2 ^ 32 % 2 ^ 32
  budget := v / 2 ^ 64 % 2 ^ 24
  rsid := v / 2 ^ 88 % 256
  wsid := v / 2 ^ 96 % 256
  args := BitVec.ofNat 128 (v / 2 ^ 128)
  stamp := 0
  spawner := spawner
  gang := gang

/-- What TASK.SPAWN answers (08 R185): 0 OK, 1 SPILLED, 2 FULL. -/
def TaskQ.status (q : TaskQ) : Nat :=
  if !q.enabled then 2
  else if q.l1.length < l1Part ∧ q.ring.isEmpty then 0
  else if q.ring.length < q.ringCap then 1
  else 2

/-- A record enters the queue with a stamp of its own (16 R397). -/
def TaskQ.add (q : TaskQ) (now : Nat) (r : TaskRec) : TaskQ :=
  let t := max now (q.stamp + 1)
  let r := { r with stamp := t }
  match q.status with
  | 0 => { q with l1 := q.l1 ++ [r], stamp := t }
  | 1 => { q with ring := q.ring ++ [r], stamp := t }
  | _ => q

/-- Spilled records enter the L1 part while it has room. -/
def TaskQ.refill (q : TaskQ) : TaskQ :=
  let n := l1Part - q.l1.length
  { q with l1 := q.l1 ++ q.ring.take n, ring := q.ring.drop n }

/-- The scope of a signal to a Hearth from the hart's die (04 R105). -/
def State.signalScope (s : State) (die : Nat) : Nat := if die = s.die then 1 else 2

/-- Offer a record to a queue (08 R185; 04 R105): the release half where it is stored; the status and the state. -/
def State.offer (s : State) (hearth : Nat) (r : TaskRec) : R (State × Nat) := do
  let st := (s.taskQ s.hart.ctx hearth).status
  guardWait (st == 2 || s.hart.fenced (s.signalScope hearth)) false s
  .ok (s.modTaskQ s.hart.ctx hearth (·.add s.nowNs r), st)

/-- A record is spawned: the gang's task graph goes on. -/
def State.doSpawn (hearth : Nat) (r : TaskRec) (s : State) : R (State × Nat) := do
  let (s, st) ← s.offer hearth r
  .ok (s.modGang s.hart.gang fun g => { g with terminated := false }, st)

/-- R328, R185: TASK.SPAWN. -/
def execTaskSpawn (n : Fin 4) (a b : CReg) (hrt : Fin 4) (own : Bool) (s : State) : Out :=
  complete do
    s.readyC [b]
    let c := s.rc b
    let (s, v, _, ev) ← s.readCap c b.val c.addr 32 32
    let hearth := if own then s.die else hrt.val
    let r := TaskRec.ofBytes v s.hart.gang s.hart.lc
    let (s, st) ← s.orHoldFor (.spawn hearth r) c.addr (splitBytes 32 v) (State.doSpawn hearth r)
    .ok (((s.setX a (w64 st)).retire { s := n, maj := 0x3C, ev := ev }).pairOnce)

/-! ## TASK.TAKE (14 R329) -/

/-- A tagged capability to [base, base + len) with its address, rounded outward where the bounds need it. -/
def boundCap (base len perm : Nat) (addr : Word) : Cap :=
  let top := base + len
  let e := narrowExp base top 35 0
  { tag := true, md := mkMd (roundUp top (2 ^ e) / 2 ^ e % 0x100000) (roundDown base (2 ^ e) / 2 ^ e % 0x100000) e 0 0 perm, addr := addr }

/-- The code object that a gang runs. -/
def State.gangText (s : State) (gang : Nat) : Option CodeObj :=
  (s.gang? gang).bind fun g => (s.ctx g.ctx).objs.find? fun o => o.handle == g.handle

/-- c6 of a record: X only, over the gang's copy of the text. -/
def State.entryCap (s : State) (gang entry : Nat) : Cap :=
  match s.gangText gang with
  | some o => boundCap (a55 o.textVa) (64 * o.lines) 4 (o.textVa + w64 entry)
  | none => { addr := w64 entry }

/-- c7 of a record. -/
def TaskRec.word (r : TaskRec) : Word := w64 (r.deadline + r.rsid * 2 ^ 32 + r.wsid * 2 ^ 40 + r.spawner % 0x10000 * 2 ^ 48)

/-- The budget that a record loads (08 R187). -/
def TaskRec.cycles (r : TaskRec) : Nat := if r.budget % 2 ^ 24 = 0 then 2 ^ 24 else r.budget % 2 ^ 24

/-- A hart receives a record. -/
def State.takeRecord (s : State) (r : TaskRec) (hearth : Nat) : State :=
  let s := (s.setX 4 (r.args.setWidth 64)).setX 5 ((r.args >>> 64).setWidth 64)
  let s := (s.setC 6 (s.entryCap r.gang r.entry)).setX 7 r.word
  s.onHart fun h => { h with sync := { h.sync with slice := some { task := r, hearth := hearth }, budget := r.cycles } }

/-- R329: TASK.TAKE waits until the dispenser has given it a record, or its task graph is terminated. The result 0 is written last (log 73),
and the cycles of the completing TASK.TAKE count against the BUDGET that it loads (log 80). -/
def execTaskTake (n : Fin 4) (a : CReg) (q : QReg) (s : State) : Out :=
  complete do
    match s.hart.q[q] with
    | some (.taskpop hearth) =>
      if s.hart.sync.slice.isSome then handleState s 8 0
      let s ← s.pairGate
      let done (s : State) : State := s.onHart fun h => ({ h with sync := { h.sync with takeAt := none, given := none } }).popBad badGiven
      let ended := ((s.gang? s.hart.gang).map (·.terminated)).getD false
      match s.hart.sync.given with
      | some (.task r) =>
        if s.hart.poison.contains badGiven then (done s).queueBad 0 0
        .ok ((((done s).takeRecord r hearth |>.setX a 0).retire { s := n, maj := 0x3C, ev := [0x17] }).pairOnce)
      | some .terminated => .ok ((((done s).setX a 1).retire { s := n, maj := 0x3C }).pairOnce)
      | none =>
        if ended then .ok ((((done s).setX a 1).retire { s := n, maj := 0x3C }).pairOnce)
        else
          let s := match s.hart.sync.takeAt with
            | some _ => s
            | none => (s.onHart fun h => { h with sync := { h.sync with takeAt := some (s.m.mxStamp, hearth) } }).onMod fun m => { m with mxStamp := m.mxStamp + 1 }
          .error (.wait true 0x10 s)
    | _ => handleState s 6 0

/-! ## Ending a slice (14 R330) -/

/-- The slice ends: BUDGET stops. -/
def Hart.dropSlice (h : Hart) : Hart := { h with sync := { h.sync with slice := none } }

/-- R330: TASK.YIELD requeues the slice with the cycles left. -/
def execTaskYield (n : Fin 4) (a b : CReg) (s : State) : Out :=
  complete do
    if b ≠ 0 then s.readyC [b]
    match s.hart.sync.slice with
    | none => handleState s 8 0
    | some sl =>
      let old := sl.task
      let (s, r, ev) ← (if b = 0 then .ok (s, old, []) else do
        let c := s.rc b
        let (s, v, _, ev) ← s.readCap c b.val c.addr 32 32
        let x := TaskRec.ofBytes v 0 0
        .ok (s, { old with entry := x.entry, args := x.args }, ev) : R (State × TaskRec × List Nat))
      let s ← s.pairGate
      let r := { r with budget := s.hart.sync.budget % 2 ^ 24, spawner := s.hart.lc, gang := s.hart.gang }
      let (s, st) ← s.offer sl.hearth r
      let s := if st = 2 then s else s.onHart (·.dropSlice)
      .ok (((s.setX a (w64 st)).retire { s := n, maj := 0x3C, ev := ev }).pairOnce)

/-- R330: TASK.DONE. -/
def execTaskDone (n : Fin 4) (s : State) : Out := complete (.ok ((s.onHart (·.dropSlice)).retire { s := n, maj := 0x3C }))

/-! ## Retiring a gang (08 R170) -/

/-- A core that its hart has left is idle. Its control registers stay as they are (log 34). -/
def Hart.vacated (h : Hart) : Hart :=
  { h.settled with
    place := .idle, slot := none, pend := [], q := Vector.replicate 8 none, streams := [], sync := {}, asy := [], wfi := false
    atSafept := none, migrateTo := none, trapEntryOf := none, early := [], earlyTags := [], checking := none, moving := false, pausing := false, forced := false
    pair := { h.pair with on := false, odd := false, run := 0, waiting := false, result := none, notes := [], held := [], acts := [], flushing := false, got := none, off := false, loads := [], count := 0, inject := false, differs := false, due := false }
    mx := { h.mx with queue := [], tokens := [] } }

/-- The Trays, or the die of a Miller set, are no longer the gang's: its barriers are free and its cores idle. -/
def State.gangVacate (s : State) (g : Gang) : State :=
  let bars := s.gangBars g
  let s := g.cores.foldl (fun s c => ((s.hartAt c).streams.foldl (fun s b => s.unbindStream b.2.opn) s).modHart c (·.vacated)) s
  (s.onMod fun m => { m with
    wakes := m.wakes.filter fun w => !g.cores.contains w.hart, sends := m.sends.filter fun w => !g.cores.contains w.hart
    bars := bars.foldl tdel m.bars, parkedPair := m.parkedPair.filter fun e => !(g.cores.contains e.1) }).retargetCores g.cores

/-- The records of a gang that has retired stay in their queues, and no hart is their gang's any more (log 71). -/
def TaskQ.orphan (gang : Nat) (q : TaskQ) : TaskQ :=
  let f (r : TaskRec) : TaskRec := if r.gang = gang then { r with gang := 65536 } else r
  { q with l1 := q.l1.map f, ring := q.ring.map f }

/-- A gang retires; the space allocated for its image is free again. -/
def State.gangRetire (s : State) (gang : Nat) : State :=
  match s.gang? gang with
  | none => s
  | some g =>
    let s := ((s.unmark gang).gangVacate g).modCtx g.ctx fun c =>
      { c with images := c.images.filter (·.gang != gang), queues := c.queues.map fun q => (q.1, q.2.orphan gang) }
    s.onMod fun m => { m with gangs := tdel m.gangs gang }

/-- Every hart of a gang has halted. -/
def State.allHalted (s : State) (g : Gang) : Bool := g.cores.all fun c => (s.hartAt c).place == .halted

/-- R330: TASK.EXIT ends the slice, waits as FENCE.E and for the drain of the store buffer, and halts the hart; in a paired stream
both harts. Reports still pending go to another hart (16 R378). The gang retires when every hart has halted (08 R170). -/
def execTaskExit (n : Fin 4) (s : State) : Out :=
  complete do
    let s := (s.onHart (·.dropSlice)).flushWindow s.cur
    let s ← s.pairGate
    guardWait (s.enginesDone && s.hart.performed) true s
    let s := s.retire { s := n, maj := 0x3C }
    let left := s.hart.asy.filter fun a => asyRank a.cause == 1 || asyRank a.cause == 3 || asyRank a.cause == 4
    let s := s.onHart fun h => { h with place := .halted, asy := [] }
    let s := left.foldl (fun s a => s.report s.hart.ctx s.hart.gang s.cur a) s
    let s := if s.hart.pair.on then (s.modHart (s.cur ^^^ 1) fun h => { h with place := .halted }).onMod fun m => { m with parkedPair := tdel m.parkedPair (s.cur ^^^ 1) } else s
    match s.gang? s.hart.gang with
    | some g => .ok (if s.allHalted g then s.gangRetire s.hart.gang else s)
    | none => .ok s

/-! ## The dispenser (08 R186; 15 R369) -/

/-- A hart waits in TASK.TAKE for a record. -/
def Hart.taking (h : Hart) : Bool := h.place == .placed && !h.moving && h.sync.takeAt.isSome && h.sync.given.isNone

/-- The dispenser skips a hart on a Tray that is hot or over budget. -/
def State.skipped (s : State) (core : Nat) : Bool := decide (core < 4096) && ((s.tray (trayOf core)).hot || (s.tray (trayOf core)).overBud)

/-- Slices in progress of the queue of a context on a Hearth: held, saved with their harts, or just given. -/
def State.slicesOf (s : State) (ctx hearth : Nat) : List TaskRec :=
  let placed := s.cores.map (s.hartAt ·) ++ s.m.parkedPair.map (·.2)
  let saved := s.m.gangs.flatMap fun g => if g.2.st = .saved then g.2.saved.map (·.2) else []
  (placed ++ saved).flatMap fun h =>
    if h.ctx = ctx then
      (match h.sync.slice with | some x => if x.hearth = hearth then [x.task] else [] | none => [])
        ++ (match h.sync.given, h.sync.takeAt with | some (.task r), some t => if t.2 = hearth then [r] else [] | _, _ => [])
    else []

/-- A record that a slice in progress holds back. -/
def TaskRec.conflicts (r x : TaskRec) : Bool :=
  (r.wsid != 0 && (r.wsid == x.rsid || r.wsid == x.wsid)) || (r.rsid != 0 && r.rsid == x.wsid)

/-- The oldest hart of a context that waits at a Hearth for a record of a gang and is not skipped. -/
def State.taker (s : State) (ctx hearth gang : Nat) : Option Nat :=
  let l := s.cores.filter fun c =>
    let h := s.hartAt c
    h.ctx == ctx && h.gang == gang && h.taking && ((h.sync.takeAt.map (·.2)) == some hearth) && !s.skipped c
  (l.foldl (fun (a : Option (Nat × Nat)) c =>
    let t := (((s.hartAt c).sync.takeAt).map (·.1)).getD 0
    match a with
    | some (t', _) => if t < t' then some (t, c) else a
    | none => some (t, c)) none).map (·.2)

/-- Deadline d is earlier than e (08 R183). -/
def earlier (d e : Nat) : Bool := decide (2 ^ 31 ≤ (d + 2 ^ 32 - e) % 2 ^ 32)

/-- Record x goes before y. -/
def TaskRec.before (x y : TaskRec) : Bool := earlier x.deadline y.deadline || (x.deadline == y.deadline && decide (x.stamp < y.stamp))

/-- The record that goes next on a Hearth, with its context and its taker (log 32). -/
def State.nextRecord (s : State) (hearth : Nat) : Option (Nat × TaskRec × Nat) :=
  (List.range 16).foldl (fun a ctx =>
    let q := s.taskQ ctx hearth
    if !q.enabled then a
    else
      let busy := s.slicesOf ctx hearth
      q.l1.foldl (fun a r =>
        if busy.any r.conflicts then a
        else
          match s.taker ctx hearth r.gang with
          | none => a
          | some c =>
            match a with
            | some (_, b, _) => if r.before b then some (ctx, r, c) else a
            | none => some (ctx, r, c)) a) none

/-- The hart of a logical number of a gang, wherever it is held. -/
def State.modMember (s : State) (gang lc : Nat) (f : Hart → Hart) : State :=
  match (s.gang? gang).bind fun g => g.cores[lc]? with
  | none => s
  | some c =>
    match tget? s.m.parkedPair c with
    | some h => s.onMod fun m => { m with parkedPair := tset m.parkedPair c (f h) }
    | none => s.modHart c f

/-- One match. -/
def State.dispense1 (s : State) (hearth : Nat) : Option State :=
  match s.nextRecord hearth with
  | none => none
  | some (ctx, r, c) =>
    let s := s.modTaskQ ctx hearth fun q => { q with l1 := q.l1.filter (· != r) }.refill
    let s := s.modHart c fun h => { h with sync := { h.sync with given := some (.task r) } }
    some (if (s.hartAt c).lc < r.spawner then s.modMember r.gang r.spawner fun h => { h with sync := { h.sync with blk := true } } else s)

/-- Several matches. -/
def State.dispenseN (s : State) (hearth : Nat) : Nat → State
  | 0 => s
  | n + 1 =>
    match s.dispense1 hearth with
    | some s => s.dispenseN hearth n
    | none => s

/-- DISPENSE_CYCLE (08 R186): at most 16 matches on a Hearth. -/
def State.dispenseCycle (s : State) (hearth : Nat) : Option State := (s.dispense1 hearth).map fun s => s.dispenseN hearth 15

/-- DISPENSE_CYCLE. -/
def execDispenseCycle (hearth : Nat) (s : State) : Out := eventOf (decide (hearth < 4)) (s.dispenseCycle hearth) s

/-! ## The Opal token (08 R188) -/

/-- A hart that the token passes: it waits in TASK.TAKE, has halted, or is parked in a pair (14 R330, R347). -/
def State.opalWaits (s : State) (core : Nat) : Bool :=
  let h := s.hartAt core
  h.taking || h.place == .halted || (tget? s.m.parkedPair core).isSome

/-- No queue holds a record of a gang. -/
def State.noRecords (s : State) (gang : Nat) : Bool :=
  s.m.ctxs.all fun c => c.2.queues.all fun q => (q.2.l1 ++ q.2.ring).all (·.gang != gang)

/-- The task graph of a gang is terminated: every TASK.TAKE that waits returns so. -/
def State.terminate (s : State) (gang : Nat) (g : Gang) : State :=
  g.cores.foldl (fun s c => s.modHart c fun h => if h.taking then { h with sync := { h.sync with given := some .terminated } } else h)
    (s.modGang gang fun g => { g with terminated := true })

/-- OPAL_TOKEN_PASS (08 R188): the token passes from a hart that waits to the next, and at LCORE 0 a round ends. -/
def State.opalPass (s : State) (gang : Nat) : Option State :=
  match s.gang? gang with
  | none => none
  | some g =>
    let c := g.cores.getD g.opalAt 0
    if g.mset || g.terminated || g.cores.isEmpty || g.st != .running || !(s.opalWaits c) then none
    else
      let blk := match tget? s.m.parkedPair c with | some h => h.sync.blk | none => (s.hartAt c).sync.blk
      let black := g.opalBlack || blk
      let s := s.modMember gang g.opalAt fun h => { h with sync := { h.sync with blk := false } }
      if g.opalAt + 1 < g.cores.length then some (s.modGang gang fun g => { g with opalAt := g.opalAt + 1, opalBlack := black })
      else
        let s := s.modGang gang fun g => { g with opalAt := 0, opalBlack := false }
        some (if !black && g.cores.all s.opalWaits && s.noRecords gang then s.terminate gang g else s)

/-- OPAL_TOKEN_PASS. -/
def execOpalTokenPass (gang : Nat) (s : State) : Out := eventOf (decide (gang < 4096)) (s.opalPass gang) s

/-- BUDGET_EXHAUSTED (08 R187): the cycles left pass while the hart waits at an interlock, and the cause becomes pending. Where
instructions retire instead, `Hart.spend` counts BUDGET down. -/
def State.budgetExhausted (s : State) (n : Nat) : Option State :=
  let h := s.hartAt n
  let k := h.sync.budget
  if h.place == .placed && h.waiting && !h.safeWait && h.sync.slice.isSome && h.lvl != .f && k != 0 then
    some (s.idleFor n k)
  else none

/-- BUDGET_EXHAUSTED. -/
def execBudgetExhausted (n : Nat) (s : State) : Out := eventOf (hartExists n) (s.budgetExhausted n) s

end Sys2Proof.Machine
end

