-- ==== Sys2Proof/Machine/Gang.lean ====
section
/-! DEFINITION. Launching, placing and waking gangs (08 R170 to R178; 14 R331; 15 R356 to R360, R363). -/

namespace Sys2Proof.Machine

/-! ## Launch records (08 R171, R172) -/

/-- The fields of a launch record. -/
structure LRec where
  ctx : Nat
  prio : Nat
  mset : Bool
  dclass : Nat
  trays : Nat
  shape : Nat
  obj : Nat
  entry : Nat
  argSrc : Nat
  argLen : Nat
  argOff : Nat
  clean : Bool

/-- A launch record as its 64 bytes say; `clean` that its reserved bits are zero. -/
def LRec.of (r : BitVec 512) : LRec :=
  let v := r.toNat
  let shape := bits v 63 32
  { ctx := bits v 3 0, prio := bits v 10 8, mset := bit v 11 == 1, dclass := bits v 15 12, trays := bits v 31 16, shape := shape
    obj := bits v 95 64, entry := bits v 127 96, argSrc := bits v 191 128, argLen := bits v 223 192, argOff := bits v 249 224
    clean := bits v 7 4 == 0 && bits shape 7 5 == 0 && bits shape 15 13 == 0 && bits shape 31 21 == 0 && bits v 255 250 == 0
      && bits v 511 256 == 0 }

/-- LOG of level k, 0 to 2. -/
def LRec.log (l : LRec) (k : Nat) : Nat := bits l.shape (8 * k + 3) (8 * k)
/-- V of level k. -/
def LRec.valid (l : LRec) (k : Nat) : Bool := bit l.shape (8 * k + 4) == 1
/-- The harts of the gang. -/
def LRec.size (l : LRec) : Nat := if l.mset then 64 else 8 * l.trays

/-- A little-endian field of a code object's bytes. -/
def codeField (i : CodeImage) (off n : Nat) : Nat := joinBytes ((i.bytes.drop off).take n)
/-- Line k of its text. -/
def textLine (i : CodeImage) (k : Nat) : Nat := codeField i (codeField i 0x08 4 + 64 * k) 64

/-- A byte offset in a code object's text is the address of a head. -/
def CodeObj.headAt (o : CodeObj) (entry : Nat) : Bool :=
  decide (entry / 64 < o.lines) && pcNamesHead entry (lineHC (textLine o.img (entry / 64)))

/-- A valid level has LOG above 9, or a smaller LOG than a valid level inside it. -/
def LRec.shapeBad (l : LRec) : Bool :=
  (List.range 3).any fun k => l.valid k && (decide (9 < l.log k) || (List.range k).any fun j => l.valid j && decide (l.log k < l.log j))

/-- The argument range of a record is granted with RD and WR on a Hearth. -/
def State.argGranted (s : State) (ctx hearth off len : Nat) : Bool :=
  (regionSpan (s.ctx ctx) hearth off len { rd := true, wr := true, eng := false }).isNone

/-- The queue of a context and a priority. -/
def queueKey (ctx prio : Nat) : Nat := 8 * ctx + prio

/-- The Distributor's check of a launch record: the lowest code that applies (14 R331; 08 R172). `launcher` is the launching context
of a hart below level F. -/
def State.checkLaunch (s : State) (l : LRec) (launcher : Option Nat) : Option Nat :=
  let objOk := match (s.ctx l.ctx).objs.find? (·.handle == l.obj) with
    | some o => o.headAt l.entry
    | none => false
  if !l.clean then some 1
  else if if l.mset then 4 ≤ l.trays else l.trays < 1 ∨ 512 < l.trays then some 2
  else if !objOk then some 3
  else if l.argLen % 16 ≠ 0 ∨ l.argOff % 16 ≠ 0 ∨ 0x10000 < l.argLen then some 4
  else if l.shapeBad then some 5
  else if !((List.range 4).any fun h => s.argGranted l.ctx h l.argOff l.argLen) then some 6
  else if launcher.any (· != l.ctx) then some 7
  else if 64 ≤ (tget [] s.m.dist.queues (queueKey l.ctx l.prio)).length then some 8
  else none

/-- A launch enters its queue (15 R356); an arrival during RESERVE is noted (R359). -/
def State.submit (s : State) (l : Launch) : State :=
  let r := LRec.of l.lrec
  s.onMod fun m => { m with dist := { m.dist with
    queues := tmod [] m.dist.queues (queueKey r.ctx r.prio) (· ++ [l])
    txn := { m.dist.txn with arrive := if m.dist.txn.st = .reserve then max m.dist.txn.arrive (r.prio + 1) else m.dist.txn.arrive } } }

/-- A launch is checked and enters its queue (14 R331), after the release half (04 R105): the code it answers. -/
def State.doLaunch (r : BitVec 512) (launcher : Option Nat) (s : State) : R (State × Nat) := do
  guardWait (s.hart.fenced 3) false s
  match s.checkLaunch (LRec.of r) launcher with
  | some code => .ok (s, code)
  | none => .ok (s.submit { lrec := r, ctx := s.hart.ctx, parent := some s.hart.gang, host := false }, 0)

/-- R331: LAUNCH. -/
def execLaunch (n : Fin 4) (a b : CReg) (s : State) : Out :=
  complete do
    s.readyC [b]
    guardWait (s.hart.pair.on || s.hart.fenced 3) false s
    let c := s.rc b
    let (s, v, _, ev) ← s.readCap c b.val c.addr 64 64
    let r := BitVec.ofNat 512 v
    let launcher := if s.hart.lvl = .f then none else some s.hart.ctx
    let (s, code) ← s.orHoldFor (.launch r launcher) c.addr (splitBytes 64 v) (State.doLaunch r launcher)
    .ok (((s.setX a (w64 code)).retire { s := n, maj := 0x3C, ev := ev }).pairOnce)

/-! ## Where a gang may go (15 R357, R358) -/

/-- Insert into an ordered list, after the elements that do not come later. -/
def insertBy {α : Type} (before : α → α → Bool) (x : α) : List α → List α
  | [] => [x]
  | y :: r => if before x y then x :: y :: r else y :: insertBy before x r

/-- Order a list, equal elements keeping their order. -/
def orderBy {α : Type} (before : α → α → Bool) (l : List α) : List α := l.foldl (fun r x => insertBy before x r) []

/-- A core holds a hart. -/
def State.coreBusy (s : State) (core : Nat) : Bool := (s.hartAt core).place != .idle

/-- A pending migration targets a core. -/
def State.migrates (s : State) (core : Nat) : Bool := s.cores.any fun c => (s.hartAt c).migrateTo == some core

/-- A Tray, or a die's Millers, are held for a candidate of a higher PRIO. -/
def State.heldAgainst (s : State) (key prio : Nat) : Bool := match tget? s.m.dist.held key with | some q => decide (prio < q / 2 % 8) | none => false

/-- What is left to do of an operation, for its Tray to be free (15 R365): a copy has reached a final state or is frozen, a write stream
has landed what was appended. -/
def EngOp.ended (o : EngOp) : Bool :=
  if o.stream then !o.write || o.frozen || (o.strips.isEmpty && o.staged.isEmpty) else o.dels.all fun d => d.final || d.frozen

/-- The engines of a Tray hold unfinished work of a gang that is stopping (15 R357, R365). -/
def State.stopWork (s : State) (t : Nat) : Bool :=
  let going (n : Nat) : Bool := match s.gang? n with | some g => g.st == .stopping || g.st == .draining | none => false
  (s.m.ops.any fun o => o.1 / 32 == t && going o.2.cmd.gang && !o.2.ended) ||
    s.cores.any fun c => going (s.hartAt c).gang && (s.hartAt c).mx.queue.any fun x => x.parts.any fun p => trayOf p.core == t && !p.done

/-- Trays free for placement at a PRIO (15 R357); reserved ones are not, but for those `kept`. -/
def State.freeTrays (s : State) (prio : Nat) (kept : List Nat) : List Nat :=
  (List.range 512).filter fun t =>
    !(s.tray t).wd && !s.heldAgainst t prio && !s.stopWork t && (kept.contains t || !s.m.dist.txn.reserved.contains t)
      && (List.range 8).all fun i => !s.coreBusy (8 * t + i) && !s.migrates (8 * t + i)

/-- The free Trays of a Hearth in the order of R358: by quadrant, the one with the most free Trays first. -/
def listTrays (free : List Nat) (h : Nat) : List Nat :=
  let mine := free.filter (· / 128 == h)
  let q (i : Nat) : List Nat := mine.filter fun t => t % 128 / 32 == i
  (orderBy (fun x y => decide ((q y).length < (q x).length)) (List.range 4)).flatMap q

/-- The plan of a compute gang of t Trays over free Trays (15 R358). -/
def planTrays (free : List Nat) (t : Nat) : Option (List Nat) :=
  let n (h : Nat) : Nat := (free.filter (· / 128 == h)).length
  match orderBy (fun x y => decide (n x < n y)) ((List.range 4).filter fun h => decide (t ≤ n h)) with
  | h :: _ => some ((listTrays free h).take t)
  | [] =>
    if t ≤ free.length then some (((orderBy (fun x y => decide (n y < n x)) (List.range 4)).flatMap (listTrays free)).take t)
    else none

/-- The plan of a restored gang: logical Tray k on the Hearth it occupied when saved. -/
def planRestore (free hearths : List Nat) : Option (List Nat) :=
  let pick (e : Nat × Nat) : Option Nat := (listTrays free e.1)[((hearths.take e.2).filter (· == e.1)).length]?
  let l := hearths.zipIdx.filterMap pick
  if l.length = hearths.length then some l else none

/-- The cores of a plan in order of LCORE (08 R174). -/
def coresOf (mset : Bool) (plan : List Nat) : List Nat :=
  if mset then (List.range 64).map (4096 + 64 * plan.headD 0 + ·) else plan.flatMap fun t => (List.range 8).map (8 * t + ·)

/-- The valid levels of a record with their LOG, level 3 spanning the gang (08 R176). -/
def LRec.levels (l : LRec) : List (Nat × Nat) :=
  ((List.range 3).filter l.valid).map (fun k => (k, l.log k)) ++ [(3, topLog l.size)]

/-- Reserve the barriers of every level (08 R178): the DOMAIN registers by level and domain. -/
def Mod.reserveAll (m : Mod) (cores : List Nat) (levels : List (Nat × Nat)) : Option (Mod × Tbl (List (BitVec 43))) :=
  levels.foldl (fun a e => match a with
    | none => none
    | some (m, t) => (m.reserve cores e.2).map fun r => (r.1, tset t e.1 r.2)) (some (m, []))

/-- The barriers that a saved gang needs are free (15 R358). -/
def State.barsFree (s : State) (g : Gang) : Bool := g.savedBars.all fun b => (tget? s.m.bars b.1).isNone

/-- No rollback gang of a context is placed (16 R388). -/
def State.rollFree (s : State) (ctx : Nat) : Bool :=
  s.m.gangs.all fun g => g.2.ctx != ctx || g.2.roll.isNone || g.2.st == .saved || g.2.st == .poisoned || g.2.st == .rollRestoring

/-- EN of ROLLCFG. -/
def Ctx.rollOn (c : Ctx) : Bool := c.rollcfg.getLsbD 0

/-- A die's Millers are free. -/
def State.dieFree (s : State) (prio d : Nat) : Bool :=
  !s.heldAgainst (1024 + d) prio && (List.range 64).all fun i => !s.coreBusy (4096 + 64 * d + i)

/-- The plan of a candidate at a PRIO, with the barriers it needs (15 R358). -/
def State.planFor (s : State) (prio : Nat) (c : Cand) (kept : List Nat) : Option (List Nat) :=
  match c with
  | .launch l =>
    let r := LRec.of l.lrec
    let plan := if r.mset then (if s.dieFree prio r.trays then some [r.trays] else none) else planTrays (s.freeTrays prio kept) r.trays
    plan.bind fun p =>
      if !r.mset && (s.ctx r.ctx).rollOn && !s.rollFree r.ctx then none
      else (s.m.reserveAll (coresOf r.mset p) r.levels).map fun _ => p
  | .restore n =>
    match s.gang? n with
    | none => none
    | some g =>
      if !s.barsFree g || (!g.mset && (s.ctx g.ctx).rollOn && !s.rollFree g.ctx) then none
      else if g.mset then (let d := (LRec.of g.lrec).trays; if s.dieFree prio d then some [d] else none)
      else planRestore (s.freeTrays prio kept) g.hearths

/-! ## Selecting a candidate (15 R356, R363) -/

/-- DCLASS of a candidate. -/
def State.dclassOf (s : State) (c : Cand) : Nat :=
  match c with
  | .launch l => (LRec.of l.lrec).dclass
  | .restore n => ((s.gang? n).map fun g => (LRec.of g.lrec).dclass).getD 0

/-- The heads of a PRIO in the order of R356: restore lists first, then the smallest DCLASS, then the first context after the one
served last. -/
def State.heads (s : State) (prio : Nat) : List Cand :=
  let last := tget 15 s.m.dist.served prio
  let ctxs := (List.range 16).map fun i => (last + 1 + i) % 16
  let rs := ctxs.filterMap fun c => ((tget [] s.m.dist.restores (queueKey c prio)).head?).map Cand.restore
  let ls := ctxs.filterMap fun c => ((tget [] s.m.dist.queues (queueKey c prio)).head?).map Cand.launch
  let before (x y : Cand) : Bool := decide (s.dclassOf x < s.dclassOf y)
  orderBy before rs ++ orderBy before ls

/-- Every head with its PRIO, the highest first. -/
def State.allHeads (s : State) : List (Nat × Cand) := (List.range 8).reverse.flatMap fun p => (s.heads p).map fun c => (p, c)

/-- Units of 64 KiB that the image of a gang takes (15 R366). -/
def imageUnits (mset : Bool) (trays : Nat) : Nat := if mset then 129 else 1 + ceilDiv (1032 * trays) 64

/-- First-fit in a context's save area (15 R360). -/
def Ctx.imageSlot (c : Ctx) (units : Nat) : Option Nat :=
  (List.range (c.saveUnits + 1 - units)).find? fun i =>
    decide (i + units ≤ c.saveUnits) && c.images.all fun x => decide (x.first + x.units ≤ i) || decide (i + units ≤ x.first)

/-- What a gang occupies: its Trays, or its die. -/
def Gang.places (g : Gang) : List Nat :=
  if g.mset then [1024 + dieOf (g.cores.headD 4096)] else g.cores.foldl (fun l c => if c < 4096 then sadd l (trayOf c) else l) []

/-- The number of the queue or the restore list at whose head a candidate stands. -/
def State.candKey (s : State) (prio : Nat) (c : Cand) : Nat :=
  match c with
  | .launch l => 2 * queueKey (LRec.of l.lrec).ctx prio
  | .restore n => 2 * queueKey (((s.gang? n).map (·.ctx)).getD 0) prio + 1

/-- Trays, or a die, are held for a candidate, unless for one of higher PRIO already (15 R363). -/
def State.holdFor (s : State) (who : Nat) (keys : List Nat) : State :=
  s.onMod fun m => { m with dist := { m.dist with
    held := keys.foldl (fun t k => if (tget? t k).any fun q => decide (who / 2 % 8 < q / 2 % 8) then t else tset t k who) m.dist.held } }

/-- What a plan of a candidate would occupy. -/
def State.planKeys (s : State) (c : Cand) (plan : List Nat) : List Nat :=
  let mset : Bool := match c with
    | .launch l => (LRec.of l.lrec).mset
    | .restore n => ((s.gang? n).map (·.mset)).getD false
  if mset then plan.map (1024 + ·) else plan

/-- A stop request (15 R361): space for the image is allocated, pending migrations are discarded, and what the gang occupies is held
for the candidate, unless for one of higher PRIO already. None where the image does not fit. -/
def State.requestStop (s : State) (who gang : Nat) : Option State :=
  match s.gang? gang with
  | none => none
  | some g =>
    let units := imageUnits g.mset ((LRec.of g.lrec).trays)
    if (s.ctx g.ctx).saveUnits = 0 then none
    else
      match (s.ctx g.ctx).imageSlot units with
      | none => none
      | some i =>
        let s := s.modCtx g.ctx fun c => { c with images := c.images ++ [{ gang := gang, first := i, units := units }] }
        let s := g.cores.foldl (fun s c => s.modHart c fun h => { h with migrateTo := none, moving := false, pausing := false }) s
        some ((s.modGang gang fun g => { g with st := .stopping, stopAt := s.nowNs, image := some i }).holdFor who g.places)

/-- Running gangs of a PRIO below p, in the order in which they become victims (15 R363). -/
def State.victims (s : State) (p : Nat) : List Nat :=
  let l := s.m.gangs.filter fun g => g.2.st == .running && decide (g.2.prio < p)
  (orderBy (fun (x y : Nat × Gang) => decide (x.2.prio < y.2.prio) || (x.2.prio == y.2.prio && decide (y.2.placedAt < x.2.placedAt))) l).map (·.1)

/-- The state as if gangs were gone. -/
def State.without (s : State) (l : List Nat) : State :=
  l.foldl (fun s n => match s.gang? n with
    | some g => (s.gangVacate g).onMod fun m => { m with gangs := tdel m.gangs n }
    | none => s) s

/-- Stop victims until the candidate would have a plan: `hyp` is the state without the gangs that stop, `real` the one with the
requests made. What that plan counts on is held for the candidate, free Trays and those of gangs already stopping with the victims'. -/
def stopVictims (p : Nat) (c : Cand) : List Nat → State → State → Option State
  | [], _, _ => none
  | v :: r, hyp, real =>
    match real.requestStop (real.candKey p c) v with
    | none => stopVictims p c r hyp real
    | some real =>
      let hyp := hyp.without [v]
      match hyp.planFor p c [] with
      | some plan => some (real.holdFor (real.candKey p c) (real.planKeys c plan))
      | none => stopVictims p c r hyp real

/-- Preemption for a candidate without a plan (15 R363). Where gangs already stopping will do, it stops none and holds what the plan
counts on; where it does not help, nothing is held for the candidate. None where that changes nothing. -/
def State.preempt (s : State) (p : Nat) (c : Cand) : Option State :=
  let going := (s.m.gangs.filter fun g => g.2.st == .stopping || g.2.st == .draining).map (·.1)
  let hyp := s.without going
  let who := s.candKey p c
  let changed (t : State) : Option State := if t.m.dist.held == s.m.dist.held then none else some t
  match hyp.planFor p c [] with
  | some plan => changed (s.holdFor who (s.planKeys c plan))
  | none => (stopVictims p c (s.victims p) hyp s).or (changed (s.onMod fun m => { m with dist := { m.dist with held := m.dist.held.filter (·.2 != who) } }))

/-- Change the placement transaction. -/
def State.modTxn (s : State) (f : Txn → Txn) : State := s.onMod fun m => { m with dist := { m.dist with txn := f m.dist.txn } }

/-- PLACEMENT_SELECT (15 R359): in IDLE the first head that can be placed becomes the candidate, or one that preemption helps stops
its victims; in SELECT the plan is fixed, or there is none and every reservation is released. -/
def State.placementSelect (s : State) : Option State :=
  let x := s.m.dist.txn
  match x.st, x.cand with
  | .idle, _ =>
    s.allHeads.findSome? fun e =>
      if (s.planFor e.1 e.2 []).isSome then some (s.modTxn fun _ => { st := .select, cand := some e.2, prio := e.1 })
      else s.preempt e.1 e.2
  | .select, some c =>
    match s.planFor x.prio c x.reserved with
    | some p => some (s.modTxn fun t => { t with st := .reserve, plan := p, reserved := t.reserved.filter p.contains, arrive := 0 })
    | none => some (s.modTxn fun _ => {})
  | _, _ => none

/-- PLACEMENT_SELECT. -/
def execPlacementSelect (s : State) : Out := eventOf true s.placementSelect s

/-- TRAY_RESERVE (15 R359): one Tray of the plan, or the Millers of a die at once; after the last, COMMIT. -/
def State.trayReserve (s : State) : Option State :=
  let x := s.m.dist.txn
  if x.st != .reserve || x.superseded then none
  else
    let got := match x.plan.find? fun t => !x.reserved.contains t with
      | some t => x.reserved ++ [t]
      | none => x.reserved
    some (s.modTxn fun t => { t with reserved := got, st := if t.plan.all got.contains then .commit else .reserve })

/-- TRAY_RESERVE. -/
def execTrayReserve (s : State) : Out := eventOf true s.trayReserve s

/-- RESERVATION_RELEASE (15 R359): the candidate stays at the head of its queue. -/
def State.reservationRelease (s : State) : Option State :=
  if s.m.dist.txn.st == .reserve && s.m.dist.txn.superseded then some (s.modTxn fun _ => {}) else none

/-- RESERVATION_RELEASE. -/
def execReservationRelease (s : State) : Out := eventOf true s.reservationRelease s

/-! ## COMMIT and WAKE for a launch (08 R173 to R178; 14 R331) -/

/-- The identity registers of the hart of a logical number (08 R175, R177). -/
def identOf (l : LRec) (gang dev lcore core : Nat) (span : Bool) (doms : Tbl (List (BitVec 43))) : Ident where
  lcore := BitVec.ofNat 13 lcore
  gangsz := BitVec.ofNat 28 (l.size + 0x2000 * b2n span + 0x4000 * b2n l.mset + 0x10000 * gang)
  devcore := BitVec.ofNat 23 ((if l.mset then 4096 + lcore else lcore) + 0x2000 * dev)
  physcore := BitVec.ofNat 13 core
  dom := Vector.ofFn fun k =>
    let log := if k.val = 3 then topLog l.size else l.log k.val
    match tget? doms k.val with
    | some ds => ds.getD (lcore / (8 * 2 ^ log)) 0
    | none => mkDom 0 log false false false 0 0

/-- The Tray barriers of a gang (14 R321). -/
def trayBarsOf (l : LRec) : Tbl Barrier :=
  if l.mset then [] else (List.range l.trays).map fun t => (t, { members := (List.range 8).map (8 * t + ·) })

/-- The hart of a gang as the wake flood starts it (08 R173); control registers that R173 does not name stay (log 34). -/
def Hart.begin (h : Hart) (c : Ctx) (ctx gang : Nat) (pc : Word) (args : Cap) (id : Ident) (now : Nat) : Hart :=
  { h.vacated with
    pc := pc, hc := 0, fetchReg := 0, lines := [], utlb := []
    c := ((Vector.replicate 16 ({} : Cap)).set 3 c.wakeC3).set 4 args
    v := Vector.replicate 32 0
    lvl := .u
    ctl := { h.ctl with round := c.wakeRound, flush := c.wakeFlush, arstat := 0 }
    id := id, rep := { h.rep with phase := 0, pages := [] }, sb := [], posted := [], ext := false, poison := [], cpq := []
    place := .stopped, gang := gang, ctx := ctx, clock := max h.clock now }

/-- A candidate leaves its queue, what is held for it is free, and its context is the one served last. -/
def State.dequeue (s : State) (c : Cand) (prio ctx : Nat) : State :=
  s.onMod fun m => { m with dist := { m.dist with
    queues := match c with | .launch _ => tmod [] m.dist.queues (queueKey ctx prio) (·.drop 1) | .restore _ => m.dist.queues
    restores := match c with | .launch _ => m.dist.restores | .restore _ => tmod [] m.dist.restores (queueKey ctx prio) (·.drop 1)
    served := tset m.dist.served prio ctx
    held := m.dist.held.filter fun e => e.2 != s.candKey prio c } }

/-- A launch that COMMIT cancels: no hart is woken, and the kernel of the launching context learns why (14 R331), for a CCP launch the
host too (16 R378). -/
def State.cancelLaunch (s : State) (l : Launch) (reason : Nat) (va : Word) (hearth : Nat) : State :=
  let r := LRec.of l.lrec
  let a : Async := { cause := 0x20, val := va, info := einfo 6 false 0 reason 0 0 + w64 (hearth * 0x10000000000) }
  let s := (s.dequeue (.launch l) r.prio r.ctx).modTxn fun _ => {}
  let s := s.report l.ctx (l.parent.getD 4096) 4352 a
  if l.host then s.hostEvent l.ctx [a.cause, a.val.toNat, a.info.toNat] else s

/-- COMMIT of a launch (15 R359): the argument bytes are read in the launching context and copied to the Hearth of LCORE 0, barriers,
placement map, GANG number and identity registers are written. Where the plan's barriers have been taken since it was fixed, the candidate
has no plan any more (log 72). -/
def State.commitLaunch (s : State) (l : Launch) (plan : List Nat) : Option State :=
  let r := LRec.of l.lrec
  let cores := coresOf r.mset plan
  let h0 := dieOf (cores.headD 0)
  let from0 := (l.parent.bind s.gang?).bind fun g => g.cores.head?
  if !s.argGranted r.ctx h0 r.argOff r.argLen then some (s.cancelLaunch l 7 (w64 r.argOff) h0)
  else
    match s.engRead { core := from0.getD (cores.headD 0), near := 0, ctx := l.ctx, user := false } (w64 r.argSrc) r.argLen with
    | .wait t o => s.engWaits t o
    | .fault s f => some (s.cancelLaunch l 0 f.va 0)
    | .ok (s, bytes) =>
      match s.m.reserveAll cores r.levels, tfree s.m.gangs 4096 with
      | some (m, doms), some n =>
        let s := { s with m := m }
        let s := s.writeCells ((keysFrom (l1Key h0 r.argOff) r.argLen).zip bytes)
        let c := s.ctx r.ctx
        let text := ((c.objs.find? (·.handle == r.obj)).map (·.textVa)).getD 0
        let base := (apertureVa h0 r.argOff).toNat
        let args := boundCap base r.argLen 3 (w64 base)
        let span := cores.any fun c => dieOf c != h0
        let s := cores.zipIdx.foldl (fun s e =>
          s.modHart e.1 fun h => h.begin c r.ctx n (text + w64 r.entry) args (identOf r n s.m.dist.dev e.2 e.1 span doms) s.m.now) s
        let g : Gang := {
          ctx := r.ctx, lrec := l.lrec, mset := r.mset, prio := r.prio, size := r.size, handle := r.obj, cores := cores
          trayBars := trayBarsOf r, roll := if c.rollOn && !r.mset then some { cfg := c.rollcfg } else none }
        let s := s.onMod fun m => { m with gangs := tset m.gangs n g, dist := { m.dist with everPlaced := true } }
        some ((s.dequeue (.launch l) r.prio r.ctx).modTxn fun t => { t with st := .wake, gang := n })
      | _, _ => some (s.modTxn fun _ => {})

/-- The reports that a context's queue holds go to the running hart of lowest LCORE when a gang of it is placed (16 R378). -/
def State.deliverReports (s : State) (ctx gang : Nat) : State :=
  let l := (s.ctx ctx).reports
  match (s.running gang).head? with
  | some core => if l.isEmpty then s else (s.modHart core fun h => { h with asy := h.asy ++ l }).modCtx ctx fun c => { c with reports := [] }
  | none => s

end Sys2Proof.Machine
end

