-- ==== Sys2Proof/Machine/Save.lean ====
section
/-! DEFINITION. Stopping, saving, restoring, moving and rolling back gangs (04 R107; 14 R342, R343; 15 R359 to R371; 16 R389 to
R392). -/

namespace Sys2Proof.Machine

/-! ## Safe points (14 R342, R343; 15 R362) -/

/-- The code object whose text holds an address. -/
def Ctx.objAt (c : Ctx) (pc : Word) : Option CodeObj :=
  c.objs.find? fun o => o.textVa ≤ pc && decide (pc.toNat < o.textVa.toNat + 64 * o.lines)

/-- Entry i of a code object's map table; none where every register is live (14 R342). -/
def CodeObj.live (o : CodeObj) (i : Nat) : Option Nat := o.maps[i]?.bind fun e => if e / 2 ^ 48 = 0 then some e else none

/-- The live map of a waiting instruction (14 R343). -/
def CodeObj.waitLive (o : CodeObj) (pc : Word) : Option Nat :=
  (o.waits.find? fun w => w % 2 ^ 32 == pc.toNat - o.textVa.toNat).bind fun w => o.live (w / 2 ^ 32 % 2 ^ 16)

/-- Registers that a live map omits are untagged zeros. -/
def Hart.keepLive (h : Hart) (live : Option Nat) : Hart :=
  match live with
  | none => h
  | some e => { h with
      c := Vector.ofFn fun k => if bit e k.val = 1 then h.c[k] else {}
      v := Vector.ofFn fun k => if bit e (16 + k.val) = 1 then h.v[k] else 0 }

/-- The hart stands at a safe point where it may stop: an explicit one, or a wait at an implicit one; not in a delay slot, and not
with a record or an outcome already given. -/
def Hart.stoppable (h : Hart) : Bool :=
  h.place == .placed && h.slot.isNone && (h.atSafept.isSome || (h.waiting && h.safeWait)) && h.sync.given.isNone

/-- A hart as it stands once stopped at its safe point: what it waited at begins anew. -/
def Hart.atRest (h : Hart) : Hart :=
  { h.settled with
    pend := [], wfi := false, atSafept := none, early := [], earlyTags := [], moving := false, pausing := false
    sync := { h.sync with takeAt := none }, pair := { h.pair with waiting := false, count := 0, due := false } }

/-- A hart stops at its safe point: pending results complete, the live map is applied; a SAFEPT retires, and the hart goes on behind it. -/
def State.stopAt (s : State) (n : Nat) : State :=
  let h := s.hartAt n
  let o := (s.ctx h.ctx).objAt h.pc
  let live := match h.atSafept with
    | some m => o.bind (·.live m.1)
    | none => o.bind (·.waitLive h.pc)
  let t := match h.atSafept with
    | some m => ((s.switchTo n).retire { s := m.2, maj := 0x3D }).switchTo s.cur
    | none => s
  t.modHart n fun h => h.atRest.keepLive live

/-- What must be done before a hart is saved or moved (04 R107, 13 R309, 16 R393): its window flushes, its interval ends; none when
nothing is left to do but to wait or to go on. -/
def State.preSave (s : State) (n : Nat) : Option State :=
  let h := s.hartAt n
  if h.mx.queue.any (·.stage == .eligible) then some (s.flushWindow n)
  else if h.pair.on && h.pair.begun && !h.pair.due && !h.pair.flushing then some (s.modHart n fun h => { h with pair := { h.pair with due := true } })
  else none

/-- The hart has drained (04 R107). -/
def Hart.drained (h : Hart) : Bool := h.fenced 3 && !(h.pair.on && h.pair.begun)

/-- HART_STOP (15 R362): a hart of a stopping gang stops at a safe point. -/
def State.hartStop (s : State) (n : Nat) : Option State :=
  let h := s.hartAt n
  if ((s.gang? h.gang).map (·.st)) != some .stopping || !h.stoppable then none
  else
    match s.preSave n with
    | some s => some s
    | none => if h.drained then some ((s.stopAt n).modHart n fun h => { h with place := .stopped }) else none

/-- HART_STOP. -/
def execHartStop (n : Nat) (s : State) : Out := eventOf (hartExists n) (s.hartStop n) s

/-- A hart abandons the instruction it waits at, without effect (15 R364). -/
def Hart.abandon (h : Hart) : Hart :=
  { h.settled with
    pend := [], wfi := false, atSafept := none, early := [], earlyTags := [], checking := none, moving := false, pausing := false
    sync := { h.sync with takeAt := none, sendAt := none, domset := none }
    pair := { h.pair with waiting := false } }

/-- A hart stands within an instruction that has performed a part of its access, or holds what was given to it: that completes first
(15 R364). -/
def Hart.midway (h : Hart) : Bool :=
  h.entering.isSome || h.checking.isSome || h.sync.given.isSome || h.sync.domres.isSome || h.pair.result.isSome || h.pair.got.isSome || h.pair.off

/-- FORCED_STOP (15 R362, R364): a hart that has reached no safe point 100,000 ns after the request stops at the next boundary, even
between a branch and its slot; every register is saved, and the hart and its gang are marked FORCED. -/
def State.forcedStop (s : State) (n : Nat) : Option State :=
  let h := s.hartAt n
  match s.gang? h.gang with
  | none => none
  | some g =>
    if g.st != .stopping || h.place != .placed || s.nowNs < g.stopAt + 100000 || h.stoppable || h.midway then none
    else
      match s.preSave n with
      | some s => some s
      | none =>
        if h.drained then some ((s.setHartAt n { h.abandon with place := .stopped, forced := true }).modGang h.gang fun g => { g with forced := true })
        else none

/-- FORCED_STOP. -/
def execForcedStop (n : Nat) (s : State) : Out := eventOf (hartExists n) (s.forcedStop n) s

/-! ## The save image (15 R365, R366) -/

/-- The near window of a saved hart: its bytes and its tagged granules. -/
abbrev NearBytes := List Nat × List Nat

/-- The bytes of a saved gang's image; `near` are the near windows by LCORE. -/
def Gang.imageBytes (g : Gang) (near : Tbl NearBytes) : List Byte :=
  let at0 (base : Nat) : Nat → Byte := fun i => Config.freeImageByte g.savedTick (base + i)
  let trays := if g.mset then 0 else g.hearths.length
  g.header g.saved g.hearths g.savedAt (at0 0) ++ (List.range trays).flatMap (fun k => trayRecord (at0 (0x10000 + 0x2000 * k)))
    ++ (List.range g.size).flatMap fun l => (tget {} g.saved l : Hart).record g.mset (tget? near l) (at0 (0x10000 + 0x2000 * trays + 0x20000 * l))

/-- The physical address of a gang's image. -/
def State.imagePa (s : State) (g : Gang) : Nat := (s.ctx g.ctx).saveBase + 0x10000 * g.image.getD 0

/-- Write bytes from a physical address, page piece by page piece. -/
def State.putPa (s : State) (pa : Nat) (b : List Byte) : State :=
  (List.range (ceilDiv b.length 4096)).foldl (fun s i =>
    let piece := (b.drop (4096 * i)).take 4096
    s.engWrite (keysFrom (paKey s.m (pa + 4096 * i)) piece.length) piece false) s

/-- The physical address of the record of LCORE l in an image. -/
def State.recordPa (s : State) (g : Gang) (l : Nat) : Nat :=
  s.imagePa g + 0x10000 + 0x2000 * (if g.mset then 0 else g.hearths.length) + 0x20000 * l

/-- An image reads without an uncorrectable error, and the CRC-32C of each record matches its bytes (15 R366, R367). -/
def State.imageOk (s : State) (g : Gang) : Bool :=
  let pa := s.imagePa g
  let trays := if g.mset then 0 else g.hearths.length
  let total := 0x10000 + 0x2000 * trays + 0x20000 * g.size
  (s.m.poisonS.isEmpty || (List.range (total / 64)).all fun i => let k := paKey s.m (pa + 64 * i); !(isHbm k && s.poisoned k)) &&
    crcGood (s.paBytes pa 0x10000) && (List.range trays).all (fun k => crcGood (s.paBytes (pa + 0x10000 + 0x2000 * k) 0x2000)) &&
      (List.range g.size).all fun l => let r := s.paBytes (s.recordPa g l) 0x20000; r == withCrc r 0xFFC

/-- The locations of a near window in order. -/
def nearRuns (core slab : Nat) : List Nat := (List.range 128).map fun r => l1Key (dieOf core) (nearOff (trayOf core % 128) slab (512 * r))

/-- Give an operation another name: its place in the table, its entries' owner, its slots', and its issuing core. -/
def State.renameOp (s : State) (old new core : Nat) (paused : Bool) : State :=
  match tget? s.m.ops old with
  | none => s
  | some o =>
    let lock (e : Nat × LockE) : Nat × LockE := if e.2.owner = old then (e.1, { e.2 with owner := new }) else e
    let land (e : Nat × LandE) : Nat × LandE := if e.2.owner = old then (e.1, { e.2 with owner := new }) else e
    let slot (x : RSlot) : RSlot := if x.st = .filling ∧ x.op = old then { x with op := new } else x
    let ring (e : Nat × Ring) : Nat × Ring := (e.1, { e.2 with slots := e.2.slots.map slot })
    let handle (e : Nat × Handle) : Nat × Handle := (e.1, { e.2 with rings := e.2.rings.map ring })
    let hearth (e : Nat × Hearth) : Nat × Hearth := (e.1, { e.2 with locks := e.2.locks.map lock, lands := e.2.lands.map land, handles := e.2.handles.map handle })
    s.onMod fun m => { m with
      ops := tset (tdel m.ops old) new { o with cmd := { o.cmd with hart := core }, paused := paused }
      hearths := m.hearths.map hearth }

/-- A hart's stream bindings follow an operation's name. -/
def Hart.rebind (h : Hart) (old new : Nat) : Hart :=
  let f (e : Nat × StreamB) : Nat × StreamB := if e.2.opn = old then (e.1, { e.2 with opn := new }) else e
  { h with streams := h.streams.map f }

/-- Every hart of a gang has stopped or halted. -/
def State.allStopped (s : State) (g : Gang) : Bool :=
  g.cores.all fun c => let p := (s.hartAt c).place; p == .stopped || p == .halted || p == .frozen || p == .parked

/-- The operations that harts on Trays of a gang have issued, by key. -/
def State.gangOps (s : State) (n : Nat) (g : Gang) : List Nat :=
  (s.m.ops.filter fun o => o.2.cmd.gang == n && g.cores.contains o.2.cmd.hart).map (·.1)

/-- The Tray engines hold no unfinished work of a gang (15 R365), and nothing is under way to its harts. -/
def State.workDone (s : State) (n : Nat) (g : Gang) : Bool :=
  (g.cores.all fun c => (s.hartAt c).mx.queue.isEmpty && (s.hartAt c).cpq.isEmpty) &&
    ((s.gangOps n g).all fun k => match tget? s.m.ops k with
      | some o => (g.mset && !o.stream && o.between) || o.ended
      | none => true) &&
    s.m.wakes.all (fun w => !g.cores.contains w.hart) && s.m.sends.all fun w => !g.cores.contains w.hart

/-- The hart record of a core: of the parked state where it is the odd one of a pair. -/
def State.recordOf (s : State) (core : Nat) : Hart := (tget? s.m.parkedPair core).getD (s.hartAt core)

/-- A read stream goes back to its first strip not yet read (15 R365). -/
def EngOp.unread (o : EngOp) : EngOp := if o.stream && !o.write then { o with fetched := o.fetched - o.strips.length, strips := [] } else o

/-- GANG_SAVE (15 R361, R365, R366): a gang with every hart stopped drains; drained, its image is written and what it occupied is
free. -/
def State.gangSave (s : State) (n : Nat) : Option State :=
  match s.gang? n with
  | none => none
  | some g =>
    if g.st = .stopping ∧ s.allStopped g then
      some (if s.allHalted g then s.gangRetire n else s.modGang n fun g => { g with st := .draining })
    else if g.st != .draining || !s.workDone n g then none
    else
      let lc (core : Nat) : Nat := (s.hartAt core).lc
      let s := (s.gangOps n g).foldl (fun s k => s.modOp k EngOp.unread) s
      let records := g.cores.zipIdx.map fun e => (e.2, s.recordOf e.1)
      let near := if g.mset then [] else records.filter fun e => e.2.nearOn
      let runs (e : Nat × Hart) : List Nat := nearRuns e.2.id.physcore.toNat e.2.slab
      let windows : Tbl NearBytes := near.map fun e => (e.1,
        (runs e).flatMap (fun k => (keysFrom k 512).map fun i => (mget s.m.mem i).toNat),
        (runs e).zipIdx.flatMap fun r => (List.range 32).filterMap fun j => if s.m.tags.contains (r.1 / 16 + j) then some (32 * r.2 + j) else none)
      let bars := (s.gangBars g).filterMap fun b => (tget? s.m.bars b).map fun x => (b, x)
      let trays := if g.mset then [] else (List.range (g.size / 8)).map fun k => (k, s.tray (trayOf (g.cores.getD (8 * k) 0)))
      let hearths := if g.mset then [] else (List.range (g.size / 8)).map fun k => dieOf (g.cores.getD (8 * k) 0)
      let moved := (s.gangOps n g).foldl (fun (a : State × List (Nat × Hart) × List (Nat × Nat × Nat)) k =>
        match tget? a.1.m.ops k, (List.range 0x8000).find? fun i => (tget? a.1.m.ops (0x8000 + i)).isNone with
        | some o, some i =>
          let l := lc o.cmd.hart
          (a.1.renameOp k (0x8000 + i) o.cmd.hart true, a.2.1.map (fun e => if e.1 = l then (e.1, e.2.rebind k (0x8000 + i)) else e), a.2.2 ++ [(0x8000 + i, l, k % 32)])
        | _, _ => a) (s, records, [])
      let s := moved.1.unmark n
      let g' : Gang := { g with
        roll := g.roll.map fun r => { r with marks := [] }
        st := .saved, cores := [], hearths := hearths, saved := moved.2.1, savedTrays := trays
        savedBars := bars, savedOps := moved.2.2, savedAt := s.nowNs, savedTick := s.tick }
      let clear (c : Nat) (s : State) : State := s.modHart c fun h => { h with streams := [] }
      let s := (g.cores.foldl (fun s c => clear c s) s).gangVacate { g with cores := g.cores }
      let s := (bars.foldl (fun s b => s.onMod fun m => { m with bars := tdel m.bars b.1 }) s)
      let s := { s with tick := s.tick + 1 }.onMod fun m => { m with gangs := tset m.gangs n g' }
      some ((s.putPa (s.imagePa g') (g'.imageBytes windows)).restoreArrives (queueKey g.ctx g.prio) g.prio n)

/-- GANG_SAVE. -/
def execGangSave (n : Nat) (s : State) : Out := eventOf (decide (n < 4096)) (s.gangSave n) s

/-! ## Restoring (15 R366, R367) -/

/-- A range that lies in a slab's rows of Tray `old`, in those of Tray `new` (15 R370, R371). -/
def Range.rebased (r : Range) (old new slab : Nat) : Range :=
  if r.inWindow old slab then
    match r with
    | .near _ sl lo len => .near new sl lo len
    | .trayRing _ row k0 len => .trayRing new row k0 len
    | .flat lo len => .flat lo len
  else r

/-- An address of a near window that names it by the L1 alias or an aperture, after it has moved from Tray `old` of a Hearth to `new`. -/
def shiftVa (core : Nat) (near : BitVec 4) (hearth old new slab : Nat) (a : Word) : Word :=
  if inSpan a then
    match window core near a.toNat with
    | .ok (.l1 h o) => if h = hearth ∧ inSlabRows old slab o then a - w64 (512 * old) + w64 (512 * new) else a
    | _ => a
  else a

/-- Move entries of the comparators, of those owners that `own` names, from one Tray to another where they lie in a slab's rows, and with
them the operations' own places there (15 R370, R371). -/
def State.rebase (s : State) (own : Nat → Bool) (hearth old new slab : Nat) : State :=
  let x := s.hearth hearth
  let lock (e : Nat × LockE) : Nat × LockE := if own e.2.owner then (e.1, { e.2 with range := e.2.range.rebased old new slab }) else e
  let land (e : Nat × LandE) : Nat × LandE := if own e.2.owner then (e.1, { e.2 with range := e.2.range.rebased old new slab }) else e
  let op (e : Nat × EngOp) : Nat × EngOp :=
    let c := e.2.cmd
    let va := shiftVa c.hart c.near hearth old new slab
    let mine (l : List (Nat × Nat)) : Bool := l.any fun i => i.1 == hearth && ((tget? x.locks i.2).map fun y => y.range.inWindow old slab).getD false
    let place (w : Where) : Where := match w with
      | .virt a => .virt (va a)
      | .ring h t row k0 => if h = hearth ∧ (Range.trayRing t row k0 512).inWindow old slab then .ring h new row k0 else w
      | .l1 h o => if h = hearth ∧ inSlabRows old slab o then .l1 h (o - 512 * old + 512 * new) else w
    if own e.1 then
      (e.1, { e.2 with
        cmd := { c with
          src := if mine e.2.srcLocks then va c.src else c.src
          dstVa := if e.2.dels.any (fun d => mine d.locks) then va c.dstVa else c.dstVa
          metaVa := if mine e.2.srcLocks || e.2.dels.any (fun d => mine d.locks) then va c.metaVa else c.metaVa }
        dels := e.2.dels.map fun d => if mine d.locks then { d with dst := place d.dst } else d })
    else e
  let mx (n : Nat) (c : MxCmd) : MxCmd :=
    if own (mxOwner n c.seq) && c.locks.any fun i => i.1 == hearth && ((tget? x.locks i.2).map fun y => y.range.inWindow old slab).getD false then
      { c with
        dest := shiftVa n c.near hearth old new slab c.dest
        destLoc := c.destLoc.map fun d => if d.1 = hearth ∧ inSlabRows old slab d.2 then (d.1, d.2 - 512 * old + 512 * new) else d }
    else c
  let s := s.cores.foldl (fun s n => if (s.hartAt n).mx.queue.isEmpty then s else s.modHart n fun h => { h with mx := { h.mx with queue := h.mx.queue.map (mx n) } }) s
  (s.modHearth hearth fun h => { h with locks := h.locks.map lock, lands := h.lands.map land }).onMod fun m => { m with ops := m.ops.map op }

/-- Load a saved near window into its rows at a core, with tags. -/
def State.loadNear (s : State) (core slab : Nat) (bytes tags : List Nat) : State :=
  (nearRuns core slab).zipIdx.foldl (fun s r =>
    let piece := ((bytes.drop (512 * r.2)).take 512).map (BitVec.ofNat 8)
    let s := s.writeCells ((keysFrom r.1 512).zip piece)
    s.onMod fun m => { m with tags := (tags.filter fun g => g / 32 == r.2).foldl (fun l g => sadd l (r.1 / 16 + g % 32)) m.tags }) s

/-- Load saved Tray tables into a Tray (15 R366). -/
def Tray.loadTables (t o : Tray) : Tray := { t with rules := o.rules, rmask := o.rmask, cmask := o.cmask, hits := o.hits, uprog := o.uprog }

/-- A saved hart on its new core. -/
def Hart.restored (h : Hart) (core now : Nat) : Hart :=
  { h with forced := false, id := { h.id with physcore := BitVec.ofNat 13 core }, clock := max h.clock now, lines := [], utlb := [], hc := 0 }

/-- A gang is POISONED (15 R367, 16 R391): it leaves its restore list and the kernel of its context learns of it. -/
def State.poisonGang (s : State) (n : Nat) (g : Gang) (va : Word) (reason : Nat) : State :=
  (s.modGang n fun g => { g with st := .poisoned }).report g.ctx n 4352 { cause := 0x43, val := va, info := w64 (0x100 * reason) }

/-- A hart of LCORE l goes to its core: the odd one of a paired stream, as the gang's harts `all` say, stays parked (14 R347). -/
def State.putMember (s : State) (all : Tbl Hart) (gang ctx core l : Nat) (h : Hart) : State :=
  if core % 2 = 1 ∧ (tget {} all (l - 1)).pair.on then
    (s.modHart core fun x => { x with place := .parked, gang := gang, ctx := ctx, id := h.id }).onMod fun m =>
      { m with parkedPair := tset m.parkedPair core h }
  else
    let h := { h with place := if h.place = .placed then .stopped else h.place }
    (s.setHartAt core h).onMod fun m => { m with
      parkedPair := tdel m.parkedPair core, checkpoint := if h.pair.on then tset m.checkpoint core { h with place := .placed } else m.checkpoint }

/-- The harts of a gang that is restored, as far as R366 lays their records out: of a saved gang as those in the image say, of one
relaunched as those of its current snapshot set (16 R392). -/
def State.restoredHarts (s : State) (g : Gang) : Tbl Hart :=
  if g.st = .saved then g.saved.map fun e => (e.1, e.2.ofRecord (s.paBytes (s.recordPa g e.1) 0x3400))
  else match g.roll with
    | some r => g.saved.map fun e => (e.1, s.snapHart g r e.1 e.2)
    | none => g.saved

/-- The error that a relaunch meets in the snapshot set while it places the gang (16 R392). -/
def State.relaunchBad (s : State) (g : Gang) : Option Nat := if g.st = .rollRestoring then g.roll.bind (s.undoBad g) else none

/-- COMMIT of a restored gang: a bad image poisons it; else its harts, near windows, tables, barriers and operations are loaded. ROLLCFG is
read again, as at every placement (16 R388). Where a barrier of the gang is taken by then, the candidate has no plan any more (log 72). -/
def State.commitRestore (s : State) (n : Nat) (plan : List Nat) : Option State :=
  match s.gang? n with
  | none => some (s.modTxn fun _ => {})
  | some g =>
    let prio := g.prio
    if g.st = .saved ∧ !s.imageOk g then
      let pa := s.imagePa g
      let s := (s.dequeue (.restore n) prio g.ctx).modTxn fun _ => {}
      some ((s.putPa (pa + 0x50) [byteOf (b2n g.forced + 2 + 4 * b2n g.roll.isSome) 0]).poisonGang n g (w64 pa) 0)
    else if !s.barsFree g then some (s.modTxn fun _ => {})
    else
      match s.relaunchBad g with
      | some pa => some (((s.dequeue (.restore n) prio g.ctx).modTxn fun _ => {}).relaunchFails n g pa)
      | none =>
        let cores := coresOf g.mset plan
        let core (l : Nat) : Nat := cores.getD l 0
        let harts := s.restoredHarts g
        let near := if g.st = .saved ∧ !g.mset then (harts.filter (·.2.nearOn)).map fun e => (e, nearOfRecord (s.paBytes (s.recordPa g e.1) 0x20000)) else []
        let s := harts.foldl (fun s e => s.putMember harts n g.ctx (core e.1) e.1 (e.2.restored (core e.1) s.m.now)) s
        let s := near.foldl (fun s e => s.loadNear (core e.1.1) e.1.2.slab e.2.1 e.2.2) s
        let s := g.savedTrays.foldl (fun s e => s.modTray (trayOf (core (8 * e.1))) fun t => t.loadTables e.2) s
        let s := s.onMod fun m => { m with bars := g.savedBars.foldl (fun t b => tset t b.1 b.2) m.bars }
        let s := g.savedOps.foldl (fun s e =>
          let c := core e.2.1
          let opn := engineOf c * 32 + e.2.2
          let h : Hart := tget {} g.saved e.2.1
          let s := s.renameOp e.1 opn c false
          let s := if g.mset then s else s.rebase (· == opn) (dieOf c) (trayOf h.id.physcore.toNat % 128) (trayOf c % 128) h.slab
          s.modHart c (·.rebind e.1 opn)) s
        let s := s.modGang n fun g => { g with
          st := .restoring, cores := cores, image := none, saved := [], savedTrays := [], savedBars := [], savedOps := []
          forced := false
          roll := if (s.ctx g.ctx).rollOn && !g.mset then some { (g.roll.getD {}) with cfg := (s.ctx g.ctx).rollcfg } else none }
        let s := (s.modCtx g.ctx fun c => { c with images := c.images.filter (·.gang != n) }).unloadDue g.ctx
        some ((s.dequeue (.restore n) prio g.ctx).modTxn fun t => { t with st := .wake, gang := n })

/-- PLACEMENT_COMMIT (15 R359). -/
def State.placementCommit (s : State) : Option State :=
  let x := s.m.dist.txn
  match x.st, x.cand with
  | .commit, some (.launch l) => s.commitLaunch l x.plan
  | .commit, some (.restore n) => s.commitRestore n x.plan
  | _, _ => none

/-- PLACEMENT_COMMIT. -/
def execPlacementCommit (s : State) : Out := eventOf true s.placementCommit s

/-- WAKE_FLOOD (08 R173; 15 R359): every hart of the gang goes on; its waiting reports are delivered; a gang with rollback is at a
superstep boundary (16 R389). -/
def State.wakeFlood (s : State) : Option State :=
  let x := s.m.dist.txn
  if x.st != .wake then none
  else
    match s.gang? x.gang with
    | none => some (s.modTxn fun _ => {})
    | some g =>
      let s := g.cores.foldl (fun s c => s.modHart c fun h => if h.place = .stopped then { h with place := .placed } else h) s
      let s := (s.modGang x.gang fun g => { g with st := .running, placedAt := s.nowNs }).modTxn fun _ => {}
      let s := (s.deliverReports g.ctx x.gang).retargetCores g.cores
      let harts := g.cores.zipIdx.map fun e => (e.2, s.recordOf e.1)
      some (if g.roll.isSome then (harts.foldl (fun s e => s.writeSnap x.gang e.1 e.2) s).boundary0 x.gang harts else s)

/-- WAKE_FLOOD. -/
def execWakeFlood (s : State) : Out := eventOf true s.wakeFlood s

/-! ## Migration (15 R370, R371; 07 R165) -/

/-- The bytes of a tile, row by row: offset and length. -/
def Tile.rowSpans (t : Tile) : List (Nat × Nat) := (List.range t.rows).map fun i => (t.base + i * t.pitch, t.rowBytes)

/-- A run of L1 offsets lies in a slab's rows of a Tray. -/
def inWindow (tray slab : Nat) (r : Nat × Nat) : Bool :=
  let inRow (o : Nat) : Bool := decide (slab * 128 ≤ o / 0x10000) && decide (o / 0x10000 < slab * 128 + 128) && o / 512 % 128 == tray
  inRow r.1 && inRow (r.1 + r.2 - 1) && r.1 / 512 == (r.1 + r.2 - 1) / 512

/-- A run of L1 offsets touches them. -/
def touchesWindow (tray slab : Nat) (r : Nat × Nat) : Bool :=
  (List.range 128).any fun i => let k := nearOff tray slab (512 * i); decide (k < r.1 + r.2) && decide (r.1 < k + 512)

/-- Declared tiles after a near window has moved (07 R165); an entry's first write is logged (07 R164). -/
def State.moveTiles (s : State) (hearth old new slab : Nat) : State :=
  (s.hearth hearth).tiles.foldl (fun s e =>
    let t := e.2
    if t.rowSpans.all (inWindow old slab) then s.setTile t.ctx hearth e.1 (some { t with base := t.base - old * 512 + new * 512 })
    else if t.rowSpans.any fun r => touchesWindow old slab r || touchesWindow new slab r then
      match fmtKind t.fmt with
      | .flt _ | .cflt _ => (List.range (t.rows + t.cols)).foldl (fun s k => s.setFacet t.ctx hearth (t.run + k) (s.facet hearth t k ||| 0x1000000000000000000000000#128)) s
      | _ => s.regenTile hearth t
    else s) s

/-- Move the near window of a hart from one core's Tray to another's: bytes, tags and poison; the old rows become zero. The words moved are
read, and written anew (16 R379). -/
def State.moveNear (s : State) (from0 to0 slab : Nat) : State :=
  let pairs := (nearRuns from0 slab).zip (nearRuns to0 slab)
  let s := pairs.foldl (fun s p => [p.1, p.1 + 256, p.2, p.2 + 256].foldl State.logL1 s) s
  let s := pairs.foldl (fun s p => ((s.disturb (keysFrom p.1 512)).disturb (keysFrom p.2 512)).scrub (keysFrom p.1 512)) s
  s.onMod fun m => pairs.foldl (fun m p =>
    let m := m.copyRaw p.1 p.2 512
    { m with
      mem := m.mem.filter fun c => !(decide (p.1 ≤ c.1) && decide (c.1 < p.1 + 512))
      tags := m.tags.filter fun g => !(decide (p.1 / 16 ≤ g) && decide (g < p.1 / 16 + 32)) }.unpoison (keysFrom p.1 512)) m

/-- The operations that a moving window pauses stand at a boundary of 64 bytes (15 R371, step 2). -/
def State.windowQuiet (s : State) : Bool := s.m.ops.all fun o => !s.pausedByMove o.1 || o.2.between

/-- The move itself of the hart on core n to core t (15 R371, steps 3 to 7). -/
def State.moveHart (s : State) (n t : Nat) : State :=
  let s := s.stopAt n
  let h := s.hartAt n
  let h' := { ({ h with migrateTo := none } : Hart).restored t s.m.now with place := .placed }
  let ot := trayOf n % 128
  let nt := trayOf t % 128
  let s := if h.nearOn && ot != nt then ((s.moveNear n t h.slab).rebase (· != ringOwner) (dieOf n) ot nt h.slab).moveTiles (dieOf n) ot nt h.slab else s
  let s := (s.setHartAt t h').modHart n fun x => { x.vacated with streams := [] }
  let mine (o : Nat × EngOp) : Nat × EngOp := if o.2.cmd.hart = n ∧ o.2.cmd.gang = h.gang then (o.1, { o.2 with cmd := { o.2.cmd with hart := t } }) else o
  let wake (w : WakeMsg) : WakeMsg := if w.hart = n then { w with hart := t } else w
  let send (w : SendMsg) : SendMsg := if w.hart = n then { w with hart := t } else w
  let s := s.modGang h.gang fun g => { g with cores := g.cores.map fun c => if c = n then t else c }
  (s.onMod fun m => { m with ops := m.ops.map mine, wakes := m.wakes.map wake, sends := m.sends.map send }).retargetCores [n, t]

/-- MIGRATION (15 R371): a hart at a safe point stops; stopped, its window flushes and it drains and its matrix commands end; then the
operations in its near window pause, and it moves to its target core. -/
def State.migration (s : State) (n : Nat) : Option State :=
  let h := s.hartAt n
  match h.migrateTo with
  | none => none
  | some t =>
    if !h.moving then (if h.stoppable && !h.pair.on then some (s.modHart n fun h => { h with moving := true }) else none)
    else
      match s.preSave n with
      | some s => some s
      | none =>
        if !(h.drained && h.mx.queue.isEmpty) then none
        else if !h.pausing then some (s.modHart n fun h => { h with pausing := true })
        else if s.windowQuiet then some (s.moveHart n t) else none

/-- MIGRATION. -/
def execMigration (n : Nat) (s : State) : Out := eventOf (hartExists n) (s.migration n) s

/-! ## Superstep rollback (16 R391) -/

/-- A matrix command ends as faulted without a report: its slots and entries go. -/
def State.mxDiscard (s : State) (c : MxCmd) : State :=
  let s := s.mxRelease c
  let p := s.mxAbortSlots c.dstSlot c.spareSlots
  (abortOps 4096 p.2 p.1).mxDropEntries c

/-- What ROLLING discards of a gang: store buffers, engine operations, matrix commands, windows, pending reports. -/
def State.discard (s : State) (n : Nat) (g : Gang) : State :=
  let s := (s.gangOps n g).foldl State.abortOp s
  let s := g.cores.foldl (fun s c => (s.hartAt c).mx.queue.foldl State.mxDiscard s) s
  let s := g.cores.foldl (fun s c => match (s.hartAt c).checking with | some e => s.delLock e | none => s) s
  let s := g.cores.foldl (fun s c => s.modHart c fun h =>
    { h.abandon with sb := [], cpq := [], asy := [], mx := { h.mx with queue := [] }, sync := { h.abandon.sync with domres := none, given := none } }) s
  s.onMod fun m => { m with wakes := m.wakes.filter fun w => !g.cores.contains w.hart, sends := m.sends.filter fun w => !g.cores.contains w.hart }

/-- A hart goes back to its snapshot (16 R391): what the hardware holds outside the record goes on. -/
def Hart.rollTo (h o : Hart) (core : Nat) (live : Nat → Bool) : Hart :=
  { o with
    id := { o.id with physcore := BitVec.ofNat 13 core }, clock := h.clock, cyc := h.cyc, posted := h.posted, sb := [], cpq := [], asy := []
    mx := { o.mx with queue := [] }, lines := [], utlb := [], waiting := false, safeWait := false, asked := none, migrateTo := h.migrateTo
    streams := o.streams.filter fun b => live b.2.opn
    place := if o.place = .stopped then .placed else o.place }

/-- The hart of LCORE l goes back to its snapshot, on its core (16 R391). -/
def State.rollMember (s : State) (all : Tbl Hart) (gang ctx core l : Nat) : State :=
  match tget? all l with
  | none => s
  | some o =>
    let h := (s.recordOf core).rollTo o core fun k => (tget? s.m.ops k).isSome
    let s := s.putMember all gang ctx core l h
    s.modHart core fun x => if x.place = .stopped then { x with place := .placed } else x

/-- ROLLBACK_RESTORE (16 R391): the gang's harts have stopped; the log and the current snapshots are written back, or an error in the
undo area poisons the gang. A stop requested meanwhile begins then. -/
def State.rollbackRestore (s : State) (n : Nat) : Option State :=
  match s.gang? n with
  | none => none
  | some g =>
    match g.roll with
    | none => none
    | some r =>
      if g.st != .rolling then none
      else
        let s := s.discard n g
        match s.undoBad g r with
        | some pa =>
          let hearths := (List.range (g.size / 8)).map fun k => dieOf (g.cores.getD (8 * k) 0)
          let s := (s.gangVacate g).modGang n fun g => { g with cores := [], hearths := hearths }
          some (s.poisonGang n g (w64 pa) 0)
        | none =>
          let old := s.gangBars g
          let snaps := r.cur.map fun e => (e.1, s.snapHart g r e.1 e.2)
          let s := s.undoAll (s.undoLog g r)
          let s := g.cores.zipIdx.foldl (fun s e => s.rollMember snaps n g.ctx e.1 e.2) s
          let s := r.curTrays.foldl (fun s e => s.modTray (trayOf (g.cores.getD (8 * e.1) 0)) fun t => t.loadTables e.2) s
          let s := s.onMod fun m => { m with bars := r.curBars.foldl (fun t b => tset t b.1 b.2) (old.foldl tdel m.bars) }
          let s := s.putUndo (g.retryPa r) (splitBytes 8 (r.retry + 1))
          some ((s.retargetCores g.cores).modGang n fun g => { g with
            st := if g.stopLater then .stopping else .running, stopLater := false, trayBars := r.curTrayBars
            roll := g.roll.map fun r => { r with retry := r.retry + 1, next := [] } })

/-- ROLLBACK_RESTORE. -/
def execRollbackRestore (n : Nat) (s : State) : Out := eventOf (decide (n < 4096)) (s.rollbackRestore n) s

end Sys2Proof.Machine
end

