-- ==== Sys2Proof/Machine/Power.lean ====
section
/-! DEFINITION. Power and heat (17 R402 to R408): operating points, droop, ballast, the cap, peers, temperature. An event at the end of
a span of time stands at its TIME. -/

namespace Sys2Proof.Machine

/-- OP_TRANSITION_END (17 R402): GRANT changes, and a target that has changed meanwhile starts the next transition. -/
def State.transitionEnd (s : State) (tray : Nat) : Option State :=
  match (s.tray tray).trans with
  | none => none
  | some (step, at0) =>
    let s := s.onMod (·.reach at0)
    some ((s.modTray tray fun t => { t with grant := step, trans := none }).retarget tray)

/-- OP_TRANSITION_END. -/
def execOpTransitionEnd (tray : Nat) (s : State) : Out := eventOf (decide (tray < 512)) (s.transitionEnd tray) s

/-- DROOP_DETECT (17 R403): the hold begins, or begins again. -/
def State.droopDetect (s : State) (tray : Nat) : State :=
  let hold := s.m.power.droophold
  let s := s.onMod fun m => { m with power := { m.power with droops := min (m.power.droops + 1) 65535 } }
  if hold = 0 then s else s.modTray tray fun t => { t with droop := some (s.m.now + hold * cycleUnits (s.coreStep (8 * tray))) }

/-- DROOP_DETECT. -/
def execDroopDetect (tray : Nat) (s : State) : Out := eventOf (decide (tray < 512)) (some (s.droopDetect tray)) s

/-- DROOP_HOLD_END (17 R403). -/
def State.droopEnd (s : State) (tray : Nat) : Option State :=
  match (s.tray tray).droop with
  | none => none
  | some at0 => some ((s.onMod fun m => { m with now := max m.now at0 }).modTray tray fun t => { t with droop := none })

/-- DROOP_HOLD_END. -/
def execDroopHoldEnd (tray : Nat) (s : State) : Out := eventOf (decide (tray < 512)) (s.droopEnd tray) s

/-- The charge that the module draws in 1,000 ns of TIME, in 1/16 pC: the energy of each Tray at the voltage of its GRANT step, that of a
die at step 4's (17 R401; log 47). -/
def Mod.drawn (m : Mod) (k : Nat) : Nat :=
  (m.trays.map fun t => tget 0 t.2.spent k * 1000 / (opPoint t.2.grant).1).foldl (· + ·) 0
    + (m.power.dieSpent.map fun d => tget 0 d.2 k * 1000 / (opPoint 4).1).foldl (· + ·) 0

/-- The fall of charge from one 1,000 ns to the next at 0.4 A/ns: 400 A for 1,000 ns, in 1/16 pC. -/
def fallLimit : Nat := 6400000000

/-- The estimated module current would fall faster than 0.4 A/ns (17 R404; log 47): what the present 1,000 ns has drawn so far stays below
the part due by now of what the last ones drew, less the fall allowed. -/
def State.falling (s : State) : Bool :=
  let k := s.nowNs / 1000
  decide (0 < k) && decide (s.m.drawn k * 1000 + fallLimit * (s.nowNs % 1000) < s.m.drawn (k - 1) * (s.nowNs % 1000))

/-- BALLAST_STEP (17 R404): while the current would fall too fast, a matrix unit that has no tile step to run and no droop hold takes a
step; it only charges energy. -/
def State.ballast (s : State) (tray width : Nat) : Option State :=
  if !s.falling || (s.tray tray).droop.isSome || (s.tileStep tray).isSome then none else some (s.energyAt (8 * tray) 0x3A (width % 4))

/-- The ballast step that is due, if any, of the first unit whose step draws energy. -/
def State.ballastDue (s : State) : Option State :=
  if !s.falling then none
  else (List.range 512).findSome? fun t => if tget 0 s.m.power.table ((0x3A * 4 + 1) * 16 + (s.tray t).grant) = 0 then none else s.ballast t 1

/-- BALLAST_STEP. -/
def execBallastStep (tray width : Nat) (s : State) : Out := eventOf (decide (tray < 512) && decide (width < 4)) (s.ballast tray width) s

/-- A millijoule in units of 1/16 pJ. -/
def mJ : Nat := 16000000000

/-- What has been charged in a window. -/
def spentIn (spent : Tbl Nat) (window : Nat) : Nat := (spent.map fun e => if e.1 / 1000 = window then e.2 else 0).foldl (· + ·) 0

/-- The energy of the module in the window (17 R400): its Trays, its dies, and 100 mJ, with what an earlier window has left to it. -/
def Mod.windowEnergy (m : Mod) : Nat :=
  (m.trays.map fun t => spentIn t.2.spent m.power.window).foldl (· + ·) 0
    + (m.power.dieSpent.map fun d => spentIn d.2 m.power.window).foldl (· + ·) 0 + 100 * mJ + m.power.carry

/-- The energy that the controller lets a window of a cap B end with: at most 2 % above B, and never less than the 100 mJ that no
controller holds back (17 R405). What is left goes to the next window (log 47). -/
def heldEnergy (e b : Nat) : Nat := min e (max (b + b / 50) (100 * mJ))

/-- What the power block looks back at once a window has ended: its last 1,000 ns, for the estimated current. -/
def lookBack (spent : Tbl Nat) (window : Nat) : Tbl Nat := spent.filter fun e => decide (1000 * window ≤ e.1 + 1)

/-- The cap controller at the end of a window (17 R405, R406). -/
def Mod.capWindow (m : Mod) : Mod :=
  let p := m.power
  let b := p.pcap * mJ
  let e := heldEnergy m.windowEnergy b
  let step := if b < e then p.capstep - 1 else if 10 * e < 9 * b then min 15 (p.capstep + 1) else p.capstep
  let tray (t : Nat × Tray) : Nat × Tray :=
    (t.1, { t.2 with overBud := t.2.bud != 0 && decide (t.2.bud * mJ < spentIn t.2.spent p.window), spent := lookBack t.2.spent (p.window + 1) })
  ({ m with
    trays := m.trays.map tray
    power := { p with
      capstep := step, ovsh := if b < e then max p.ovsh (min 65535 ((e - b) * 10000 / b)) else p.ovsh
      wover := if b < e then min (p.wover + 1) 65535 else p.wover
      dieSpent := p.dieSpent.map fun (d : Nat × Tbl Nat) => (d.1, lookBack d.2 (p.window + 1)), carry := m.windowEnergy - e, window := p.window + 1 } }).rethrottle

/-- CAP_WINDOW_END (17 R405): windows end at multiples of 10^6 ns of TIME. -/
def State.capWindowEnd (s : State) : State :=
  ((s.onMod (·.reach ((s.m.power.window + 1) * 1000000))).onMod Mod.capWindow).retargetAll

/-- CAP_WINDOW_END. -/
def execCapWindowEnd (s : State) : Out := eventOf true (some s.capWindowEnd) s

/-- PEER_THROTTLED (17 R407), over an active port: the floor of SLKSTEP. -/
def State.peerThrottled (s : State) (port step : Nat) (on : Bool) : Option State :=
  if (tget {} s.m.host.links port).st != .active then none
  else some (s.onMod fun m => { m with power := { m.power with
    peerFloor := if on then tset m.power.peerFloor port (min step 15) else tdel m.power.peerFloor port } })

/-- PEER_THROTTLED. -/
def execPeerThrottled (port step : Nat) (on : Bool) (s : State) : Out := eventOf (decide (port < 16)) (s.peerThrottled port step on) s

/-! ## Temperature (17 R408) -/

/-- Every placed hart of a Tray takes a thermal cause (the EINFO of THERMAL_CRIT is that of THERMAL_WARN; log 42). -/
def State.thermalCause (s : State) (tray temp cause : Nat) : State :=
  (List.range 8).foldl (fun s i => s.modHart (8 * tray + i) fun h =>
    if h.placed then { h with asy := h.asy ++ [{ cause := cause, val := w64 tray, info := w64 (temp % 256) }] } else h) s

/-- A Tray's sensor reads a temperature. -/
def State.setTemp (s : State) (tray temp : Nat) : State := s.modTray tray fun t => { t with temp := temp }

/-- THERMAL_WARN: rising through 95 °C. -/
def State.thermalWarn (s : State) (tray temp : Nat) : Option State :=
  if (s.tray tray).hot || decide (temp < 95) then none
  else some (((s.setTemp tray temp).modTray tray fun t => { t with hot := true }).thermalCause tray temp 0x50)

/-- THERMAL_WARN. -/
def execThermalWarn (tray temp : Nat) (s : State) : Out := eventOf (decide (tray < 512)) (s.thermalWarn tray temp) s

/-- THERMAL_CRIT: rising through 105 °C. -/
def State.thermalCrit (s : State) (tray temp : Nat) : Option State :=
  if (s.tray tray).crit || decide (temp < 105) then none
  else
    let s := (s.setTemp tray temp).modTray tray fun t => { t with crit := true }
    some (((s.onMod Mod.rethrottle).retarget tray).thermalCause tray temp 0x51)

/-- THERMAL_CRIT. -/
def execThermalCrit (tray temp : Nat) (s : State) : Out := eventOf (decide (tray < 512)) (s.thermalCrit tray temp) s

/-- THERMAL_TRIP: rising through 115 °C; the module stops until reset. -/
def State.thermalTrip (s : State) (tray temp : Nat) : Option State :=
  if temp < 115 then none
  else
    let s := (s.setTemp tray temp).onMod fun m => { m with garnet := { m.garnet with store := m.garnet.sram } }
    let s := s.logErr 0x51A 3 9 0 0 0 0xFF false
    let s := s.hostEvent 0 [((tget {} s.m.banks 0x51A).latest.map ErrRec.word).getD 0]
    some (s.onMod fun m => { m with stopped := true })

/-- THERMAL_TRIP. -/
def execThermalTrip (tray temp : Nat) (s : State) : Out := eventOf (decide (tray < 512)) (s.thermalTrip tray temp) s

/-- THERMAL_CLEAR: below 90 °C the mark clears, below 100 °C the ceiling returns to 15. -/
def State.thermalClear (s : State) (tray temp : Nat) : Option State :=
  let t := s.tray tray
  if (t.hot && decide (temp < 90)) || (t.crit && decide (temp < 100)) then
    let s := (s.setTemp tray temp).modTray tray fun t => { t with hot := t.hot && decide (90 ≤ temp), crit := t.crit && decide (100 ≤ temp) }
    some ((s.onMod Mod.rethrottle).retarget tray)
  else none

/-- THERMAL_CLEAR. -/
def execThermalClear (tray temp : Nat) (s : State) : Out := eventOf (decide (tray < 512)) (s.thermalClear tray temp) s

end Sys2Proof.Machine
end

