-- ==== Sys2Proof/Machine/Control.lean ====
section
/-! DEFINITION. Control registers (14 R334 to R340, R345, R348, R349, R351, and the maps R335 names): which exist, the level each
access needs, what reads give and writes store; invalidation of translations (01 R32, R38, R39). -/

namespace Sys2Proof.Machine

/-! ## Invalidation (01 R36 to R39) -/

/-- A TLB entry that an invalidation removes (01 R38). -/
def Inval.hits (v : Inval) (e : TlbE) : Bool :=
  match v with
  | .all => true
  | .context c => e.ctx == c
  | .pages c p n => e.ctx == c && (if e.block then decide (p / 8192 ≤ e.vpn) && decide (e.vpn ≤ (p + n) / 8192) else decide (p ≤ e.vpn) && decide (e.vpn ≤ p + n))

/-- A walk-cache entry that it removes (01 R37). -/
def Inval.hitsWalk (v : Inval) (e : TlbE) : Bool :=
  match v with
  | .all => true
  | .context c => e.ctx == c
  | .pages c p n =>
    let k := if e.block then 8192 else 0x4000000
    e.ctx == c && decide (p / k ≤ e.vpn) && decide (e.vpn ≤ (p + n) / k)

/-- The dies drop the entries. -/
def Mod.invalidate (m : Mod) (v : Inval) : Mod :=
  { m with
    tlb := m.tlb.map fun e => (e.1, e.2.filter fun x => !v.hits x.2)
    walks := m.walks.map fun e => (e.1, e.2.filter fun x => !v.hitsWalk x) }

/-- A hart's fetch micro-TLB drops them. -/
def Hart.invalidate (h : Hart) (v : Inval) : Hart := { h with utlb := h.utlb.filter fun x => !v.hits x }

/-- Everything drops them at once. -/
def State.invalidate (s : State) (v : Inval) : State :=
  s.cores.foldl (fun s c => s.modHart c (·.invalidate v)) (s.onMod (·.invalidate v))

/-- The units that acknowledge (01 R39): copy-engine queues of Trays and Millers 0 to 767, matrix units 768 to 1279, Millers 1280 to
1535, fetch micro-TLBs 1536 to 5887. -/
def ackUnits : Nat := 5888

/-- A shootdown begins: the dies drop the entries, and every unit is to acknowledge. -/
def State.shootBegin (s : State) (v : Inval) : State :=
  s.onMod fun m => { m.invalidate v with shoot := some { stamp := m.mxStamp, what := v, units := List.range ackUnits }, mxStamp := m.mxStamp + 1 }

/-- The hart's write is done only when its own shootdown is (01 R39): `pre` is what the write does as it begins. -/
def State.shootdown (s : State) (v : Inval) (pre : State → State) : R State :=
  match s.hart.asked with
  | some k => if s.m.shoot.any (·.stamp == k) then .error (.wait false 0x10 s) else .ok s
  | none =>
    if s.m.shoot.isSome then .error (.wait false 0x10 s)
    else .error (.wait false 0x10 (((pre s).shootBegin v).onHart fun h => { h with asked := some s.m.mxStamp }))

/-- PTROOT of a context (01 R32). -/
def State.setRoot (s : State) (ctx : Nat) (v : Word) : State :=
  s.modCtx ctx fun c => { c with ptEn := v.getLsbD 0, ptTable := BitVec.ofNat 32 (bits v.toNat 47 16) }

/-- An entry of a context's region table (01 R17). -/
def State.setRegion (s : State) (ctx idx : Nat) (v : Word) : State :=
  s.modCtx ctx fun c => { c with regions := tset c.regions idx (v &&& 0xFFFFFF1F) }

/-- A queue holds records (08 R184). -/
def TaskQ.holds (q : TaskQ) : Bool := !q.l1.isEmpty || !q.ring.isEmpty

/-- TQCFG of a queue (08 R184). -/
def State.setQueue (s : State) (ctx hearth : Nat) (v : Word) : State := s.modTaskQ ctx hearth fun q => { q with cfg := v.setWidth 48 }

/-! ## The loader (16 R396; 18 R420 to R422; log 38) -/

/-- The function of a context's text that holds a line: its object and the function. -/
def Ctx.fnAt (c : Ctx) (line : Word) : Option (CodeObj × (Nat × Nat × Pub)) :=
  (c.objAt line).bind fun o =>
    let ln := (line.toNat - o.textVa.toNat) / 64
    (o.fns.find? fun f => decide (f.1 ≤ ln) && decide (ln < f.1 + f.2.1)).map fun f => (o, f)

/-- What the loader has to do for a line: nothing, or the function to publish, where its page tables reach it. -/
def State.wanted (s : State) (ctx : Nat) (line : Word) : Bool :=
  match (s.ctx ctx).fnAt line with
  | some (_, f) => f.2.2 == .unpublished && (match walk s .other s.m.now 0 ctx (a55 line) with | .ok _ => true | .error (.wait _) => true | .error _ => false)
  | none => false

/-- LDREQ (18 R422). -/
def State.loadRequest (s : State) (v : Word) : R State :=
  let line := v &&& ~~~(0x3F#64)
  match s.hart.asked with
  | some k =>
    if s.m.ldreqs.any fun r => r.stamp == k && s.wanted r.ctx r.line then .error (.wait false 0x10 s)
    else .ok (s.onMod fun m => { m with ldreqs := m.ldreqs.filter (·.stamp != k) })
  | none =>
    if s.wanted s.hart.ctx line then
      .error (.wait false 0x10 ((s.onMod fun m => { m with
        ldreqs := m.ldreqs ++ [{ stamp := m.mxStamp, hart := s.cur, ctx := s.hart.ctx, line := line }], mxStamp := m.mxStamp + 1 }).onHart
          fun h => { h with asked := some s.m.mxStamp }))
    else .ok s

/-! ## Access (14 R334, R335) -/

/-- The number names a register of a compute core or a Miller. -/
def ctlExists (miller : Bool) (num : Nat) : Bool :=
  (decide (0x010 ≤ num) && decide (num ≤ 0x013)) || (decide (0x020 ≤ num) && decide (num ≤ 0x029)) || (decide (0x030 ≤ num) && decide (num ≤ 0x034))
    || (decide (0x038 ≤ num) && decide (num ≤ 0x03F)) || (decide (0x100 ≤ num) && decide (num ≤ 0x106))
    || (decide (0x180 ≤ num) && decide (num ≤ 0x191) && (num != 0x186 || miller)) || (decide (0x200 ≤ num) && decide (num ≤ 0x206))

/-- What an access needs: nothing, a level, or a bit of RWPERM at level U. -/
inductive CtlNeed where
  | all
  | level (l : Level)
  | perm (b : Nat)
deriving DecidableEq, Repr

/-- What a read needs. TLBINV, which its map calls write-only, counts among the registers of level K (log 39). -/
def ctlReadNeed (num : Nat) : CtlNeed :=
  if num = 0x023 then .level .k
  else if num < 0x030 then .all
  else if num ≤ 0x032 then .perm 0
  else if num = 0x033 then .level .k
  else if num = 0x034 then .all
  else if num < 0x100 then .perm 1
  else if num = 0x186 ∨ num = 0x187 ∨ num = 0x18E ∨ num = 0x191 then .all
  else if num = 0x190 then .perm 4
  else if num < 0x200 then .level .k
  else .level .f

/-- What a write needs; a write of TLBINV also what R38 asks of its value. -/
def ctlWriteNeed (num : Nat) : CtlNeed :=
  if num < 0x020 then .all
  else if num ≤ 0x027 then .level .f
  else if num ≤ 0x029 then .level .k
  else if num = 0x030 then .all
  else if num ≤ 0x033 then .level .k
  else if num = 0x034 then .perm 2
  else if num < 0x100 then .perm 1
  else if num = 0x187 then .all
  else if num < 0x200 then .level .k
  else .level .f

/-- The access is allowed, else PRIVILEGED. -/
def State.needCtl (s : State) (i : Instr) (n : CtlNeed) : R Unit :=
  match n with
  | .all => .ok ()
  | .level l => s.needLevel i l
  | .perm b => s.needPerm i b

/-! ## Reads -/

/-- STATUS (14 R336). -/
def Bank.status (b : Bank) (pl : Level) (nest : Bool) : Nat :=
  b.ppl.num + 4 * b2n b.ds + 8 * b2n b.pie + 16 * b2n nest + 32 * b2n b.ie + 0x100 * pl.num

/-- A trap register of a bank (14 R336 to R338). -/
def Bank.read (b : Bank) (pl : Level) (nest : Bool) (i : Nat) : Word :=
  match i with
  | 0 => w64 (b.status pl nest)
  | 1 => b.epc
  | 2 => w64 (b.code.toNat + 0x80 * b2n b.asy)
  | 3 => b.eval
  | 4 => b.einfo
  | 5 => b.ebt
  | _ => (b.base.setWidth 64 <<< 6) ||| w64 (b2n b.vec)

/-- GRANT as a core reads it: a Miller's die runs at step 4 (17 R400). -/
def State.grantOf (s : State) (core : Nat) : Nat := if core < 4096 then (s.tray (trayOf core)).grant else 4

/-- CHLAT of a channel (03 R84). -/
def Chan.lat (c : Chan) (now : Nat) : Word := w64 (c.stalled now % 2 ^ 48 + c.forced % 256 * 2 ^ 48 + c.owed % 16 * 2 ^ 56)

/-- REPLAYCTL (14 R351). -/
def Replay.ctl (r : Replay) : Word := w64 (b2n r.en + 2 * b2n r.rstl2 + 4 * b2n r.rsttlb + r.save.toNat * 0x10000)

/-- REPLAYSTAT (14 R351). -/
def Replay.stat (r : Replay) : Word :=
  w64 (r.pass % 256 + 0x100 * (r.phase % 4) + 0x400 * b2n r.mismatch + 0x800 * b2n r.ovf + 0x1000 * (r.pages.length % 128) + r.sig.toNat * 0x100000000)

/-- PAIRCTL (14 R348). -/
def Pair.ctl (p : Pair) : Word := w64 (b2n p.on + 2 * b2n (p.on && p.odd) + 4 * (p.run % 4) + p.mism % 65536 * 0x10000 + p.mat % 2 ^ 32 * 0x100000000)

/-- PERFCNT (14 R349). -/
def Perf.word (p : Perf) : Word := p.cnt.setWidth 64 ||| (if p.ovf then 0x1000000000000 else 0)

/-- The value of a control register that exists. -/
def State.ctlValue (s : State) (num : Nat) : Word :=
  let h := s.hart
  let c := h.ctl
  match num with
  | 0x010 => c.round.setWidth 64
  | 0x011 => c.flush.setWidth 64
  | 0x012 => c.arstat.setWidth 64
  | 0x013 => w64 (b2n c.chk)
  | 0x020 => h.id.lcore.setWidth 64
  | 0x021 => h.id.gangsz.setWidth 64
  | 0x022 => h.id.devcore.setWidth 64
  | 0x023 => h.id.physcore.setWidth 64
  | 0x024 => h.id.dom[0].setWidth 64
  | 0x025 => h.id.dom[1].setWidth 64
  | 0x026 => h.id.dom[2].setWidth 64
  | 0x027 => h.id.dom[3].setWidth 64
  | 0x028 => h.sync.wakereg
  | 0x029 => w64 h.sync.budget
  | 0x030 => s.time
  | 0x031 => c.cycle
  | 0x032 => c.retired
  | 0x033 => c.timecmp
  | 0x034 => w64 (c.opreq.toNat + 16 * s.grantOf s.cur)
  | 0x180 => w64 (b2n (s.ctx h.ctx).ptEn + (s.ctx h.ctx).ptTable.toNat * 0x10000)
  | 0x181 => c.nearctl.setWidth 64
  | 0x182 => c.l1rtidx.setWidth 64
  | 0x183 => tget 0 (s.ctx h.ctx).regions c.l1rtidx.toNat
  | 0x184 => 0
  | 0x185 => c.rmt.setWidth 64
  | 0x186 => (tget {} s.m.chans (s.cur - 4096)).lat s.m.now
  | 0x187 => 0x6553
  | 0x188 => w64 (b2n c.rptc)
  | 0x189 => w64 (tget 0 (s.ctx h.ctx).facetCorr s.die + tget 0 (s.ctx h.ctx).facetMism s.die * 0x100000000)
  | 0x18A => c.tqsel.setWidth 64
  | 0x18B => (s.taskQ h.ctx c.tqsel.toNat).cfg.setWidth 64
  | 0x18C => c.mxwgt.setWidth 64
  | 0x18D => c.rwperm.setWidth 64
  | 0x18E => h.pair.ctl
  | 0x18F => h.rep.ctl
  | 0x190 => h.rep.stat
  | 0x191 => 0
  | _ =>
    if num < 0x03C then (h.perf[num % 4]).sel.setWidth 64
    else if num < 0x100 then (h.perf[num % 4]).word
    else if num < 0x180 then h.kb.read h.lvl h.kb.nest (num - 0x100)
    else h.fb.read h.lvl false (num - 0x200)

/-! ## Writes -/

/-- Write a trap register of a bank. -/
def Bank.write (b : Bank) (i : Nat) (v : Word) : Bank :=
  match i with
  | 0 => { b with ppl := Level.ofNum (v.toNat % 4), ds := v.getLsbD 2, pie := v.getLsbD 3, ie := v.getLsbD 5 }
  | 1 => { b with epc := v, src := if v = b.epc then b.src else none }
  | 2 => { b with code := BitVec.ofNat 7 (min (v.toNat % 128) 0x5F), asy := v.getLsbD 7 }
  | 3 => { b with eval := v }
  | 4 => { b with einfo := v }
  | 5 => { b with ebt := v }
  | _ => { b with vec := v.getLsbD 0, base := (v >>> 6).setWidth 58 }

/-- PERFSEL (14 R349). -/
def Perf.select (p : Perf) (v : Word) : Perf :=
  { p with sel := if 0x1C < v.toNat % 256 then (v.setWidth 12) &&& 0xF00 else v.setWidth 12 }

/-- PERFCNT (14 R349). -/
def Perf.load (p : Perf) (v : Word) : Perf := { p with cnt := v.setWidth 48, ovf := p.ovf && !v.getLsbD 48 }

/-- Change one counter. -/
def Hart.modPerf (h : Hart) (i : Nat) (f : Perf → Perf) : Hart := { h with perf := Vector.ofFn fun j => if j.val = i then f h.perf[j] else h.perf[j] }

/-- Change the registers that Ctl holds. -/
def State.modCtl (s : State) (f : Ctl → Ctl) : State := s.onHart fun h => { h with ctl := f h.ctl }

/-- What a TLBINV value names (01 R38). -/
def invalOf (v : Nat) : Inval :=
  if v % 4 = 0 then .all else if v % 4 = 1 then .context (bits v 5 2) else .pages (bits v 5 2) (bits v 54 16) (bits v 15 8)

/-- A write to OPREQ: the Tray's target may change (14 R345, 17 R402). -/
def State.writeOpreq (s : State) (v : Word) : State :=
  let s := s.modCtl fun c => { c with opreq := v.setWidth 4 }
  if s.miller then s else s.retarget (trayOf s.cur)

/-- Store a value in a control register that exists and may be written; the identity registers, every field of which is RO, take none (00
R8; 08 R175, R177). Writes of TLBINV, PTROOT, TQCFG and LDREQ have steps of their
own. -/
def State.ctlStore (s : State) (num : Nat) (v : Word) : State :=
  match num with
  | 0x010 => s.modCtl fun c => { c with round := v.setWidth 3 }
  | 0x011 => s.modCtl fun c => { c with flush := v.setWidth 8 }
  | 0x012 => s.modCtl fun c => { c with arstat := c.arstat &&& ~~~(v.setWidth 4) }
  | 0x013 => s.modCtl fun c => { c with chk := v.getLsbD 0 }
  | 0x028 => s.onHart fun h => { h with sync := { h.sync with wakereg := v } }
  | 0x029 => s.onHart fun h => { h with sync := { h.sync with budget := min (v.toNat % 2 ^ 25) (2 ^ 24) } }
  | 0x030 => s
  | 0x031 => s.modCtl fun c => { c with cycle := v }
  | 0x032 => s.modCtl fun c => { c with retired := v }
  | 0x033 => s.modCtl fun c => { c with timecmp := v }
  | 0x034 => s.writeOpreq v
  | 0x181 => s.modCtl fun c => { c with nearctl := v.setWidth 4 }
  | 0x182 => s.modCtl fun c => { c with l1rtidx := v.setWidth 5 }
  | 0x183 => s.setRegion s.hart.ctx s.hart.ctl.l1rtidx.toNat v
  | 0x185 => s.modCtl fun c => { c with rmt := v.setWidth 16 }
  | 0x186 => s.onMod fun m => { m with chans := tmod {} m.chans (s.cur - 4096) fun c =>
      { c with stall := v.toNat % 2 ^ 48, stallFrom := c.stallFrom.map fun _ => s.m.now, forced := bits v.toNat 55 48 } }
  | 0x188 => s.modCtl fun c => { c with rptc := v.getLsbD 0 }
  | 0x189 => s.modCtx s.hart.ctx fun c => { c with facetCorr := tset c.facetCorr s.die (v.toNat % 2 ^ 32), facetMism := tset c.facetMism s.die (v.toNat / 2 ^ 32) }
  | 0x18A => s.modCtl fun c => { c with tqsel := v.setWidth 2 }
  | 0x18C => s.modCtl fun c => { c with mxwgt := if v.toNat % 16 = 0 then 1 else v.setWidth 4 }
  | 0x18D => s.modCtl fun c => { c with rwperm := v.setWidth 6 }
  | 0x18E => s.onHart fun h => { h with pair := { h.pair with mism := bits v.toNat 31 16, mat := bits v.toNat 63 32 } }
  | 0x18F => s.onHart fun h => { h with rep := { h.rep with
      en := v.getLsbD 0, rstl2 := v.getLsbD 1, rsttlb := v.getLsbD 2, save := BitVec.ofNat 32 (bits v.toNat 47 16) } }
  | 0x190 => s.onHart fun h => { h with rep := { h.rep with mismatch := h.rep.mismatch && !v.getLsbD 10, ovf := h.rep.ovf && !v.getLsbD 11 } }
  | _ =>
    if num < 0x038 then s
    else if num < 0x03C then s.onHart (·.modPerf (num % 4) (·.select v))
    else if num < 0x100 then s.onHart (·.modPerf (num % 4) (·.load v))
    else if num < 0x180 then s.onHart fun h => { h with kb := h.kb.write (num - 0x100) v }
    else if num < 0x200 then s
    else s.onHart fun h => { h with fb := h.fb.write (num - 0x200) v }

/-- A write: the refusals of the register's own map, its waits, and its effect (14 R334). -/
def State.ctlWrite (s : State) (i : Instr) (num : Nat) (v : Word) : R State := do
  if num = 0x184 then
    if v.toNat % 4 = 0 ∨ bits v.toNat 5 2 ≠ s.hart.ctx then s.needLevel i .f
    guardTrap (v.toNat % 4 != 3) s 0x07 (w64 num) 0
    s.shootdown (invalOf v.toNat) id
  else if num = 0x180 then s.shootdown (.context s.hart.ctx) fun s => s.setRoot s.hart.ctx v
  else if num = 0x18B then
    guardTrap (!(s.taskQ s.hart.ctx s.hart.ctl.tqsel.toNat).holds) s 0x22 v (w64 0x800)
    .ok (s.setQueue s.hart.ctx s.hart.ctl.tqsel.toNat v)
  else if num = 0x191 then s.loadRequest v
  else .ok (s.ctlStore num v)

end Sys2Proof.Machine
end

