-- ==== Sys2Proof/Machine/System.lean ====
section
/-! DEFINITION. The system instructions (14 R332 to R334, R340 to R355): control registers, TRAP, BREAK, ERET, WFI, SAFEPT, TIME, OPREQ,
MIGRATE, pairing, error injection, replay, CTX.SET. -/

namespace Sys2Proof.Machine

/-! ## Control registers -/

/-- A once-performed read in a paired stream is any but those of 0x010 to 0x029 (14 R347). -/
def onceRead (num : Nat) : Bool := !(decide (0x010 ≤ num) && decide (num ≤ 0x029))

/-- R334: CTL.RD. -/
def execCtlRd (n : Fin 4) (a : CReg) (num : Fin 4096) (s : State) : Out :=
  complete do
    guardTrap (ctlExists s.miller num.val) s 0x07 (w64 num.val) 0
    s.needCtl (.ctlRd n a num) (ctlReadNeed num.val)
    let once := onceRead num.val
    let s ← if once then s.pairGate else .ok s
    let t := (s.setX a (s.ctlValue num.val)).retire { s := n, maj := 0x3D }
    .ok (if once then t.pairOnce else t)

/-- R334: CTL.WR. -/
def execCtlWr (n : Fin 4) (b : CReg) (num : Fin 4096) (s : State) : Out :=
  complete do
    guardTrap (ctlExists s.miller num.val) s 0x07 (w64 num.val) 0
    s.needCtl (.ctlWr n b num) (ctlWriteNeed num.val)
    s.readyC [b]
    let v := s.ra b
    let s ← s.ctlWrite (.ctlWr n b num) num.val v
    .ok ((s.onHart (·.note [v, w64 (0x1000 + num.val)])).retire { s := n, maj := 0x3D })

/-- R340: TIME. -/
def execTime (n : Fin 4) (a : CReg) (s : State) : Out :=
  complete do
    s.needPerm (.time n a) 0
    let s ← s.pairGate
    .ok (((s.setX a s.time).retire { s := n, maj := 0x3D }).pairOnce)

/-- R345: OPREQ. -/
def execOpreq (n : Fin 4) (b : CReg) (s : State) : Out :=
  complete do
    s.needPerm (.opreq n b) 2
    s.readyC [b]
    .ok ((s.writeOpreq (s.ra b)).retire { s := n, maj := 0x3D })

/-- R344: CTX.SET. -/
def execCtxSet (n : Fin 4) (b : CReg) (s : State) : Out :=
  complete do
    s.needLevel (.ctxSet n b) .k
    s.readyC [b]
    s.capSource b false
    let x := s.rc b
    let c := s.hart.ctl
    .ok ((s.modCtx s.hart.ctx fun k => { k with wakeC3 := x, wakeRound := c.round, wakeFlush := c.flush }).retire { s := n, maj := 0x3D })

/-! ## Traps and returns (14 R332, R333) -/

/-- R332: TRAP raises TRAP_CALL; EPC names the next instruction. -/
def execTrap (_n : Fin 4) (imm : Fin 256) (s : State) : Out :=
  match s.notInSlot with
  | .error e => complete (.error e)
  | .ok () => .next (s.trapAfter 0x06 (w64 imm.val) 0 false s.hart.seqPc)

/-- R332: BREAK raises BREAKPOINT at itself. -/
def execBrk (_n : Fin 4) (imm : Fin 256) (s : State) : Out :=
  complete do
    s.notInSlot
    raise s 0x05 (w64 imm.val) 0

/-- R333: ERET. -/
def execEret (n : Fin 4) (s : State) : Out :=
  complete do
    s.notInSlot
    s.needLevel (.eret n) .k
    .ok ((s.retire { s := n, maj := 0x3D }).onHart (·.eret))

/-- R196: an instruction that decode refuses traps with its REASON. -/
def execIllegalInstruction (reason : Fin 5) (head : BitVec 16) (tail : BitVec 64) (s : State) : Out :=
  complete (raise s 0x00 (w64 (head.toNat + tail.toNat % 2 ^ 48 * 0x10000)) (w64 (0x100 * reason.val)))

/-! ## Safe points and waiting (14 R341, R342; 15 R361) -/

/-- A preemption or a migration of the hart is pending. -/
def State.stopPending (s : State) : Bool :=
  s.hart.migrateTo.isSome || ((s.gang? s.hart.gang).map (·.st)) == some .stopping

/-- R342: SAFEPT has no effect unless a stop is pending, at which the hart waits to be stopped; nor in a delay slot. -/
def execSafept (n : Fin 4) (map : Fin 4096) (s : State) : Out :=
  complete do
    if s.hart.slot.isNone && s.stopPending then .error (.wait true 0x10 (s.onHart fun h => { h with atSafept := some (map.val, n.val) }))
    else .ok ((s.onHart fun h => { h with atSafept := none }).retire { s := n, maj := 0x3D })

/-- R341: WFI waits for an event at any level. -/
def execWfi (n : Fin 4) (s : State) : Out :=
  complete do
    if !(s.hart.pending s.time).isEmpty || s.stopPending then .ok ((s.onHart fun h => { h with wfi := false }).retire { s := n, maj := 0x3D })
    else .error (.wait true 0x10 (s.onHart fun h => { h with wfi := true }))

/-! ## Migration requests (14 R346) -/

/-- MIGRATED (14 R346). -/
def migrated {α : Type} (s : State) (reason : Nat) (val : Word) : R α := raise s 0x34 val (w64 (0x100 * reason))

/-- R346: MIGRATE. -/
def execMigrate (n : Fin 4) (a b : CReg) (s : State) : Out :=
  complete do
    s.needLevel (.migrate n a b) .k
    s.readyC [a, b]
    let l := (s.ra a).toNat
    let t := (s.ra b).toNat
    if s.hart.size ≤ l then domainTrap s 6 t
    match (s.gang? s.hart.gang).bind fun g => g.cores[l]? with
    | none => domainTrap s 6 t
    | some core =>
      let h := s.hartAt core
      if s.hart.id.gangsz.getLsbD 14 || decide (4096 ≤ t) || dieOf t != dieOf core then migrated s 1 (s.ra b)
      if s.coreBusy t || (s.cores.any fun c => c != core && (s.hartAt c).migrateTo == some t) || (s.tray (trayOf t)).wd then migrated s 2 (s.ra b)
      if h.pair.on then migrated s 3 (s.ra b)
      if h.migrateTo.isSome then migrated s 4 (s.ra b)
      .ok ((s.modHart core fun h => { h with migrateTo := some t }).retire { s := n, maj := 0x3D })

/-! ## Pairing (14 R347) -/

/-- Pairing state of the two cores of a pair as a stream begins. -/
def Pair.begin (p : Pair) (odd : Bool) : Pair :=
  { p with on := true, odd := odd, run := 0, waiting := false, result := none, notes := [], held := [], acts := [], flushing := false, got := none, off := false, loads := [], count := 0, differs := false, due := false }

/-- Pairing state after PAIR.OFF. -/
def Pair.stop (p : Pair) : Pair :=
  { p with on := false, odd := false, run := 0, notes := [], held := [], acts := [], flushing := false, got := none, off := false, loads := [], count := 0, differs := false, due := false }

/-- Both harts of a pair have arrived at PAIR.ON: the odd one is parked, the even one goes on with result 0. -/
def State.couple (s : State) (odd : Nat) : State :=
  let h := s.hartAt odd
  let s := s.onMod fun m => { m with parkedPair := tset m.parkedPair odd h }
  let s := s.modHart odd fun h => { h with place := .parked, waiting := false, safeWait := false, asy := [], pend := [], streams := [], pair := h.pair.begin true }
  s.modHart (odd - 1) fun h => { h with pair := { h.pair.begin false with result := some 0 } }

/-- The odd core takes its parked state back, with what its units hold by now, and finishes its PAIR.ON with result 2. -/
def State.unpark (s : State) (odd : Nat) : State :=
  match tget? s.m.parkedPair odd with
  | none => s
  | some o =>
    let x := s.hartAt odd
    (s.setHartAt odd { o with
      place := .placed, sb := x.sb, posted := x.posted, cpq := x.cpq, mx := x.mx, asy := o.asy ++ x.asy, clock := max o.clock x.clock, cyc := max o.cyc x.cyc
      waiting := false, safeWait := false
      pair := { x.pair.stop with result := some 2, waiting := false } }).onMod fun m => { m with parkedPair := tdel m.parkedPair odd }

/-- Finish PAIR.ON with a result; a stream that begins has its first checkpoint behind it (16 R393). -/
def State.pairResult (s : State) (n : Fin 4) (a : CReg) (x : Word) : State :=
  let t := ((s.onHart fun h => { h with pair := { h.pair with waiting := false, result := none } }).setX a x).retire { s := n, maj := 0x3D }
  if t.hart.pair.on then t.checkpoint else t

/-- R347: PAIR.ON. -/
def execPairOn (n : Fin 4) (a : CReg) (s : State) : Out :=
  complete do
    if s.miller then illegalInsn s (.pairOn n a) 4
    s.needPerm (.pairOn n a) 3
    match s.hart.pair.result with
    | some r => .ok (s.pairResult n a (w64 r))
    | none =>
      if s.hart.pair.on then .ok ({ s with tick := s.tick + 1 }.pairResult n a (Config.freePairOn s.tick))
      else
        let other := s.cur ^^^ 1
        let o := s.hartAt other
        if o.gang != s.hart.gang || o.place == .idle || o.place == .halted then .ok (s.pairResult n a 1)
        else if o.place == .placed && o.pair.waiting then
          let odd := s.cur ||| 1
          let t := s.couple odd
          if s.cur = odd then .error (.wait true 0x10 t) else .ok (t.pairResult n a 0)
        else .error (.wait true 0x10 (s.onHart fun h => { h with pair := { h.pair with waiting := true } }))

/-- R347: PAIR.OFF closes the interval, be it empty; a mismatch runs it again first, and what the interval held is performed before the
pair parts. -/
def execPairOff (n : Fin 4) (s : State) : Out :=
  complete do
    s.needPerm (.pairOff n) 3
    if !s.hart.pair.on then .ok (s.retire { s := n, maj := 0x3D })
    else if !s.hart.pair.off && (s.hart.pair.inject || s.hart.pair.differs) then .ok s.exchange
    else
      let s := if s.hart.pair.off then s else s.exchange
      guardWait (!s.hart.pair.flushing) false (s.onHart fun h => { h with pair := { h.pair with off := true } })
      let s := (s.onHart fun h => { h with pair := h.pair.stop }).onMod fun m => { m with checkpoint := tdel m.checkpoint s.cur }
      .ok ((s.unpark (s.cur ^^^ 1)).retire { s := n, maj := 0x3D })

/-! ## Error injection (14 R355) -/

/-- The HBM location an address translates to for kinds 3 and 4; a walk that fails traps with PAGE_LOAD. -/
def State.injectAt (s : State) (desc a : Word) : R (State × Nat) :=
  if inSpan a then handleState s 12 desc
  else
    match walk s (.walk s.cur) s.hart.clock s.die s.hart.ctx (a55 a) with
    | .error (.fault r l s) => raise s 0x16 a (einfo 0 s.user 0 r l 0)
    | .error (.ue site sub addr inj s) => ueStop s 0 site sub addr inj a
    | .error (.wait s) => .error (.wait false 0x10 s)
    | .ok (s, e, _) =>
      let pa := leafPa e (a55 a)
      if paHbm pa && paBacked pa then .ok (s, paKey s.m pa) else handleState s 12 desc

/-- The L1 location of an address through its window, for kinds 0 and 2. -/
def State.injectL1 (s : State) (a : Word) : Option Nat :=
  if inSpan a then
    match window s.cur s.hart.ctl.nearctl a.toNat with
    | .ok t => some (t.key s.m 0)
    | .error _ => none
  else none

/-- KIND 0: flip one bit of an L1 word, outside every check; the word's code finds it at the next access (16 R379; log 30). -/
def State.flipBit (s : State) (k bitNo : Nat) : State :=
  s.onMod fun m => { m with flips := tmod 0 m.flips (k / 8) (· ^^^ BitVec.ofNat 64 (2 ^ bitNo)) }

/-- KIND 2: flip one bit of F0 of a tile's row record. -/
def State.flipFacet (s : State) (hearth : Nat) (t : Tile) (row bitNo : Nat) : State :=
  s.onMod fun m => { m with flipF := tmod 0 m.flipF (flipKey hearth (t.run + row)) (· ^^^ BitVec.ofNat 32 (2 ^ bitNo)) }

/-- KIND 3: poison an HBM sector, first written back and dropped from the L2. -/
def State.poisonSector (s : State) (k : Nat) : State :=
  (s.l2Drop k).onMod fun m => { m with poisonS := sadd m.poisonS (k / 64), injS := sadd m.injS (k / 64) }

/-- The next MX.MMA that the hart's queue dispatches has accumulator elements of 32 bits (14 R355); none is queued, or it is of CI32:
then a bit of 32 and above stays planted (log 30). -/
def Hart.narrowNext (h : Hart) : Bool :=
  match h.mx.queue.find? (fun c => c.kind == .mma && (c.stage == .queued || c.stage == .eligible || c.stage == .ready)) with
  | some c => c.afmt != 0x09
  | none => false

/-- Plant the error that a descriptor names. -/
def State.plant (s : State) (desc a : Word) : R State :=
  let d := desc.toNat
  let b := bits d 9 4
  let row := bits d 15 10
  let bad : R State := handleState s 12 desc
  if d / 0x400000 ≠ 0 then bad
  else
    match d % 16 with
    | 0 => match s.injectL1 a with
      | some k => .ok (s.flipBit k b)
      | none => bad
    | 1 => if s.miller || (decide (32 ≤ b) && s.hart.narrowNext) then bad else .ok (s.onHart fun h => { h with mx := { h.mx with inj := some (b, row, bits d 21 16) } })
    | 2 => match s.injectL1 a with
      | some k =>
        match (s.hearth (keyHearth k)).tileAt (keyOff k) with
        | some (_, t) => if b < 32 ∧ row < t.rows then .ok (s.flipFacet (keyHearth k) t row b) else bad
        | none => bad
      | none => bad
    | 3 => match s.injectAt desc a with
      | .ok (s, k) => .ok (s.poisonSector k)
      | .error e => .error e
    | 4 => match s.injectAt desc a with
      | .ok (s, k) => .ok (s.logErr (0x300 + keyCh k) 0 2 (keyL k / 1024 % 16) (hbmPa k) 0 0xFF true)
      | .error e => .error e
    | 5 => .ok (s.onHart fun h => { h with pair := { h.pair with inject := true } })
    | _ => bad

/-- R355: ERRINJ. -/
def execErrinj (n : Fin 4) (a b : CReg) (s : State) : Out :=
  complete do
    s.needPerm (.errinj n a b) 5
    s.readyC [a, b]
    let c := s.rc a
    s.capUse c a.val c.addr 0 0
    let s ← s.plant (s.ra b) c.addr
    .ok (s.retire { s := n, maj := 0x3D })

/-! ## Replay (14 R351 to R354) -/

/-- The save area lies wholly in backed HBM. -/
def Replay.backed (r : Replay) : Bool :=
  (List.range 64).all fun i => let pa := (r.save.toNat + i) * 0x10000; paHbm pa && paBacked pa && paBacked (pa + 0xFFFF)

/-- A replay instruction in one of the states it may run in; what else it needs. -/
def State.replayOk (s : State) (phases : List Nat) : R Unit :=
  guardTrap (phases.contains s.hart.rep.phase && s.hart.rep.en && s.hart.rep.backed) s 0x22 0 (w64 (0x100 * 13))

/-- The waits of REPLAY.BEGIN and REPLAY.AGAIN: FENCE.E and a full fence at SYSTEM scope. -/
def State.replayWait (s : State) : R State := do
  let s := s.flushWindow s.cur
  let s ← if !s.hart.pair.held.isEmpty then s.pairGate else .ok s
  guardWait (s.enginesDone && s.hart.performed) false s
  .ok s

/-- The resets of REPLAYCTL (14 R351). -/
def State.replayReset (s : State) : State :=
  let r := s.hart.rep
  let die := s.die
  let s := if r.rstl2 then s.onMod fun m => { m with l2 := m.l2.filter fun e => e.1 / 0x800000 / 64 != die } else s
  if r.rsttlb then (s.invalidate (.context s.hart.ctx)).onHart (·.forgetFetch) else s

/-- A pass opens. -/
def Replay.open (r : Replay) : Replay := { r with phase := 1, crc := 0xFFFFFFFF, count := 0 }

/-- Change the replay state. -/
def State.modRep (s : State) (f : Replay → Replay) : State := s.onHart fun h => { h with rep := f h.rep }

/-- R352: REPLAY.BEGIN. -/
def execReplayBegin (n : Fin 4) (s : State) : Out :=
  complete do
    s.needPerm (.replayBegin n) 4
    s.replayOk [0]
    let s ← s.replayWait
    .ok ((s.replayReset.retire { s := n, maj := 0x3D }).modRep fun r => { r.open with pages := [], pass := 1, mismatch := false, ovf := false })

/-- R352: REPLAY.AGAIN. -/
def execReplayAgain (n : Fin 4) (s : State) : Out :=
  complete do
    s.needPerm (.replayAgain n) 4
    s.replayOk [2]
    let s ← s.replayWait
    let s := s.hart.rep.pages.zipIdx.foldl (fun s p => s.restorePage s.cur p.2 p.1) s
    .ok ((s.replayReset.retire { s := n, maj := 0x3D }).modRep fun r => { r.open with pass := r.pass + 1 })

/-- The signature of the open pass (14 R354). -/
def Replay.signature (r : Replay) : BitVec 32 := ~~~(crcWord r.crc (w64 r.count))

/-- R352: REPLAY.END. -/
def execReplayEnd (n : Fin 4) (a : CReg) (s : State) : Out :=
  complete do
    s.needPerm (.replayEnd n a) 4
    s.replayOk [1]
    let g := s.hart.rep.signature
    let s := s.modRep fun r =>
      if r.pass = 1 then { r with phase := 2, sig := g } else { r with phase := 2, mismatch := r.mismatch || r.sig != g }
    .ok ((s.setX a (g.setWidth 64)).retire { s := n, maj := 0x3D })

/-- R352: REPLAY.DONE. -/
def execReplayDone (n : Fin 4) (s : State) : Out :=
  complete do
    s.needPerm (.replayDone n) 4
    s.replayOk [1, 2]
    .ok ((s.modRep fun r => { r with phase := 0, pages := [] }).retire { s := n, maj := 0x3D })

end Sys2Proof.Machine
end

