-- ==== Sys2Proof/Machine/Held.lean ====
section
/-! DEFINITION. What a paired stream has held, once its interval has matched (14 R347; 16 R393, R395). -/

namespace Sys2Proof.Machine

/-- A held entry other than a store is performed: with its result, where its instruction waits for one. -/
def State.performAct (s : State) (a : HeldAct) : R (State × Option Nat) :=
  let plain (x : R State) : R (State × Option Nat) := do let s ← x; .ok (s, none)
  let result (x : R (State × Nat)) : R (State × Option Nat) := do let (s, n) ← x; .ok (s, some n)
  match a with
  | .wake x => plain (s.doWake x)
  | .send x => plain (s.doSend x)
  | .spawn hearth r => result (s.doSpawn hearth r)
  | .launch l launcher => result (s.doLaunch l launcher)
  | .copy c => plain (s.doCopy c)
  | .matrix c segs => plain (s.mxAccept c segs)
  | .bind v c write start len segs => result (s.doBind v c write start len segs)

/-- The next held entries of the hart whose turn it is are performed, in order: the stores before the next act, then the act, which may
wait; with the last of them the next interval begins (16 R395). -/
def State.heldTurn (s : State) : State :=
  let p := s.hart.pair
  let k := ((p.acts.head?).map (·.1)).getD p.held.length
  let s := s.onHart fun h => { h with
    sb := h.sb ++ p.held.take k, waiting := false
    pair := { h.pair with held := p.held.drop k, acts := p.acts.map fun e => (e.1 - k, e.2) } }
  match p.acts with
  | [] => s.checkpoint.mirror
  | (_, a) :: _ =>
    match s.performAct a with
    | .ok (s, r) => s.onHart fun h => { h with pair := { h.pair with acts := h.pair.acts.drop 1, got := r.or h.pair.got } }
    | .error (.wait _ _ t) => t.onHart fun h => { h with waiting := true }
    | .error (.trap _ _ _ _) => s.onHart fun h => { h with pair := { h.pair with acts := h.pair.acts.drop 1 } }

end Sys2Proof.Machine
end

