-- ==== Sys2Proof/Machine/Turn.lean ====
section
/-! DEFINITION. Whose turn it is and what it does (08 R169; log 4): an event of a unit, or one instruction of a hart, with the
boundary before it (16 R374, R375) and its fetch (09 R192, R193, 16 R377). -/

namespace Sys2Proof.Machine

/-- What a turn does: it is over, or an instruction or event runs. -/
inductive Next where
  | ended (s : State)
  | run (i : Instr) (s : State)

/-- A fetch fault at the entry of a handler (16 R377): from level K a TRAP_NEST into level F; at level F the hart freezes, with a
record of SEV 3 and an event to the host. -/
def State.entryFault (s : State) (orig : Nat) : State :=
  if s.hart.lvl = .f then
    let s := s.logErr (unitOf s.cur) 3 9 (if s.miller then 0 else s.cur % 8) 0 0 orig false
    (s.onHart fun h => { h with place := .frozen }).hostEvent s.hart.ctx [orig]
  else s.trapAfter 0x54 s.hart.pc (w64 (orig + 0x100)) false s.hart.pc

/-- The instruction at the PC among the bytes of its line. -/
def State.runLine (s : State) (line : Nat) : Next :=
  let s := s.onHart fun h => { h with hc := lineHC line, insn := some line, trapEntryOf := none }
  let (head, tail) := lineInsn line (s.hart.pc.toNat / 2 % 32)
  match decode s.miller head tail with
  | .ok i => .run i s
  | .error r => .run (.illegalInstruction (Fin.ofNat 5 r) (BitVec.ofNat 16 head) (BitVec.ofNat 64 tail)) s

/-- The line of an instruction that waits. -/
def Hart.heldLine (h : Hart) : Option Nat := if h.waiting then h.insn else none

/-- The instruction at the PC: fetched, checked and decoded (09 R192, R193, R196). -/
def State.fetchTurn (s : State) : Next :=
  match s.hart.heldLine with
  | some line => s.runLine line
  | none =>
  match s.fetchPc s.hart.pc s.hart.fetchReg with
  | .error e =>
    match s.hart.trapEntryOf, e with
    | some orig, .trap _ _ _ s' => .ended (s'.entryFault orig)
    | _, .trap c v i s' => .ended (s'.trap c v i)
    | _, .wait safe ev s' => .ended ((s'.waits safe ev).onHart fun h => { h with insn := none })
  | .ok (s, line) => s.runLine line

/-- A boundary lies before the next instruction: not between a branch and its slot (09 R207), nor before a TASK.TAKE to which a
record has been dispensed, nor before a WFI that an event ends (14 R341), nor while the entries of a store still enter the buffer
(11 R259), a tile check runs (07 R157), a PAIR.ON or PAIR.OFF has taken effect or a held instruction waits for its result (14 R347): they
end first. -/
def State.boundary (s : State) : Option Async :=
  if s.hart.pair.result.isNone && s.hart.pair.got.isNone && !s.hart.pair.off && s.hart.slot.isNone && s.hart.sync.given.isNone && !s.hart.wfi && s.hart.entering.isNone && s.hart.checking.isNone then s.hart.pick s.time else none

/-- A hart's turn: a pending asynchronous cause at a boundary, which in a paired stream first closes the interval (16 R393,
R395), or its next instruction. A hart that is not placed, or is being moved, does nothing. -/
def State.hartTurn (s : State) : Next :=
  if s.hart.place != .placed || s.hart.moving then .ended s
  else if s.hart.pair.flushing then .ended s.heldTurn
  else if s.exchangeDue then .ended s.exchange
  else
    match s.boundary with
    | some a => .ended (if s.hart.pair.on && s.hart.pair.begun then s.exchange else s.takeAsync a s.hart.pc)
    | none => s.fetchTurn

/-- The next placed hart after a core, counting cyclically. -/
def State.nextHart (s : State) : Nat :=
  let l := s.cores.filter fun n => (s.hartAt n).place == .placed && !(s.hartAt n).moving
  match l.find? (fun n => decide (s.cur < n)) with
  | some n => n
  | none => l.headD s.cur

end Sys2Proof.Machine
end

