-- ==== Sys2Proof/Machine/Units.lean ====
section
/-! DEFINITION. Events of the memory system and of the units around a hart: writes of registers that units hold (01 R19, R32, R38, R39;
08 R184; 16 R384, R387, R392; 18 R422), fetch and trap entry (09 R192, 16 R376), the store buffer and remote accesses (02 R60, 04 R89),
bank grants (02 R46 to R57), page walks, L2 and refresh (01 R33, 03 R75 to R84), errors (16 R379) and the Garnet log (16 R386). -/

namespace Sys2Proof.Machine

/-! ## Writes of registers that units hold -/

/-- A shootdown begins unless one is under way (01 R39). -/
def State.tlbinv (s : State) (v : Inval) : Option State := if s.m.shoot.isSome then none else some (s.shootBegin v)

/-- TLBINV KIND 0 (01 R38). -/
def execTlbinvAll (s : State) : Out := eventOf true (s.tlbinv .all) s

/-- TLBINV KIND 1 (01 R38). -/
def execTlbinvContext (ctx : Nat) (s : State) : Out := eventOf (decide (ctx < 16)) (s.tlbinv (.context ctx)) s

/-- TLBINV KIND 2 (01 R38). -/
def execTlbinvPages (ctx page count : Nat) (s : State) : Out := eventOf (decide (ctx < 16)) (s.tlbinv (.pages ctx page count)) s

/-- A unit's accesses under removed entries are performed (01 R39): a copy engine has written every byte whose location it had found, and
a Miller has no store on its way. -/
def State.unitDone (s : State) (unit : Nat) : Bool :=
  if unit < 768 then s.m.ops.all fun o => o.1 / 32 != unit || (o.2.restMeta.isEmpty && o.2.dels.all (·.rest.isEmpty))
  else if 1280 ≤ unit ∧ unit < 1536 then (s.hartAt (4096 + (unit - 1280))).performed && (s.hartAt (4096 + (unit - 1280))).entering.isNone
  else true

/-- SHOOTDOWN_ACK (01 R39): the last acknowledgement ends the shootdown. -/
def State.shootAck (s : State) (unit : Nat) : Option State :=
  match s.m.shoot with
  | none => none
  | some x =>
    if !x.units.contains unit || !s.unitDone unit then none
    else
      let s := if 1536 ≤ unit ∧ (s.hartAt (unit - 1536)).utlb ≠ [] then s.modHart (unit - 1536) (·.invalidate x.what) else s
      let left := x.units.filter (· != unit)
      some (s.onMod fun m => { m with shoot := if left.isEmpty then none else some { x with units := left } })

/-- SHOOTDOWN_ACK. -/
def execShootdownAck (unit : Nat) (s : State) : Out := eventOf (decide (unit < ackUnits)) (s.shootAck unit) s

/-- A write of PTROOT (01 R32). -/
def execPtrootWrite (ctx : Nat) (v : Word) (s : State) : Out :=
  eventOf (decide (ctx < 16)) ((s.setRoot ctx v).tlbinv (.context ctx)) s

/-- A write of L1RTVAL (01 R19). -/
def execL1rtvalWrite (ctx idx : Nat) (v : Word) (s : State) : Out :=
  eventOf (decide (ctx < 16) && decide (idx < 32)) (some (s.setRegion ctx idx v)) s

/-- A write of TQCFG (08 R184): refused while the queue holds records. -/
def execTqcfgWrite (ctx hearth : Nat) (v : Word) (s : State) : Out :=
  eventOf (decide (ctx < 16) && decide (hearth < 4)) (if (s.taskQ ctx hearth).holds then none else some (s.setQueue ctx hearth v)) s

/-- A write of LDREQ reaches the loader (18 R422). -/
def execLdreqWrite (ctx : Nat) (line : Word) (s : State) : Out :=
  let line := line &&& ~~~(0x3F#64)
  eventOf (decide (ctx < 16)) (if s.wanted ctx line then some (s.onMod fun m => { m with
    ldreqs := m.ldreqs ++ [{ stamp := m.mxStamp, hart := 4352, ctx := ctx, line := line }], mxStamp := m.mxStamp + 1 }) else none) s

/-- A write of the whole of WDMAP (16 R387). -/
def execWdmapWrite (atF : Bool) (v : BitVec 512) (s : State) : Out := eventOf true (some (s.wdWrite atF (2 ^ 512 - 1) v.toNat)) s

/-- A write of ROLLCMD (16 R392). -/
def execRollcmdWrite (gang : Nat) (s : State) : Out := eventOf true (some (s.rollRelaunch (gang % 4096))) s

/-- A write of ACK of an error bank (16 R384). -/
def execErrorBankAck (unit : Nat) (v : Word) (s : State) : Out :=
  eventOf (decide (unit ≤ 0x51B)) (some (s.onMod fun m => { m with banks := tmod {} m.banks unit (·.ack v.toNat) })) s

/-! ## Fetch and trap entry of the hart whose turn it is -/

/-- LINE_FETCH (09 R190, R192): of the PC's line, with what follows from a fault; of another line, which is then kept, without. -/
def State.lineFetch (s : State) (va : Word) : Option State :=
  if s.hart.place != .placed then none
  else if va.toNat / 64 = s.hart.pc.toNat / 64 then
    match s.fetchPc s.hart.pc s.hart.fetchReg, s.fetchTurn with
    | .ok (s, line), _ => some (s.onHart fun h => { h with hc := lineHC line })
    | .error _, .ended s => some s
    | .error _, .run _ s => some s
  else
    match s.fetchLine va 0 with
    | .ok (s, _) => some s
    | .error _ => none

/-- LINE_FETCH. -/
def execLineFetch (va : Word) (s : State) : Out := eventOf true (s.lineFetch va) s

/-- TRAP_ENTRY (16 R374 to R376): a paired stream first closes its interval. -/
def State.trapEntry (s : State) : Option State :=
  if s.hart.place != .placed || s.hart.pair.on && s.hart.pair.begun then none
  else s.boundary.map fun a => s.takeAsync a s.hart.pc

/-- TRAP_ENTRY. -/
def execTrapEntry (s : State) : Out := eventOf true s.trapEntry s

/-! ## Store buffer and remote accesses (02 R60, 04 R89, R90) -/

/-- STORE_BUFFER_DRAIN. -/
def execStoreBufferDrain (hart : Nat) (s : State) : Out :=
  eventOf (hartExists hart) (if (s.hartAt hart).canDrain then some (s.drainOne hart) else none) s

/-- Posted store number i of a core may be performed: no older one overlaps it (04 R87), and to a device register no older one goes
to a device register (03 R77); a release is performed after every older one (04 R95). -/
def State.postedAt (s : State) (n i : Nat) : Option SbEntry :=
  let l := (s.hartAt n).posted
  l[i]?.bind fun e => if (e.rel && i != 0) || (l.take i).any (fun o => o.overlaps (e.cells.map (·.1)) || (o.device && e.device)) then none else some e

/-- The hart on a core without posted store i. -/
def State.dropPosted (s : State) (n i : Nat) : State := s.modHart n fun h => { h with posted := h.posted.eraseIdx i }

/-- The range-lock check of a posted store at its target, made as it arrives there: before any of it is performed (02 R60, R63). -/
def State.postedLocked (s : State) (e : SbEntry) : Bool := e.done == 0 && (s.lockHit (e.cells.map (·.1))).isSome

/-- The limit of a posted store has passed (02 R60). -/
def State.overdue (s : State) (e : SbEntry) : Bool := e.limit != 0 && decide (e.issued + e.limit * (256 * mclkUnits) ≤ s.m.now)

/-- A hart's posted stores with number i as it then stands, none once it is performed whole. -/
def Hart.putPosted (h : Hart) (i : Nat) (e : SbEntry) : Hart :=
  { h with posted := if e.over then h.posted.eraseIdx i else h.posted.mapIdx fun j x => if j = i then e else x }

/-- REMOTE_RESPONSE: within its limit, the next pieces of a posted store are performed at its target, and with the last it is
acknowledged. -/
def State.remoteResponse (s : State) (n i : Nat) : Option State :=
  (s.postedAt n i).bind fun e =>
    if s.overdue e || s.postedLocked e || !s.answers e then none else s.entryTurn n e fun e h => h.putPosted i e

/-- REMOTE_RESPONSE. -/
def execRemoteResponse (hart n : Nat) (s : State) : Out := eventOf (hartExists hart) (s.remoteResponse hart n) s

/-- REMOTE_TIMEOUT: a posted store is not acknowledged within the limit of its issue, whatever it waits for; whether it was performed is
open, where it could be. -/
def State.remoteTimeout (s : State) (n i : Nat) : Option State :=
  (s.hartAt n).posted[i]?.bind fun e =>
    if !s.overdue e then none
    else
      let t := s.dropPosted n i
      let t := { t with tick := t.tick + 1 }
      let able := (s.postedAt n i).isSome && !s.postedLocked e && !s.entryWaits e && s.answers e
      let t := if Config.freePerformed s.tick && able then t.perform n e else t
      some (t.modHart n fun h => { h with asy := h.asy ++ [e.report 0x1A 2 0 e.hearth] })

/-- REMOTE_TIMEOUT. -/
def execRemoteTimeout (hart n : Nat) (s : State) : Out := eventOf (hartExists hart) (s.remoteTimeout hart n) s

/-- REMOTE_STORE_REFUSED: the range-lock check at the target refuses a posted store. -/
def State.remoteRefused (s : State) (n i : Nat) : Option State :=
  (s.postedAt n i).bind fun e => if s.postedLocked e && !s.overdue e then some ((s.dropPosted n i).arrive n e) else none

/-- REMOTE_STORE_REFUSED. -/
def execRemoteStoreRefused (hart n : Nat) (s : State) : Out := eventOf (hartExists hart) (s.remoteRefused hart n) s

/-! ## Banks (02 R45 to R57) -/

end Sys2Proof.Machine

namespace Sys2Proof

/-- A plain access, which may merge (02 R47). -/
def BankOp.isPlain : BankOp → Bool
  | .load => true
  | .store _ => true
  | _ => false

/-- The request is one that a bank serves (02 R45, R53, R56). One that comes down enters by the block port, through its own quadrant's
stage and its own block's switch (02 R48; log 61). -/
def BankReq.valid (r : BankReq) : Bool :=
  (match r.up with
    | [] => true
    | [b] => r.input == 10 && decide (b < 8)
    | [b, q] => r.input == 10 && b == bits r.off 11 9 && decide (q < 4)
    | [b, q, t] => r.input == 10 && b == bits r.off 11 9 && q == bits r.off 13 12 && decide (t < 133)
    | _ => false) &&
  match r.op with
  | .load => decide (1 ≤ r.n) && decide (r.off % 8 + r.n ≤ 8)
  | .store _ => decide (1 ≤ r.n) && decide (r.off % 8 + r.n ≤ 8)
  | .amo c _ => (r.n == 4 || r.n == 8) && r.off % r.n == 0 && decide (c ≤ 0xA)
  | .cas _ _ => (r.n == 4 || r.n == 8) && r.off % r.n == 0
  | .capLoad => r.n == 16 && r.off % 16 == 0
  | .capStore _ _ => r.n == 16 && r.off % 16 == 0

/-- The request reads. -/
def BankOp.reads : BankOp → Bool
  | .store _ => false
  | .capStore _ _ => false
  | _ => true

/-- The bank of a request within its Hearth: o[15:3] (02 R45). -/
def BankReq.bank (r : BankReq) : Nat := bits r.off 15 3

end Sys2Proof

namespace Sys2Proof.Machine

/-- Perform an operation on n bytes at locations `keys` for an agent that may write anything its path lets it. -/
def State.bankOp (s : State) (full : Bool) (keys : List Nat) (n : Nat) (op : BankOp) : State :=
  match op with
  | .load => s
  | .capLoad => s
  | .store v => s.writeAny full (keys.zip (splitBytes n v))
  | .amo c v => s.writeAny full (keys.zip (splitBytes n (amoNew c n (s.numAt keys) v)))
  | .cas e v => if s.numAt keys = e % 2 ^ (8 * n) then s.writeAny full (keys.zip (splitBytes n v)) else s
  | .capStore v t => (s.writeAny full (keys.zip (splitBytes n v.toNat))).writeTag (keys.headD 0) t

/-- The first of some requests at or after a rotating arbiter's pointer, by its input numbers below n (02 R48). -/
def rotate (n p : Nat) (l : List (Nat × BankReq)) : Option (Nat × BankReq) :=
  (List.range n).findSome? fun d => l.find? (·.1 == (p + d) % n)

/-- The arbiters above a bank deliver (02 R48): root, quadrant stage and block switch, each the first of the requests that stand at it at
or after its pointer, unless one waits already where it delivers to. The request that comes to the bank, and the pointers. -/
def deliver (bank : Nat) (reqs : List BankReq) (up : Tbl Nat) : Option BankReq × Tbl Nat :=
  let key (l : Nat) : Nat := l * 8192 + bank
  let at0 (l : Nat) : List (Nat × BankReq) := (reqs.filter (·.up.length == l + 1)).map fun r => (r.up.getD l 0, r)
  let down (l : Nat) (here : List (Nat × BankReq)) (own n : Nat) (from0 : Option BankReq × Tbl Nat) : Option BankReq × Tbl Nat :=
    let above := match from0.1 with | some r => [(own, r)] | none => []
    match rotate n (tget 0 from0.2 (key l)) (here ++ above) with
    | some (i, r) => (some r, tset from0.2 (key l) ((i + 1) % n))
    | none => (none, from0.2)
  let own (l : Nat) : Nat := match reqs.head? with | some r => if l = 0 then bits r.off 11 9 else bits r.off 13 12 | none => 0
  let top := if (at0 1).any (·.1 == own 1) then (none, up) else down 2 (at0 2) 133 133 (none, up)
  let mid := if (at0 0).any (·.1 == own 0) then (none, top.2) else down 1 (at0 1) (own 1) 4 top
  if reqs.any fun r => r.input == 10 && r.up.isEmpty then (none, mid.2) else down 0 (at0 0) (own 0) 8 mid

/-- The hart that a request makes wait (02 R48): the core of inputs 0 to 7 of the bank's own Tray, else the one that it names. -/
def bankWaiter (hearth : Nat) (r : BankReq) : Option Nat :=
  if r.input < 8 then some (1024 * hearth + 8 * bits r.off 15 9 + r.input) else r.hart

/-- A cycle of waiting passes for the harts of some requests: event 0x06 at the bank, 0x07 above it (14 R350). -/
def State.countWaits (s : State) (hearth code : Nat) (reqs : List BankReq) : State :=
  (reqs.filterMap (bankWaiter hearth)).foldl (fun s n => s.modHart n fun h => if h.placed then h.count code 1 else h) s

/-- BANK_GRANT (02 R46 to R48, R56): of the requests present at a bank, the first at or after its pointer is granted, with the plain
accesses to its word where it is plain; the group is performed in the arbiter's order, and each read of it gets what its bytes were
before. -/
def State.bankGrant (s : State) (hearth : Nat) (reqs : List BankReq) : Option State :=
  let bank := (reqs.head?.map BankReq.bank).getD 0
  if reqs.isEmpty || !(reqs.all fun r => r.valid && r.bank == bank) then none
  else
    let (low, up) := deliver bank reqs (s.hearth hearth).arbUp
    let here := reqs.filter (·.up.isEmpty) ++ low.toList
    let p := tget 0 (s.hearth hearth).arb bank
    let order := (List.range 11).filterMap fun d => here.find? (·.input == (p + d) % 11)
    match order with
    | [] => none
    | w :: _ =>
      let group := if w.op.isPlain then order.filter fun r => r.op.isPlain && r.off / 8 == w.off / 8 else [w]
      let keys (r : BankReq) : List Nat := keysFrom (l1Key hearth r.off) r.n
      let s := s.scrub (group.flatMap keys)
      let got := (group.filter (·.op.reads)).map fun r => (r.input, s.numAt (keys r))
      let s := group.foldl (fun s r => s.bankOp false (keys r) r.n r.op) s
      let s := s.countWaits hearth 0x06 (here.filter fun r => !(group.contains r))
      let s := s.countWaits hearth 0x07 (reqs.filter fun r => !r.up.isEmpty && !(low == some r))
      some (s.modHearth hearth fun h => { h with arb := tset h.arb bank ((w.input + 1) % 11), arbUp := up, answers := tset h.answers bank got })

/-- BANK_GRANT. -/
def execBankGrant (hearth : Nat) (reqs : List BankReq) (s : State) : Out :=
  eventOf (decide (hearth < 4) && reqs.all fun r => decide (r.input < 11) && decide (r.off + r.n ≤ 0x4000000)) (s.bankGrant hearth reqs) s

/-! ## Host and peer accesses (02 R58; 18 R409, R414) -/

/-- The locations of a host or peer access; none where nothing is there for it. -/
def peerKeys (r : PeerReq) (m : Mod) : Option (List Nat) :=
  if r.hearth < 4 then (if r.off + r.n ≤ 0x4000000 then some (keysFrom (l1Key r.hearth r.off) r.n) else none)
  else if (List.range r.n).all fun i => paBacked (r.off + i) then
    let l := (List.range r.n).map fun i => paKey m (r.off + i)
    if l.all (!isOut ·) then some l else none
  else none

/-- The operation is one that a home performs: its size and alignment (02 R53, R56). -/
def peerValid (r : PeerReq) : Bool :=
  match r.op with
  | .load => decide (1 ≤ r.n) && decide (r.n ≤ 64)
  | .store _ => decide (1 ≤ r.n) && decide (r.n ≤ 64)
  | .amo c _ => (r.n == 4 || r.n == 8) && r.off % r.n == 0 && decide (c ≤ 0xA)
  | .cas _ _ => (r.n == 4 || r.n == 8) && r.off % r.n == 0
  | .capLoad => false
  | .capStore _ _ => false

/-- It reads: a load or an atomic. -/
def peerReads (r : PeerReq) : Bool := match r.op with | .store _ => false | _ => true
/-- It writes. -/
def peerWrites (r : PeerReq) : Bool := match r.op with | .load => false | _ => true

/-- A host or peer access whose checks have passed is performed, or waits at its channel. -/
def State.peerPerform (s : State) (r : PeerReq) (keys : List Nat) : Option State :=
  let whole := r.op != .load
  if !peerReads r && s.writeWaits keys false true then none
  else
    match (s.scrub keys).channelRead .other s.m.now (if peerReads r then keys else []) whole true with
    | (t, false) => moved s t
    | (t, true) => some ((t.l2Sectors keys (peerWrites r) (peerReads r && whole) true).bankOp r.host keys r.n r.op)

/-- The word lanes of a store that arrives at the root (02 R43, R52), ascending; what a load returns leaves the module whole. -/
def peerSplit (r : PeerReq) : List PeerReq :=
  match r.op with
  | .store v => (List.range ((r.off % 8 + r.n + 7) / 8)).map fun i =>
      let lo := max r.off (r.off / 8 * 8 + 8 * i)
      let hi := min (r.off + r.n) (r.off / 8 * 8 + 8 * i + 8)
      { r with off := lo, n := hi - lo, op := .store (v / 256 ^ (lo - r.off) % 256 ^ (hi - lo)) }
  | _ => [r]

/-- The lanes of an accepted access that a turn performs, as many as `splits` says (04 R99); the rest stay on their way. -/
def State.peerLanes (s : State) : Nat → List PeerReq → Option State
  | 0, l => some (s.onMod fun m => { m with peerRest := m.peerRest ++ l })
  | _ + 1, [] => some s
  | n + 1, r :: l =>
    match (peerKeys r s.m).bind (s.peerPerform r) with
    | some t => t.peerLanes n l
    | none => some (s.onMod fun m => { m with peerRest := m.peerRest ++ r :: l })

/-- A lane on its way is performed: its check was made as its access was accepted (02 R63). -/
def State.peerResume (s : State) (r : PeerReq) : Option State :=
  (peerKeys r s.m).bind fun keys => (s.peerPerform r keys).map fun t => t.onMod fun m => { m with peerRest := m.peerRest.erase r }

/-- PEER_ACCESS (02 R58): the comparators' rules hold; a refused write is reported on the host path. A store is performed lane by lane
(02 R43, R52). -/
def State.peerAccess (s : State) (r : PeerReq) : Option State :=
  if !peerValid r then none
  else if s.m.peerRest.contains r then s.peerResume r
  else
    match peerKeys r s.m with
    | none => some (s.hostEvent 0 [0x16, r.off, 0x500])
    | some keys =>
      match if peerWrites r then s.lockHit keys else none with
      | some (entry, reason, h) => some (s.hostEvent 0 [0x19, r.off, reason * 0x100 + entry * 0x100000000 + h * 0x10000000000])
      | none =>
        match if peerReads r then s.marks keys else .pass with
        | .wait _ => none
        | .frozen entry h => some (s.hostEvent 0 [0x21, r.off, entry * 0x100000000 + h * 0x10000000000])
        | .pass =>
          let lanes := peerSplit r
          if lanes.length ≤ 1 then s.peerPerform r keys
          else ({ s with splits := s.splits.tail }).peerLanes (match s.splits with | p :: _ => p.length | [] => lanes.length) lanes

/-- PEER_ACCESS. -/
def execPeerAccess (r : PeerReq) (s : State) : Out := eventOf true (s.peerAccess r) s

/-! ## Page walks, L2 and refresh -/

/-- PAGE_WALK (01 R33, R34): a found leaf is installed on the die, with A and D set in memory; a walk that faults or waits leaves only
what its reads of the tables did. An address in the aperture span is never walked (01 R11). -/
def State.pageWalk (s : State) (die ctx : Nat) (va : Word) (acc : AccKind) : Option State :=
  let a : Acc := match acc with
    | .load => { rd := true }
    | .store => { wr := true }
    | .fetch => { x := true }
  if inSpan va then none
  else
    match translate s .other s.m.now die ctx va a with
    | .ok (s, _) => some s
    | .error (.fault _ _ t) => moved s t
    | .error (.ue _ _ _ _ t) => moved s t
    | .error (.wait t) => moved s t

/-- PAGE_WALK. -/
def execPageWalk (die ctx : Nat) (va : Word) (acc : AccKind) (s : State) : Out :=
  eventOf (decide (die < 4) && decide (ctx < 16)) (s.pageWalk die ctx va acc) s

/-- L2_ACCESS (03 R75, R77): an access at its slice bank; a read that needs its sector becomes pending at the channel. A bank under
refresh keeps a read, and a write that goes past the L2, waiting (03 R83), and no line is replaced while a read of it is pending. -/
def State.l2Event (s : State) (ch l n : Nat) (write far : Bool) : Option State :=
  let k := hbmKey ch l
  let keys := keysFrom k n
  if n = 0 ∨ 64 < l % 64 + n then none
  else if write then (if s.writeWaits keys false (!far) then none else some (s.l2Access k n true false (!far)).1)
  else if keys.all fun i => !s.needsFill i false then some (s.l2Access k n false false (!far)).1
  else if s.bankHeld .other k then moved s ((s.queueAt .other k).stallBegins ch s.m.now)
  else if s.outrun .other k then moved s (s.queueAt .other k)
  else if !far && (s.l2Line (lineKey k) true).isNone then none
  else some ((((s.setReaderWait .other k none).l2Line (lineKey k) (!far)).getD s).modChan ch fun c => { c with reads := sadd c.reads (k / 64) })

/-- A read that waits at its channel for no hart and no engine may go: its bank is under no refresh, and it is the first there. -/
def State.othersGo (s : State) (ch : Nat) : Option Nat :=
  ((s.chan ch).others.find? fun e => !s.bankHeld .other (64 * e.1) && !s.outrun .other (64 * e.1)).map (·.1)

/-- L2_ACCESS. -/
def execL2Access (ch l n : Nat) (write far : Bool) (s : State) : Out :=
  eventOf (decide (ch < 256) && decide (l + n ≤ 0x60000000)) (s.l2Event ch l n write far) s

/-- SECTOR_FILL (03 R75, R76): a pending read's data leave the controller; the sector of its line becomes valid, and poisoned where the
fill carries an uncorrectable error. The data of a read past the L2 stand ready for its reader. -/
def State.sectorFill (s : State) (ch l : Nat) (poisoned : Bool) : Option State :=
  let k := hbmKey ch l
  if !((s.chan ch).reads.contains (k / 64) || s.othersGo ch == some (k / 64)) then none
  else
    let sec := l / 64 % 4
    let s := s.modChan ch fun c => { c with reads := sdel c.reads (k / 64), others := c.others.filter (·.1 != k / 64) }
    let s := if poisoned then s.onMod fun m => { m with poisonS := sadd m.poisonS (k / 64) } else s
    match tget? s.m.l2 (lineKey k) with
    | none => some (s.modChan ch fun c => { c with served := sadd c.served (k / 64) })
    | some ln =>
      if ln.v.getLsbD sec then some s
      else
        let ue := s.m.poisonS.contains (k / 64)
        let s := if ue then s.logFill k else s
        some (s.onMod fun m => { m with l2 := tset m.l2 (lineKey k) { ln with
          v := ln.v ||| BitVec.ofNat 4 (2 ^ sec), poison := if ue then ln.poison ||| BitVec.ofNat 4 (2 ^ sec) else ln.poison } })

/-- SECTOR_FILL. -/
def execSectorFill (ch l : Nat) (poisoned : Bool) (s : State) : Out :=
  eventOf (decide (ch < 256) && decide (l < 0x60000000)) (s.sectorFill ch l poisoned) s

/-- What a controller does at a refresh slot (03 R82, R84); `waits` says that a read which has arrived waits at a bank. An all-bank refresh that the limit forces is in progress from its slot on;
OWED becomes 0 as it starts. -/
def Chan.slot (c : Chan) (waits : Bool) (stamp : Nat) : Chan :=
  let pending := !c.reads.isEmpty || waits
  if c.all || c.allWait then { c with p := (c.p + 1) % 16 }
  else if pending && c.owed == 7 then { c with allWait := true, allAt := stamp, forced := min (c.forced + 1) 255 }
  else if pending then { c with owed := c.owed + 1 }
  else if 0 < c.owed then { c with banks := [c.p, (c.p + 1) % 16].foldl sadd c.banks, p := (c.p + 2) % 16, owed := c.owed - 1 }
  else { c with banks := sadd c.banks c.p, p := (c.p + 1) % 16 }

/-- REFRESH_SLOT. -/
def execRefreshSlot (ch : Nat) (s : State) : Out := eventOf (decide (ch < 256)) (some (s.modChan ch (·.slot (s.waitsAt ch s.m.mxStamp) s.m.mxStamp))) s

/-- ALL_BANK_REFRESH_START (03 R82): every read pending at the slot has left the controller. -/
def State.allBankStart (s : State) (ch : Nat) : Option State :=
  let c := s.chan ch
  if c.allWait && c.reads.isEmpty && !s.waitsAt ch c.allAt then some (s.modChan ch fun c => { c with allWait := false, all := true, owed := 0 }) else none

/-- ALL_BANK_REFRESH_START. -/
def execAllBankRefreshStart (ch : Nat) (s : State) : Out := eventOf (decide (ch < 256)) (s.allBankStart ch) s

/-- The end of a refresh at a time: STALL counts the cycles since the first read that waited for it arrived (03 R84). -/
def Chan.refreshed (c : Chan) (now : Nat) : Chan :=
  { c with all := false, banks := if c.all then c.banks else [], stallFrom := none, stall := c.stalled now }

/-- REFRESH_END (03 R83). -/
def State.refreshEnd (s : State) (ch : Nat) : Option State :=
  let c := s.chan ch
  if c.all || !c.banks.isEmpty then some (s.modChan ch fun c => c.refreshed s.m.now) else none

/-- REFRESH_END. -/
def execRefreshEnd (ch : Nat) (s : State) : Out := eventOf (decide (ch < 256)) (s.refreshEnd ch) s

/-! ## Timer, external interrupts, exchange -/

/-- TIMER (14 R340): TIME has reached TIMECMP of a hart, for which 0x53 is pending; its clock follows the module's. -/
def State.timer (s : State) (n : Nat) : Option State :=
  let h := s.hartAt n
  let units := cycleUnits (s.coreStep n)
  let k := (s.m.now - h.clock) / units
  if h.place = .placed ∧ h.ctl.timecmp ≤ s.time then some (s.setHartAt n ((if h.safeWait then h else h.spend k).pass k units)) else none

/-- TIMER. -/
def execTimer (hart : Nat) (s : State) : Out := eventOf (hartExists hart) (s.timer hart) s

/-- EXTERNAL becomes pending (16 R372). -/
def execExternal (hart : Nat) (s : State) : Out := eventOf (hartExists hart) (some (s.modHart hart fun h => { h with ext := true })) s

/-- FINGERPRINT_EXCHANGE (16 R394, R395) of the stream that a core runs. -/
def State.exchangeAt (s : State) (n : Nat) : Option State :=
  let h := s.hartAt n
  if h.place = .placed ∧ h.pair.on ∧ h.pair.due ∧ !h.pair.flushing ∧ h.slot.isNone then some (((s.switchTo n).exchange).switchTo s.cur) else none

/-- FINGERPRINT_EXCHANGE. -/
def execFingerprintExchange (core : Nat) (s : State) : Out := eventOf (hartExists core) (s.exchangeAt core) s

/-! ## Errors (16 R379, R384 to R386) -/

/-- The tile that holds record r of a Hearth's facet store. -/
def Hearth.tileOfRecord (h : Hearth) (r : Nat) : Option Tile :=
  (h.tiles.find? fun e => decide (e.2.run ≤ r) && decide (r < e.2.run + e.2.rows + e.2.cols)).map (·.2)

/-- What an uncorrectable error does to the storage that holds it, by site: an L1 word or an HBM sector is poisoned; a facet record
is made again from the present data and marked STALE; a register or a queue entry has bad parity. The address names an L1 byte, a
physical address, a facet record or a register. -/
def State.damage (s : State) (unit : Nat) (e : ErrEvent) : State :=
  match e.site with
  | 0 => s.onMod fun m => { m with poisonW := sadd m.poisonW (e.addr % 0x10000000 / 8) }
  | 1 => if paBacked e.addr && paHbm e.addr then s.onMod fun m => { m with poisonS := sadd m.poisonS (paKey m e.addr / 64) } else s
  | 2 => if paBacked e.addr && paHbm e.addr then s.onMod fun m => { m with poisonS := sadd m.poisonS (paKey m e.addr / 64) } else s
  | 3 => s.modHart (if unit < 512 then 8 * unit + e.sub % 8 else 4096 + (unit - 512)) fun h => { h with poison := sadd h.poison (e.addr % 64) }
  | 4 => s.modHart (if unit < 512 then 8 * unit + e.sub % 8 else 4096 + (unit - 512)) fun h =>
      let i := e.addr % 64
      if i < 16 then { h with sb := h.sb.mapIdx fun j x => if j = i then { x with bad := true } else x }
      else if i < 32 then (if i - 16 < h.mx.tokens.length then { h with poison := sadd h.poison (badTokens + (i - 16)) } else h)
      else if i < 48 then (if i - 32 < h.sync.rx.length then { h with poison := sadd h.poison (badPayloads + (i - 32)) } else h)
      else if h.sync.given.isSome then { h with poison := sadd h.poison badGiven } else h
  | 5 =>
    let hd := unit - 0x500
    match (s.hearth hd).tileOfRecord e.addr with
    | some t => s.setFacet t.ctx hd e.addr (t.fresh s.m hd (e.addr - t.run) ||| 0x1000000000000000000000000#128)
    | none => s
  | _ => s

/-- The L2 line of a physical address holds a sector found bad as poisoned, none of its bytes written since (03 R76); bytes of a sector
that the L2 holds beside one found bad in the HBM, and not yet filled, stay good. -/
def State.spoilL2 (s : State) (e : ErrEvent) : State :=
  if (e.site = 1 ∨ e.site = 2) ∧ paBacked e.addr ∧ paHbm e.addr then
    let k := paKey s.m e.addr
    let sec := keyL k / 64 % 4
    match tget? s.m.l2 (lineKey k) with
    | some ln =>
      if e.site = 2 ∧ !ln.v.getLsbD sec then s
      else s.onMod fun m => { m with l2 := tset m.l2 (lineKey k) { ln with
        v := ln.v ||| BitVec.ofNat 4 (2 ^ sec), poison := ln.poison ||| BitVec.ofNat 4 (2 ^ sec)
        m := ln.m &&& ~~~(BitVec.ofNat 256 ((2 ^ 64 - 1) * 2 ^ (64 * sec))) } }
    | none => s
  else s

/-- ERROR_DETECTED (16 R379, R382): a corrected error is logged and has no other effect; an uncorrectable one also spoils what held
it. Bad parity is found, and logged, only by the instruction that reads the entry. -/
def State.errorDetected (s : State) (unit : Nat) (e : ErrEvent) : State :=
  if e.uncorrectable && (e.site == 3 || e.site == 4) then s.damage unit e
  else
    let s := if e.uncorrectable then (s.damage unit e).spoilL2 e else s
    s.logErr unit (b2n e.uncorrectable) e.site e.sub e.addr e.syn 0xFF false

/-- The unit has the storage of a site: registers and queues belong to Trays and Millers, facet records to facet stores. -/
def errFits (e : ErrEvent) (unit : Nat) : Bool :=
  decide (unit ≤ 0x51B) && (if e.site = 3 ∨ e.site = 4 then decide (unit < 0x300) else if e.site = 5 then decide (0x500 ≤ unit) && decide (unit < 0x504) else true)

/-- ERROR_DETECTED. -/
def execErrorDetected (unit : Nat) (e : ErrEvent) (s : State) : Out := eventOf (errFits e unit) (some (s.errorDetected unit e)) s

/-- GARNET_FLUSH (16 R386). -/
def execGarnetFlush (s : State) : Out :=
  eventOf true (some (s.onMod fun m => { m with garnet := { m.garnet with store := m.garnet.sram } })) s

end Sys2Proof.Machine
end

