-- ==== Sys2Proof/Machine/Host.lean ====
section
/-! DEFINITION. The host, IxLink, boot and the loader (16 R386, R396; 17 R407; 18 R409 to R423): commands and their replies, links, reset
and loss of supply. -/

namespace Sys2Proof.Machine

/-! ## Commands (18 R411, R412) -/

/-- A SEQ as a frame holds it, in 4 bytes. -/
def frameNum (f : Frame) : Nat := f.seq % 2 ^ 32

/-- SEQ a is after SEQ b (log 41). -/
def seqAfter (a b : Nat) : Bool := let d := (a + 2 ^ 32 - b) % 2 ^ 32; decide (0 < d) && decide (d < 2 ^ 31)

/-- The answer to a frame. -/
def State.answer (s : State) (f : Frame) (typ status : Nat) (body : List Nat) : Msg :=
  { typ := typ, ctx := f.ctx, seq := frameNum f, event := false, status := status, body := body, stamp := s.nowNs }

/-- A reply to a frame, kept so that the same SEQ is answered again. -/
def State.reply (s : State) (f : Frame) (typ status : Nat) (body : List Nat) : State :=
  let msg := s.answer f typ status body
  (s.toHost msg).modCtx f.ctx fun c => { c with answered := c.answered.filter (fun e => seqAfter (frameNum f) e.1) ++ [(frameNum f, msg)] }

/-- A command's frame is one that the module takes (18 R410, R411): it comes over a port that is up, protected, of version 1, with
flags of no reply and no event and zeros where the header has them, and a body of at most 8192 bytes (log 41). -/
def State.frameOk (s : State) (f : Frame) : Bool :=
  !s.m.stopped && tget false s.m.host.ports f.port && f.secured && f.ver == 1 && f.flags == 0 && f.zero == 0 && decide (f.len ≤ 8192)

/-- The frame enters its context's history of 64 SEQ (18 R410): whether it is not the replica of one that came over the other port. Over
the same port again it is sent anew (log 41). -/
def State.frameSeen (s : State) (f : Frame) : State × Bool :=
  let old := (s.ctx f.ctx).seen
  let put (e : Nat × List Nat) : State := s.modCtx f.ctx fun c => { c with seen := old.map fun x => if x.1 = frameNum f then e else x }
  match old.find? (·.1 == frameNum f) with
  | some (q, ports) => if ports.contains f.port then (put (q, [f.port]), true) else (put (q, ports ++ [f.port]), false)
  | none => (s.modCtx f.ctx fun c => { c with seen := (old ++ [(frameNum f, [f.port])]).drop (old.length + 1 - 64) }, true)

/-- A command arrives: a replica is dropped; one already performed is answered again; one that an SEQ performed later has overtaken is
refused; in recovery only QUERY, LOAD and ATTEST are answered; and while a COPY of the context is under way, its other commands wait (18
R410, R412, R416; log 41). -/
def State.commandTry (s : State) (f : Frame) (typ : Nat) (run : State → Option State) : Option State :=
  if !s.frameOk f || s.m.host.copies.any (fun c => c.frame.ctx == f.ctx && frameNum c.frame != frameNum f) then none
  else
    match s.frameSeen f with
    | (s, false) => some s
    | (s, true) =>
      let done := (s.ctx f.ctx).answered
      match done.find? (·.1 == frameNum f) with
      | some (_, msg) => some (s.toHost { msg with stamp := s.nowNs })
      | none =>
        if s.m.host.recovery && typ != 4 && typ != 5 && typ != 6 then none
        else if done.any (fun e => seqAfter e.1 (frameNum f)) then some (s.toHost (s.answer f typ 0x07 []))
        else run s

/-- A command that is performed as it arrives. -/
def State.command (s : State) (f : Frame) (typ : Nat) (run : State → State) : Option State := s.commandTry f typ fun s => some (run s)

/-- A command's event: its context exists. -/
def commandOf (f : Frame) (typ : Nat) (run : State → State) (s : State) : Out := eventOf (decide (f.ctx < 16)) (s.command f typ run) s

/-- STATUS of a refusal: a cause and its REASON. -/
def refusal (cause reason : Nat) : Nat := cause + 0x100 * reason

/-- LAUNCH (18 R412): checked as R331 says. -/
def State.hostLaunch (s : State) (f : Frame) (lrec : BitVec 512) : State :=
  match s.checkLaunch (LRec.of lrec) none with
  | some code => s.reply f 1 (refusal 0 code) []
  | none => (s.submit { lrec := lrec, ctx := f.ctx, parent := none, host := true }).reply f 1 0 []

/-- CCP_LAUNCH. -/
def execCcpLaunch (f : Frame) (lrec : BitVec 512) (s : State) : Out := commandOf f 1 (·.hostLaunch f lrec) s

/-- The location of a byte at a device address of COPY: L1 through the Hearth apertures, else a physical address (log 40). -/
def copyKey (m : Mod) (a : Nat) : Option Nat :=
  if 0xFF00000000 ≤ a ∧ a < 0xFF10000000 then some (l1Key ((a - 0xFF00000000) / 0x4000000) ((a - 0xFF00000000) % 0x4000000))
  else if a < 0x1000000000000 ∧ paBacked a then some (paKey m a) else none

/-- The locations of n bytes, each of which must answer. -/
def copyKeys (m : Mod) (a n : Nat) : Option (List Nat) :=
  let l := (List.range n).filterMap fun i => copyKey m (a + i)
  if l.length = n ∧ !l.contains noKey then some l else none

/-- The locations of n bytes of a COPY after those done, on the device's side or in the host window, which it does not leave. -/
def HostCopy.keys (x : HostCopy) (m : Mod) (device : Bool) (n : Nat) : Option (List Nat) :=
  if device then copyKeys m (x.dev + x.done) n
  else if x.off + x.done + n ≤ 2 ^ 44 then copyKeys m (0x800000000000 + x.off + x.done) n else none

/-- A COPY goes on, from the lowest byte up, in pieces that end at 64-byte boundaries of the destination: a piece is read, then written
under the atomicity unit (02 R58; 04 R99, R102), all of it or as far as `splits` says. A refused write ends it with RANGE_LOCKED; an address
that answers nothing, or poisoned data, as an engine's access there would fault. The COPY as it then stands, with its STATUS once it has
ended; it waits for its bytes to land and at its channels. -/
def State.copyTurn (s : State) : Nat → HostCopy → State × HostCopy × Option Nat
  | 0, x => (s, x, none)
  | fuel + 1, x =>
    if !x.rest.isEmpty then
      let keys := x.rest.map (·.1)
      let runs := pieceRuns 0 false keys
      let k := s.leading runs
      if s.writeWaits keys false true then (s, x, none)
      else
        let now := x.rest.take k
        let t := ((s.splitUsed runs).l2Writes (now.map (·.1)) false true).writeAny true now
        let y := { x with rest := x.rest.drop k }
        if y.rest.isEmpty then t.copyTurn fuel y else (t, y, none)
    else if x.len ≤ x.done then (s, x, some 0)
    else
      let dst := if x.toDevice then x.dev else x.off
      let k := min (x.len - x.done) (64 - (dst + x.done) % 64)
      match x.keys s.m (!x.toDevice) k, x.keys s.m x.toDevice k with
      | some from0, some to0 =>
        match s.marks from0 with
        | .wait o => (s.flushOwner o, x, none)
        | .frozen .. => (s, x, none)
        | .pass =>
          match (s.scrub from0).channelRead .other s.m.now from0 false true with
          | (t, false) => (t, x, none)
          | (t, true) =>
            let u := t.l2Sectors from0 false false true
            if from0.any (t.poisonedFor false) then (u, x, some (refusal 0x20 3))
            else
              match t.lockHit to0 with
              | some (_, reason, _) => (u, x, some (refusal 0x19 reason))
              | none => u.copyTurn fuel { x with done := x.done + k, rest := to0.zip (from0.map t.byteAt) }
      | _, _ => (s, x, some (refusal 0x20 6))

/-- A COPY's turn: it ends with its reply, which follows the last byte, or stays under way. -/
def State.copyGo (s : State) (x : HostCopy) : Option State :=
  let others (t : State) : List HostCopy := t.m.host.copies.filter (·.frame != x.frame)
  match s.copyTurn (x.len / 32 + 4) x with
  | (t, y, some status) => some ((t.onMod fun m => { m with host := { m.host with copies := others t } }).reply y.frame 2 status [])
  | (t, y, none) => moved s (t.onMod fun m => { m with host := { m.host with copies := others t ++ [y] } })

/-- CCP_COPY (18 R412): between the device and the host window. -/
def State.ccpCopy (s : State) (f : Frame) (dev off len : Nat) (toDevice : Bool) : Option State :=
  s.copyGo ((s.m.host.copies.find? (·.frame == f)).getD { frame := f, dev := dev, off := off, len := len, toDevice := toDevice })

/-- CCP_COPY. -/
def execCcpCopy (f : Frame) (dev off len : Nat) (toDevice : Bool) (s : State) : Out :=
  eventOf (decide (f.ctx < 16)) (s.commandTry f 2 fun s => s.ccpCopy f dev off len toDevice) s

/-- MAP SUB 0. -/
def State.mapBind (s : State) (f : Frame) (page buffer : Nat) : State :=
  if page < 2 ^ 28 then (s.onMod fun m => { m with host := { m.host with binds := tset m.host.binds page (buffer % 0x100000000) } }).reply f 3 0 []
  else s.reply f 3 (refusal 7 0) []

/-- CCP_MAP_BIND. -/
def execCcpMapBind (f : Frame) (page buffer : Nat) (s : State) : Out := commandOf f 3 (·.mapBind f page buffer) s

/-- CCP_MAP_SAVE_AREA (15 R360): base address and units of 64 KiB. -/
def execCcpMapSaveArea (f : Frame) (base units : Nat) (s : State) : Out :=
  commandOf f 3 (fun s => (s.modCtx f.ctx fun c => { c with saveBase := base / 0x10000 * 0x10000, saveUnits := units }).reply f 3 0 []) s

/-- Physical bytes that hold another context's code heap or loaded text (18 R419). -/
def State.codeOfOther (s : State) (ctx pa n : Nat) : Bool :=
  s.m.ctxs.any fun c => c.1 != ctx &&
    (((c.2.heapPa, 64 * c.2.heapLines) :: c.2.objs.map fun o => (o.textPa, 64 * o.lines)).any fun r => decide (pa < r.1 + r.2) && decide (r.1 < pa + n))

/-- MAP SUB 2 (18 R412, R419): a heap that would share bytes with another context's is refused; texts loaded before stay where they are. -/
def State.mapHeap (s : State) (f : Frame) (va : Word) (pa lines : Nat) : State :=
  let base := pa / 64 * 64
  if s.codeOfOther f.ctx base (64 * lines) then s.reply f 3 (refusal 7 0) []
  else (s.modCtx f.ctx fun c => { c with heapVa := va &&& ~~~(0x3F#64), heapPa := base, heapLines := lines }).reply f 3 0 []

/-- CCP_MAP_CODE_HEAP. -/
def execCcpMapCodeHeap (f : Frame) (va : Word) (pa lines : Nat) (s : State) : Out := commandOf f 3 (·.mapHeap f va pa lines) s

/-- CCP_MAP_COLLECTIVE (17 R407): one of the 64 device barriers. -/
def execCcpMapCollective (f : Frame) (bar : Nat) (s : State) : Out :=
  commandOf f 3 (fun s => if bar < 64 then (s.modCtx f.ctx fun c => { c with collective := some (1024 + bar), lastCompletion := 0, slackRun := 0 }).reply f 3 0 []
    else s.reply f 3 (refusal 7 0) []) s

/-- MAP SUB 4 (08 R175): only while no gang is placed. -/
def State.mapDevice (s : State) (f : Frame) (dev : Nat) : State :=
  if s.m.gangs.all (fun g => g.2.cores.isEmpty) && decide (dev < 1024) then (s.onMod fun m => { m with dist := { m.dist with dev := dev } }).reply f 3 0 []
  else s.reply f 3 (refusal 7 0) []

/-- CCP_MAP_DEVICE_INDEX. -/
def execCcpMapDeviceIndex (f : Frame) (dev : Nat) (s : State) : Out := commandOf f 3 (·.mapDevice f dev) s

/-! ## Code objects (00 R6; 14 R343; 16 R396; 18 R418 to R420, R423) -/

/-- A table of 8-byte entries named by offset and count fields. -/
def codeTable (i : CodeImage) (o : Nat) : List Nat :=
  (List.range (codeField i (o + 4) 4)).map fun k => codeField i (codeField i o 4 + 8 * k) 8

/-- A table lies within the object. -/
def codeFits (i : CodeImage) (off size : Nat) : Bool := decide (off + size ≤ i.bytes.length)

/-- Wait-map entries ascend strictly by offset and keep their zero field (14 R343). -/
def waitsOk : List Nat → Bool
  | [] => true
  | [e] => e / 2 ^ 48 == 0
  | e :: e' :: r => e / 2 ^ 48 == 0 && decide (e % 2 ^ 32 < e' % 2 ^ 32) && waitsOk (e' :: r)

/-- The refusal code of a LOAD (18 R418): 2 for a malformed header, 1 for another ABI than 1.0. -/
def loadRefusal (i : CodeImage) : Option Nat :=
  if !codeFits i 0 0x40 || codeField i 0 4 != 0x51454443 then some 2
  else if codeField i 4 4 ≠ 0x00010000 then some 1
  else if codeField i 0xC 4 % 64 ≠ 0 || codeField i 0x30 16 ≠ 0 || 255 < codeField i 0x1C 4 then some 2
  else if !(codeFits i (codeField i 8 4) (codeField i 0xC 4) && codeFits i (codeField i 0x10 4) (8 * codeField i 0x14 4)
      && codeFits i (codeField i 0x18 4) (16 * codeField i 0x1C 4) && codeFits i (codeField i 0x20 4) (codeField i 0x24 4)
      && codeFits i (codeField i 0x28 4) (8 * codeField i 0x2C 4)) then some 2
  else if !waitsOk (codeTable i 0x28) then some 2
  else none

/-- The first line of a context's heap from which some lines hold no loaded text, at their addresses and in memory. -/
def Ctx.heapPlace (c : Ctx) (lines : Nat) : Nat :=
  let apart (a b n : Nat) : Bool := decide (a + 64 * lines ≤ b) || decide (b + 64 * n ≤ a)
  let fits (p : Nat) : Bool := c.objs.all fun o => apart (c.heapVa.toNat + 64 * p) o.textVa.toNat o.lines && apart (c.heapPa + 64 * p) o.textPa o.lines
  let after := c.objs.flatMap fun o => [ceilDiv (o.textVa.toNat + 64 * o.lines - c.heapVa.toNat) 64, ceilDiv (o.textPa + 64 * o.lines - c.heapPa) 64]
  (((0 :: after).filter fits).min?).getD 0

/-- The boot ROM accepts an image (18 R416). -/
def HostSt.accepts (h : HostSt) (img : BootImage) : Bool :=
  img.rsaOk && img.slhOk && img.rsaKey == h.fuseRsa && img.slhKey == h.fuseSlh && decide (h.fuseVersion ≤ img.version)

/-- Firmware that the boot ROM has accepted starts: it loads the energy table (17 R399), and the parts are measured (18 R417). -/
def State.startFirmware (s : State) (img : BootImage) : State :=
  let n := s.nowNs
  s.onMod fun m => { m with
    power := { m.power with table := (img.energy.take 4096).zipIdx.map fun e => (e.2, e.1 % 65536) }
    host := { m.host with recovery := false, fwVersion := img.version, fwDigest := img.digest, fwTable := Config.sha384 img.energy, measuredAt := n } }

/-- The firmware image in the bytes of a LOAD, as the boot ROM finds it (log 26). -/
def imageOf (b : List Nat) : BootImage where
  rsaOk := Config.firmware 0 b != 0
  slhOk := Config.firmware 1 b != 0
  rsaKey := Config.firmware 2 b
  slhKey := Config.firmware 3 b
  version := Config.firmware 4 b
  digest := Config.sha384 b
  energy := (List.range 4096).map fun i => Config.firmware (16 + i) b

/-- The last part of a LOAD in recovery, which carries firmware (18 R416): it starts, or the module stays in recovery. -/
def State.loadFirmware (s : State) (f : Frame) (i : CodeImage) : State :=
  let img := imageOf (i.bytes.map BitVec.toNat)
  if s.m.host.accepts img then (s.startFirmware img).reply f 4 0 [] else s.reply f 4 (refusal 7 0) []

/-- A code object is loaded (18 R418, R419): every function of the text becomes unpublished at a private address of the heap. -/
def State.loadObject (s : State) (f : Frame) (i : CodeImage) : State :=
  match loadRefusal i with
  | some code => s.reply f 4 (refusal 0 code) []
  | none =>
    let c := s.ctx f.ctx
    let lines := codeField i 0xC 4 / 64
    let p := c.heapPlace lines
    let fns := if i.fns.isEmpty then [(0, lines)] else i.fns
    let o : CodeObj := {
      handle := c.nextHandle, img := i, textVa := c.heapVa + w64 (64 * p), textPa := c.heapPa + 64 * p, lines := lines
      fns := fns.map fun e => (e.1, e.2, .unpublished), maps := codeTable i 0x10, waits := codeTable i 0x28 }
    let m := (Config.sha384 (i.bytes.map BitVec.toNat), s.nowNs)
    (s.modCtx f.ctx fun c => { c with objs := c.objs ++ [o], nextHandle := c.nextHandle + 1, measured := c.measured ++ [m] }).reply f 4 0 [o.handle]

/-- LOAD (18 R412): a part of 8192 bytes is followed by another, a shorter one is the last (log 41); in recovery the whole is firmware. -/
def State.loadCode (s : State) (f : Frame) (i : CodeImage) : State :=
  let all := { i with bytes := (s.ctx f.ctx).loading ++ i.bytes }
  let t := s.modCtx f.ctx fun c => { c with loading := if i.bytes.length = 8192 then all.bytes else [] }
  if i.bytes.length = 8192 then t.reply f 4 0 [] else if s.m.host.recovery then t.loadFirmware f all else t.loadObject f all

/-- CCP_LOAD: a frame's body has at most 8192 bytes. -/
def execCcpLoad (f : Frame) (obj : CodeImage) (s : State) : Out :=
  eventOf (decide (f.ctx < 16)) (s.commandTry f 4 fun s => if 8192 < obj.bytes.length then none else some (s.loadCode f obj)) s

/-- Requests to the loader for lines that belong to no unpublished function any more have ended (18 R422). -/
def State.endLoads (s : State) : State := s.onMod fun m => { m with ldreqs := m.ldreqs.filter fun r => s.wanted r.ctx r.line }

/-- UNLOAD (18 R423): deferred while a saved image references the text; a forced one retires its lines. -/
def State.unload (s : State) (f : Frame) (handle : Nat) (forced : Bool) : State :=
  let retire (o : CodeObj) : CodeObj := if o.handle = handle then { o with fns := o.fns.map fun e => (e.1, e.2.1, .retired) } else o
  (if forced then s.modCtx f.ctx fun c => { c with objs := c.objs.map retire }
    else (s.modCtx f.ctx fun c => { c with unloads := sadd c.unloads handle }).unloadDue f.ctx).endLoads.reply f 4 0 []

/-- CCP_UNLOAD: sent as a LOAD, which in recovery carries firmware alone. -/
def execCcpUnload (f : Frame) (handle : Nat) (forced : Bool) (s : State) : Out :=
  eventOf (decide (f.ctx < 16)) (s.commandTry f 4 fun s => if s.m.host.recovery then none else some (s.unload f handle forced)) s

/-- A gang in flight references a code object. -/
def State.referenced (s : State) (ctx handle : Nat) : Bool := s.m.gangs.any fun g => g.2.ctx == ctx && g.2.handle == handle

/-- Set the publication of functions of a context: those for which `p` holds of the object and the function's number. -/
def State.setPub (s : State) (ctx : Nat) (p : CodeObj → Nat → Bool) (x : Pub) : State :=
  s.modCtx ctx fun c => { c with objs := c.objs.map fun o => { o with fns := o.fns.mapIdx fun k e => if p o k then (e.1, e.2.1, x) else e } }

/-- Requests that the loader has for a function are answered; of a failed load the hart whose request began it learns (16 R396). -/
def State.answerLoads (s : State) (ctx : Nat) (o : CodeObj) (fn : Nat × Nat × Pub) (failed : Bool) : State :=
  let mine (r : LdReq) : Bool :=
    r.ctx == ctx && decide (o.textVa.toNat + 64 * fn.1 ≤ r.line.toNat) && decide (r.line.toNat < o.textVa.toNat + 64 * (fn.1 + fn.2.1))
  let first := s.m.ldreqs.find? mine
  let s := s.onMod fun m => { m with ldreqs := m.ldreqs.filter fun r => !mine r }
  match if failed then first else none with
  | some r => if r.hart < 4352 then s.report ctx (s.hartAt r.hart).gang r.hart { cause := 0x36, val := r.line, info := 0 } else s
  | none => s

/-- Lines of published functions of a context. -/
def Ctx.publishedLines (c : Ctx) : Nat := (c.objs.flatMap fun o => o.fns.filter (·.2.2 == .published)).foldl (fun n e => n + e.2.1) 0

/-- The heap has room for a function's lines: where they lie, and beside those published (log 38). -/
def Ctx.hasRoom (c : Ctx) (o : CodeObj) (e : Nat × Nat × Pub) : Bool :=
  decide (c.heapPa ≤ o.textPa) && decide ((o.textPa - c.heapPa) / 64 + e.1 + e.2.1 ≤ c.heapLines) && decide (c.publishedLines + e.2.1 ≤ c.heapLines)

/-- The functions of a context that no placed or saved gang references leave the heap (16 R396). -/
def State.evict (s : State) (ctx : Nat) : State :=
  s.setPub ctx (fun o k => (o.fns[k]?.map (·.2.2)) == some .published && !s.referenced ctx o.handle) .unpublished

/-- Every hart fetches these lines afresh (18 R420). -/
def State.forgetLines (s : State) (keys : List Nat) : State :=
  s.cores.foldl (fun s n => s.modHart n fun h => { h with lines := h.lines.filter fun l => !keys.contains l.1 }) s

/-- FUNCTION_PUBLISH (18 R420; 16 R396; log 38): the lines are copied, once their channels take them, and published together. Where the
heap has no room the functions that no gang references are evicted, and the attempt is made once more. -/
def State.publishFn (s : State) (ctx handle fn : Nat) : Option State :=
  match (s.ctx ctx).objs.find? (·.handle == handle) with
  | none => none
  | some o =>
    match o.fns[fn]? with
    | none => none
    | some e =>
      if e.2.2 != .unpublished then none
      else
        let t := if (s.ctx ctx).hasRoom o e then s else s.evict ctx
        let lines := (List.range e.2.1).map fun i => (e.1 + i, keysFrom (paKey s.m (o.textPa + 64 * (e.1 + i))) 64)
        if !(t.ctx ctx).hasRoom o e then some (t.answerLoads ctx o e true)
        else if lines.any fun l => t.writeWaits l.2 false false then none
        else
          let t := lines.foldl (fun t l => t.engWrite l.2 (splitBytes 64 (textLine o.img l.1)) false) t
          let t := (t.forgetLines (lines.map fun l => l.2.headD 0)).setPub ctx (fun x k => x.handle == handle && k == fn) .published
          some (t.answerLoads ctx o e false)

/-- FUNCTION_PUBLISH. -/
def execFunctionPublish (ctx handle fn : Nat) (s : State) : Out := eventOf (decide (ctx < 16)) (s.publishFn ctx handle fn) s

/-! ## Queries and time (18 R412, R413) -/

/-- The state of a port as QUERY gives it (log 41). -/
def LinkSt.num : LinkSt → Nat
  | .down => 0
  | .train => 1
  | .negotiate => 2
  | .active => 3

/-- What QUERY reads (log 41): SUB 0 the registers of error bank `arg`, 1 the doubleword at offset `arg` of the Garnet log, 2 the links, 3 PWRSTAT, 4 the
versions of ABI and firmware. -/
def State.query (s : State) (sub arg : Nat) : Option (List Nat) :=
  match sub with
  | 0 => if arg ≤ 0x51B then some ((List.range 32).map fun i => (tget {} s.m.banks arg).reg (8 * i)) else none
  | 1 => if arg < 0x400000 then some [joinBytes ((List.range 8).map fun i => s.m.garnet.sram.byte (arg / 8 * 8 + i))] else none
  | 2 => some ((List.range 16).map fun p => (tget {} s.m.host.links p).st.num)
  | 3 => some [s.m.power.stat]
  | 4 => some [0x10000, s.m.host.fwVersion]
  | _ => none

/-- CCP_QUERY. -/
def execCcpQuery (f : Frame) (sub arg : Nat) (s : State) : Out :=
  commandOf f 5 (fun s => match s.query sub arg with
    | some b => s.reply f 5 0 b
    | none => s.reply f 5 (refusal 7 0) []) s

/-- TIME with a value (18 R413): only before the first placement. -/
def State.setTime (s : State) (f : Frame) (v : Word) : State :=
  if s.m.dist.everPlaced then s.reply f 7 (refusal 7 0) []
  else (s.onMod fun m => { m with timeBase := v.toNat, timeRef := m.now, power := { m.power with window := v.toNat / 1000000 } }).reply f 7 0 []

/-- CCP_TIME_SET. -/
def execCcpTimeSet (f : Frame) (v : Word) (s : State) : Out := commandOf f 7 (·.setTime f v) s

/-- CCP_TIME_READ. -/
def execCcpTimeRead (f : Frame) (s : State) : Out := commandOf f 7 (fun s => s.reply f 7 0 [s.nowNs]) s

/-- TIME_SYNC (18 R413): 802.1AS sets the rate, by at most 100 ppm. -/
def State.timeSync (s : State) (ppm : Int) : Option State :=
  if -100 ≤ ppm ∧ ppm ≤ 100 then some (s.onMod fun m => { m with timeBase := m.timeAt m.now, timeRef := m.now, ppm := ppm }) else none

/-- TIME_SYNC. -/
def execTimeSync (ppm : Int) (s : State) : Out := eventOf true (s.timeSync ppm) s

/-! ## Attestation (18 R417; log 26) -/

/-- The two signatures of a signed answer: RSA-3072 and SLH-DSA-SHA2-192s over the same transcript hash. -/
def signatures (transcript : List Nat) : List Nat := let h := Config.sha384 transcript; [Config.signature 0 h, Config.signature 1 h]

/-- An answer to an SPDM request: the body of its code, what is added, and the signatures of a signed one over the transcript so far, which
GET_VERSION begins. -/
def State.spdm (s : State) (f : Frame) (code : Nat) (args more : List Nat) (signed : Bool) : State :=
  let body := Config.spdmBody code (args.headD 0) :: more
  let t := (if code = 0x04 then [] else (s.ctx f.ctx).spdm) ++ code :: args ++ body
  let sigs := if signed then signatures t else []
  (s.modCtx f.ctx fun c => { c with spdm := t ++ sigs }).reply f 6 0 (body ++ sigs)

/-- SPDM_GET_VERSION. -/
def execSpdmGetVersion (f : Frame) (s : State) : Out := commandOf f 6 (·.spdm f 0x04 [] [] false) s
/-- SPDM_GET_CAPABILITIES. -/
def execSpdmGetCapabilities (f : Frame) (s : State) : Out := commandOf f 6 (·.spdm f 0x61 [] [] false) s
/-- SPDM_NEGOTIATE_ALGORITHMS. -/
def execSpdmNegotiateAlgorithms (f : Frame) (s : State) : Out := commandOf f 6 (·.spdm f 0x63 [] [] false) s
/-- SPDM_GET_DIGESTS. -/
def execSpdmGetDigests (f : Frame) (s : State) : Out := commandOf f 6 (·.spdm f 0x01 [] [] false) s
/-- SPDM_GET_CERTIFICATE. -/
def execSpdmGetCertificate (f : Frame) (s : State) : Out := commandOf f 6 (·.spdm f 0x02 [] [] false) s
/-- SPDM_CHALLENGE: signed twice. -/
def execSpdmChallenge (f : Frame) (nonce : Nat) (s : State) : Out := commandOf f 6 (·.spdm f 0x03 [nonce] [] true) s

/-- The measurement blocks of an index, each with what is measured and the TIME of its measurement. -/
def State.measure (s : State) (index : Nat) : List Nat :=
  let boot := s.m.host.measuredAt
  match index with
  | 1 => [1, Config.spdmBody 0x100 1, boot]
  | 2 => [2, s.m.host.fwDigest, boot]
  | 3 => [3, Config.spdmBody 0x103 s.m.host.fwTable, boot]
  | 4 => [4, s.m.host.fuseVersion, boot]
  | _ => if 0x10 ≤ index ∧ index < 0x20 then (s.ctx (index - 0x10)).measured.flatMap fun e => [index, e.1, e.2] else []

/-- SPDM_GET_MEASUREMENTS: index 0xFF asks for all blocks (PRESUMED, SPDM 1.3; log 26). -/
def execSpdmGetMeasurements (f : Frame) (index nonce : Nat) (s : State) : Out :=
  commandOf f 6 (fun s =>
    let l := if index = 0xFF then ([1, 2, 3, 4] ++ (List.range 16).map (0x10 + ·)).flatMap s.measure else s.measure index
    s.spdm f 0x60 [nonce, index] l true) s

/-! ## IxLink and the host ports (18 R410, R415) -/

/-- Change a port. -/
def State.modLink (s : State) (p : Nat) (f : Link → Link) : State := s.onMod fun m => { m with host := { m.host with links := tmod {} m.host.links p f } }

/-- A port's event: the port exists. -/
def linkEvent (port : Nat) (ok : Link → Bool) (f : State → State) (s : State) : Out :=
  eventOf (decide (port < 16)) (if ok (tget {} s.m.host.links port) then some (f s) else none) s

/-- LINK_SIGNAL_DETECT: DOWN with signal on at least 4 lanes, and no retry delay running. -/
def execLinkSignalDetect (port lanes : Nat) (s : State) : Out :=
  linkEvent port (fun l => l.st == .down && !l.retry && decide (4 ≤ lanes)) (·.modLink port fun l => { l with st := .train }) s

/-- LINK_TRAIN_DONE: on 8 lanes, or on 4. -/
def execLinkTrainDone (port lanes : Nat) (s : State) : Out :=
  linkEvent port (fun l => l.st == .train && (lanes == 4 || lanes == 8)) (·.modLink port fun l => { l with st := .negotiate, lanes := lanes }) s

/-- LINK_TRAIN_FAIL. -/
def execLinkTrainFail (port : Nat) (s : State) : Out :=
  linkEvent port (fun l => l.st == .train) (·.modLink port fun l => { l with st := .down, lanes := 0, retry := true }) s

/-- LINK_RETRY: the delay of 1 ms is over, and training may begin again. -/
def execLinkRetry (port : Nat) (s : State) : Out :=
  linkEvent port (fun l => l.st == .down && l.retry) (·.modLink port fun l => { l with retry := false }) s

/-- LINK_NEGOTIATE: ACTIVE, or DOWN with a record of SITE 7. -/
def execLinkNegotiate (port : Nat) (agree : Bool) (s : State) : Out :=
  linkEvent port (fun l => l.st == .negotiate) (fun s =>
    if agree then
      (s.modLink port fun l => { l with st := .active }).onMod fun m =>
        if m.power.throttled then { m with host := { m.host with adverts := m.host.adverts ++ [(port, m.power.advert)] } } else m
    else (s.modLink port fun l => { l with st := .down, lanes := 0 }).logErr (0x508 + port) 0 7 0 0 0 0xFF false) s

/-- A location lies in the peer window of a port. -/
def inPeer (port k : Nat) : Bool := decide (0x4000000000000 + port * 0x10000000000 ≤ k) && decide (k < 0x4000000000000 + (port + 1) * 0x10000000000)

/-- Posted stores of a hart into a port's window take REMOTE_TIMEOUT (02 R60); whether they were performed is open, and the port no
longer answers. -/
def Hart.loseLink (h : Hart) (port : Nat) : Hart :=
  let lost (e : SbEntry) : Bool := e.cells.any fun c => inPeer port c.1
  { h with posted := h.posted.filter fun e => !lost e, asy := h.asy ++ (h.posted.filter lost).map fun e => e.report 0x1A 2 0 0 }

/-- LINK_DOWN. -/
def State.linkDown (s : State) (port : Nat) : State :=
  let s := s.modLink port fun l => { l with st := .down, lanes := 0 }
  let s := s.onMod fun m => { m with power := { m.power with peerFloor := tdel m.power.peerFloor port } }
  s.cores.foldl (fun s c => if (s.hartAt c).posted.isEmpty then s else s.modHart c (·.loseLink port)) s

/-- LINK_DOWN. -/
def execLinkDown (port : Nat) (s : State) : Out := linkEvent port (fun l => l.st == .active) (·.linkDown port) s

/-- A host port. -/
def State.hostPort (s : State) (port : Nat) (up : Bool) : State := s.onMod fun m => { m with host := { m.host with ports := tset m.host.ports port up } }

/-- HOST_PORT_LINK_UP (18 R410). -/
def execHostPortLinkUp (port : Nat) (s : State) : Out := eventOf (decide (port < 2)) (some (s.hostPort port true)) s

/-- HOST_PORT_LINK_DOWN. -/
def execHostPortLinkDown (port : Nat) (s : State) : Out := eventOf (decide (port < 2)) (some (s.hostPort port false)) s

/-! ## Reset and loss of supply (16 R386, R387; 18 R416) -/

/-- What survives loss of supply: the store of the Garnet log, and the fuses. -/
def Garnet.lose (g : Garnet) : Garnet := { g with sram := g.store }

/-- The Garnet log at boot (16 R386, R387): the copy is loaded from the store and the boot counted; a unit whose counter as loaded has
reached SUSPTH becomes a suspect. The offsets of the new suspects' counters. -/
def Garnet.boot1 (g : Garnet) : Garnet × List Nat :=
  let g0 : GLog := { g.store with boot := g.store.boot + 1 }
  let p := g0.counters.foldl (fun (a : GLog × List Nat) e => match a.1.suspect e.1 with | (g, true) => (g, a.2 ++ [e.1]) | _ => a) (g0, [])
  ({ g with sram := p.1 }, p.2)

/-- What the host side keeps through a reset and a loss of supply: the fuses (18 R416). -/
def HostSt.fuses (h : HostSt) : HostSt := { fuseVersion := h.fuseVersion, fuseRsa := h.fuseRsa, fuseSlh := h.fuseSlh }

/-- POWER_FAILURE: what was volatile is lost; only a reset starts the module again. -/
def State.powerFail (s : State) : State :=
  { State.reset with
    agenda := s.agenda, delays := s.delays, splits := s.splits, pends := s.pends, tick := s.tick
    m := { State.reset.m with garnet := s.m.garnet.lose, stopped := true, host := s.m.host.fuses } }

/-- POWER_FAILURE. -/
def execPowerFailure (s : State) : Out := eventOf true (some s.powerFail) s

/-- RESET (18 R416; 16 R386): an orderly reset writes the Garnet log first; every register returns to its reset value; the boot ROM loads
the firmware image, or the module stays in recovery; the host learns of units that the counters loaded make suspects. -/
def State.boot (s : State) (img : BootImage) : State :=
  let g := (if s.m.stopped then s.m.garnet else { s.m.garnet with store := s.m.garnet.sram }).boot1
  let t : State := { State.reset with
    agenda := s.agenda, delays := s.delays, splits := s.splits, pends := s.pends, tick := s.tick
    m := { State.reset.m with garnet := g.1, host := { s.m.host.fuses with recovery := true } } }
  g.2.foldl (fun s off => s.hostEvent 0 [garnetUnit off]) (if s.m.host.accepts img then t.startFirmware img else t)

/-- RESET. -/
def execReset (img : BootImage) (s : State) : Out := eventOf true (some (s.boot img)) s

end Sys2Proof.Machine
end

