-- ==== Sys2Proof/Machine/Auto.lean ====
section
/-! DEFINITION. Which turn comes next (log 4): the agenda's head; with an empty agenda the present hart until it waits, then an
enabled step of a unit, then the next hart. -/

namespace Sys2Proof.Machine

/-- The numbers 0 to n − 1 for which `f` answers first. -/
def firstOf (n : Nat) (f : Nat → Option State) : Option State := (List.range n).findSome? f

/-- A step of the units around the harts: acknowledgements, store buffers, posted stores, exchanges (01 R39; 02 R59; 04 R89; 16 R394). -/
def State.autoHart (s : State) : Option State :=
  (s.m.shoot.bind fun x => x.units.findSome? s.shootAck).or (s.cores.findSome? fun n =>
    let late := (s.hartAt n).posted.zipIdx.findSome? fun e => s.remoteTimeout n e.2
    ((s.drain? n).or ((s.remoteResponse n 0).or ((s.remoteRefused n 0).or late))).or (s.exchangeAt n))

/-- A step of the range-lock tables, the filters, the engines and the buffer tables (02 R63; 05 R112, R123, R127, R128; 12 R262). -/
def State.autoEngine (s : State) : Option State :=
  let hearth (h : Nat) : Option State :=
    let x := s.hearth h
    (x.locks.findSome? fun e => s.activate h e.1).or ((x.lands.findSome? fun e => s.activate h (256 + e.1)).or
      ((x.stale.findSome? (s.filterClear h)).or (x.handles.findSome? fun e => s.bufferFree h e.1)))
  let op (e : Nat × EngOp) : Option State :=
    firstOf (max 1 e.2.dels.length) fun i => (s.pieceLand e.1 i).or (s.landingComplete e.1 i)
  (firstOf 4 hearth).or ((s.m.ops.findSome? op).or (s.cores.findSome? fun n =>
    (s.engineBegin n).or ((s.hartAt n).streams.findSome? fun b => s.streamRefill n b.1)))

/-- A step of the matrix units (12 R279 to R299, 13 R300). -/
def State.autoMatrix (s : State) : Option State :=
  (s.cores.findSome? fun n =>
    (((s.knEnterOne n).map fun t => t.knPressed n).or (s.knAged n)).or ((s.mxCommandFault n).or ((s.mxRetire n).or (s.mxDispatch n)))).or
    (s.cores.findSome? fun n => if n < 4096 then s.tileStep (trayOf n) else none)

/-- A step of barriers, domains, messages, task queues and the Opal token (08). -/
def State.autoSync (s : State) : Option State :=
  let gang (e : Nat × Gang) : Option State :=
    let harts := e.2.cores.map s.hartAt
    let doms (l : Nat) : List Nat := harts.foldl (fun t h => if domV (h.domAt l) then sadd t (domId (h.domAt l)) else t) []
    (firstOf 4 fun l => (doms l).findSome? (s.barrierComplete e.1 l)).or
      (((e.2.trayBars.findSome? fun b => s.barrierComplete e.1 4 b.1).or (firstOf 3 (s.domainReform e.1))).or
        (if s.noRecords e.1 then s.opalPass e.1 else none))
  ((s.sendDelivery 0).or (s.wakeDelivery 0)).or ((firstOf 4 s.dispenseCycle).or (s.m.gangs.findSome? gang))

/-- A step of the Distributor, of saving and of moving (15, 16 R391). -/
def State.autoGang (s : State) : Option State :=
  ((s.placementCommit.or s.wakeFlood).or (s.reservationRelease.or (s.trayReserve.or s.placementSelect))).or
    ((s.cores.findSome? fun n => (s.hartStop n).or ((s.forcedStop n).or (s.migration n))).or
      (s.m.gangs.findSome? fun e => (s.gangSave e.1).or (s.rollbackRestore e.1)))

/-- A step of the loader, the power block and the channels (18 R422; 17 R402 to R405; 03 R75, R82). -/
def State.autoRest (s : State) : Option State :=
  let load (r : LdReq) : Option State := (s.ctx r.ctx).objs.findSome? fun o =>
    firstOf o.fns.length fun k =>
      match o.fns[k]? with
      | some f =>
        if o.textVa.toNat + 64 * f.1 ≤ r.line.toNat ∧ r.line.toNat < o.textVa.toNat + 64 * (f.1 + f.2.1) then s.publishFn r.ctx o.handle k else none
      | none => none
  let tray (e : Nat × Tray) : Option State :=
    (match e.2.trans with | some (_, at0) => if at0 ≤ s.nowNs then s.transitionEnd e.1 else none | none => none).or
      (match e.2.droop with | some at0 => if at0 ≤ s.m.now then s.droopEnd e.1 else none | none => none)
  ((s.m.ldreqs.findSome? load).or ((s.m.peerRest.findSome? s.peerResume).or (s.m.host.copies.findSome? s.copyGo))).or ((s.m.trays.findSome? tray).or
    ((if (s.m.power.window + 1) * 1000000 ≤ s.nowNs then some s.capWindowEnd else none).or
      (s.ballastDue.or <| s.m.chans.findSome? fun e => ((e.2.reads ++ (s.othersGo e.1).toList).findSome? fun k => s.sectorFill e.1 (keyL (64 * k)) false).or ((s.allBankStart e.1).or (s.refreshEnd e.1)))))

/-- A step of a unit that is enabled, if any. -/
def State.autoEvent (s : State) : Option State :=
  ((s.autoHart.or s.autoEngine).or (s.autoMatrix.or s.autoSync)).or (s.autoGang.or s.autoRest)

/-- The bytes of locations, by whole atomicity units (04 R99), are fixed for a later plain load of the hart on core n (04 R92): what memory
holds now, with the tags of granules read whole, where the load could be performed now (02 R65; 03 R76, R83) and no store of the hart to
them is on its way (04 R87). The order in which they are fixed stands, for the die-local ones, whose loads follow one another (04 R88). -/
def State.earlyRead (s : State) (n k len : Nat) : State :=
  let keys := (piecesOf n false (keysFrom k len)).flatMap fun p => keysFrom p (atomUnit n p)
  let granules := (keys.foldl (fun l k => sadd l (k / 16)) []).filter fun g => (keysFrom (16 * g) 16).all keys.contains
  let h := s.hartAt n
  let mine (e : SbEntry) : Bool := e.overlaps keys
  let ok := h.place == .placed && !h.pair.on && !(h.sb.any mine) && !(h.posted.any mine) && !((h.entering.getD []).any mine)
    && keys.all fun k => !isDev k && k != noKey && (s.markOf k == .pass) && !s.poisonedFor false k && !s.inRefresh k
  if ok then s.modHart n fun h =>
    let h := h.dropEarly n keys.contains
    { h with
      early := h.early ++ keys.map fun k => (k, s.byteAt k)
      earlyTags := granules.foldl (fun t g => tset t g (s.tagAt (16 * g))) h.earlyTags }
  else s

/-- The odd core of a paired stream performs its part of a plain load of the stream, at a moment of its own (14 R347): where the even core
has read the locations in this interval, a difference shows at once, else what the odd one read stands until the even one reads. -/
def State.oddRead (s : State) (n k len : Nat) : State :=
  let keys := keysFrom k len
  let e := n ^^^ 1
  let p := (s.hartAt e).pair
  let ok := n % 2 == 1 && (s.hartAt n).place == .parked && p.on
    && keys.all fun k => !isDev k && k != noKey && (s.markOf k == .pass) && !s.poisonedFor false k && !s.inRefresh k
  if ok then
    let read (k : Nat) : Option Host.Cell := p.loads.reverse.find? (·.1 == k)
    let differs := keys.any fun k => (read k).any (·.2 != s.byteAt k)
    let fresh := keys.filter fun k => (read k).isNone
    let s := if differs then s.modHart e fun h => { h with pair := { h.pair with differs := true } } else s
    s.modHart n fun h => { h with early := h.early.filter (fun c => !fresh.contains c.1) ++ fresh.map fun k => (k, s.byteAt k) }
  else s

/-- The next turn. With an empty agenda a slot opens once every hart has had a turn and waits (log 60). -/
def State.nextTurn (s : State) : Next :=
  if s.m.stopped then
    match s.agenda with
    | .boot img :: rest => .ended ({ s with agenda := rest }.boot img)
    | _ => .ended s
  else
    match s.agenda with
    | .boot img :: rest => .ended ({ s with agenda := rest }.boot img)
    | .event i :: rest => .run i { s with agenda := rest }
    | .early n k len :: rest =>
      let s := { s with agenda := rest }
      .ended (if (s.hartAt n).place == .parked then s.oddRead n k len else s.earlyRead n k len)
    | .hart n :: rest => ({ s with agenda := rest }.switchTo n).hartTurn
    | [] =>
      if s.hart.place == .placed && !s.hart.waiting && !s.hart.moving then { s with idleTurns := 0 }.hartTurn
      else
        match s.autoEvent with
        | some t => .ended { t.tickEvent with idleTurns := 0 }
        | none =>
          match if s.cores.length < s.idleTurns then s.cores.findSome? s.slotOpen else none with
          | some t => .ended { t.tickEvent with idleTurns := 0 }
          | none => ({ s with idleTurns := s.idleTurns + 1 }.switchTo s.nextHart).hartTurn

end Sys2Proof.Machine
end

