-- ==== Sys2Proof/Machine/Dispatch.lean ====
section
/-! DEFINITION. The dispatch: one arm per instruction. -/

namespace Sys2Proof.Machine

/-- Run one instruction or event. -/
def exec (i : Instr) (s : State) : Host.Outcome State Fault Refusal :=
  match i with
  | .addCompact n a b => Sys2Proof.Machine.execAddCompact n a b s
  | .subCompact n a b => Sys2Proof.Machine.execSubCompact n a b s
  | .andCompact n a b => Sys2Proof.Machine.execAndCompact n a b s
  | .orCompact n a b => Sys2Proof.Machine.execOrCompact n a b s
  | .xorCompact n a b => Sys2Proof.Machine.execXorCompact n a b s
  | .mov n a b => Sys2Proof.Machine.execMov n a b s
  | .mulCompact n a b => Sys2Proof.Machine.execMulCompact n a b s
  | .shlCompact n a b => Sys2Proof.Machine.execShlCompact n a b s
  | .add n a b c => Sys2Proof.Machine.execAdd n a b c s
  | .sub n a b c => Sys2Proof.Machine.execSub n a b c s
  | .and n a b c => Sys2Proof.Machine.execAnd n a b c s
  | .or n a b c => Sys2Proof.Machine.execOr n a b c s
  | .xor n a b c => Sys2Proof.Machine.execXor n a b c s
  | .andn n a b c => Sys2Proof.Machine.execAndn n a b c s
  | .shl n a b c => Sys2Proof.Machine.execShl n a b c s
  | .shr n a b c => Sys2Proof.Machine.execShr n a b c s
  | .sar n a b c => Sys2Proof.Machine.execSar n a b c s
  | .ror n a b c => Sys2Proof.Machine.execRor n a b c s
  | .mul n a b c => Sys2Proof.Machine.execMul n a b c s
  | .mulh n a b c => Sys2Proof.Machine.execMulh n a b c s
  | .mulhu n a b c => Sys2Proof.Machine.execMulhu n a b c s
  | .mulhsu n a b c => Sys2Proof.Machine.execMulhsu n a b c s
  | .div n a b c => Sys2Proof.Machine.execDiv n a b c s
  | .divu n a b c => Sys2Proof.Machine.execDivu n a b c s
  | .rem n a b c => Sys2Proof.Machine.execRem n a b c s
  | .remu n a b c => Sys2Proof.Machine.execRemu n a b c s
  | .min n a b c => Sys2Proof.Machine.execMin n a b c s
  | .max n a b c => Sys2Proof.Machine.execMax n a b c s
  | .minu n a b c => Sys2Proof.Machine.execMinu n a b c s
  | .maxu n a b c => Sys2Proof.Machine.execMaxu n a b c s
  | .seq n a b c => Sys2Proof.Machine.execSeq n a b c s
  | .sne n a b c => Sys2Proof.Machine.execSne n a b c s
  | .slt n a b c => Sys2Proof.Machine.execSlt n a b c s
  | .sltu n a b c => Sys2Proof.Machine.execSltu n a b c s
  | .selnz n a b c => Sys2Proof.Machine.execSelnz n a b c s
  | .selz n a b c => Sys2Proof.Machine.execSelz n a b c s
  | .clz n a b => Sys2Proof.Machine.execClz n a b s
  | .ctz n a b => Sys2Proof.Machine.execCtz n a b s
  | .popc n a b => Sys2Proof.Machine.execPopc n a b s
  | .bswap n a b => Sys2Proof.Machine.execBswap n a b s
  | .li16 n a imm => Sys2Proof.Machine.execLi16 n a imm s
  | .li32 n a imm => Sys2Proof.Machine.execLi32 n a imm s
  | .li64 n a imm => Sys2Proof.Machine.execLi64 n a imm s
  | .addi16 n a b imm => Sys2Proof.Machine.execAddi16 n a b imm s
  | .addi32 n a b imm => Sys2Proof.Machine.execAddi32 n a b imm s
  | .caddReg n a b c => Sys2Proof.Machine.execCaddReg n a b c s
  | .cadd16 n a b imm => Sys2Proof.Machine.execCadd16 n a b imm s
  | .cadd32 n a b imm => Sys2Proof.Machine.execCadd32 n a b imm s
  | .ld n a b ord sz off => Sys2Proof.Machine.execLd n a b ord sz off s
  | .st n a b ord sz off => Sys2Proof.Machine.execSt n a b ord sz off s
  | .ldFar n a b ord sz off => Sys2Proof.Machine.execLdFar n a b ord sz off s
  | .stFar n a b ord sz off => Sys2Proof.Machine.execStFar n a b ord sz off s
  | .amoAdd n a b w c => Sys2Proof.Machine.execAmoAdd n a b w c s
  | .amoAnd n a b w c => Sys2Proof.Machine.execAmoAnd n a b w c s
  | .amoOr n a b w c => Sys2Proof.Machine.execAmoOr n a b w c s
  | .amoXor n a b w c => Sys2Proof.Machine.execAmoXor n a b w c s
  | .amoSmin n a b w c => Sys2Proof.Machine.execAmoSmin n a b w c s
  | .amoSmax n a b w c => Sys2Proof.Machine.execAmoSmax n a b w c s
  | .amoUmin n a b w c => Sys2Proof.Machine.execAmoUmin n a b w c s
  | .amoUmax n a b w c => Sys2Proof.Machine.execAmoUmax n a b w c s
  | .amoSwap n a b w c => Sys2Proof.Machine.execAmoSwap n a b w c s
  | .amoCadd n a b w c => Sys2Proof.Machine.execAmoCadd n a b w c s
  | .amoBadd n a b w c => Sys2Proof.Machine.execAmoBadd n a b w c s
  | .cas n a b w c => Sys2Proof.Machine.execCas n a b w c s
  | .fence n mask scope => Sys2Proof.Machine.execFence n mask scope s
  | .fenceE n => Sys2Proof.Machine.execFenceE n s
  | .fenceI n => Sys2Proof.Machine.execFenceI n s
  | .beq n a b idx disp => Sys2Proof.Machine.execBeq n a b idx disp s
  | .bne n a b idx disp => Sys2Proof.Machine.execBne n a b idx disp s
  | .blt n a b idx disp => Sys2Proof.Machine.execBlt n a b idx disp s
  | .bge n a b idx disp => Sys2Proof.Machine.execBge n a b idx disp s
  | .bltu n a b idx disp => Sys2Proof.Machine.execBltu n a b idx disp s
  | .bgeu n a b idx disp => Sys2Proof.Machine.execBgeu n a b idx disp s
  | .jal n a disp idx => Sys2Proof.Machine.execJal n a disp idx s
  | .jr n a b => Sys2Proof.Machine.execJr n a b s
  | .brTok n q => Sys2Proof.Machine.execBrTok n q s
  | .cnarrow n a b c => Sys2Proof.Machine.execCnarrow n a b c s
  | .cnarrowX n a b c => Sys2Proof.Machine.execCnarrowX n a b c s
  | .cdrop n a b c => Sys2Proof.Machine.execCdrop n a b c s
  | .cfmt n a b blog fmt => Sys2Proof.Machine.execCfmt n a b blog fmt s
  | .creadBase n a b => Sys2Proof.Machine.execCreadBase n a b s
  | .creadTop n a b => Sys2Proof.Machine.execCreadTop n a b s
  | .creadLen n a b => Sys2Proof.Machine.execCreadLen n a b s
  | .creadPerm n a b => Sys2Proof.Machine.execCreadPerm n a b s
  | .creadFmt n a b => Sys2Proof.Machine.execCreadFmt n a b s
  | .creadBlog n a b => Sys2Proof.Machine.execCreadBlog n a b s
  | .creadTag n a b => Sys2Proof.Machine.execCreadTag n a b s
  | .creadShut n a b => Sys2Proof.Machine.execCreadShut n a b s
  | .creadMeta n a b => Sys2Proof.Machine.execCreadMeta n a b s
  | .cshut n a b => Sys2Proof.Machine.execCshut n a b s
  | .copen n a b => Sys2Proof.Machine.execCopen n a b s
  | .cmint n a b => Sys2Proof.Machine.execCmint n a b s
  | .cclone n a b => Sys2Proof.Machine.execCclone n a b s
  | .cwithin n a b c => Sys2Proof.Machine.execCwithin n a b c s
  | .vadd o => Sys2Proof.Machine.execVadd o s
  | .vsub o => Sys2Proof.Machine.execVsub o s
  | .vmul o => Sys2Proof.Machine.execVmul o s
  | .vmulh o => Sys2Proof.Machine.execVmulh o s
  | .vmin o => Sys2Proof.Machine.execVmin o s
  | .vmax o => Sys2Proof.Machine.execVmax o s
  | .vabs o => Sys2Proof.Machine.execVabs o s
  | .vneg o => Sys2Proof.Machine.execVneg o s
  | .vaddSat o => Sys2Proof.Machine.execVaddSat o s
  | .vsubSat o => Sys2Proof.Machine.execVsubSat o s
  | .vabsSat o => Sys2Proof.Machine.execVabsSat o s
  | .vand o => Sys2Proof.Machine.execVand o s
  | .vor o => Sys2Proof.Machine.execVor o s
  | .vxor o => Sys2Proof.Machine.execVxor o s
  | .vandn o => Sys2Proof.Machine.execVandn o s
  | .vshl o => Sys2Proof.Machine.execVshl o s
  | .vshr o => Sys2Proof.Machine.execVshr o s
  | .vsar o => Sys2Proof.Machine.execVsar o s
  | .vshli o => Sys2Proof.Machine.execVshli o s
  | .vshri o => Sys2Proof.Machine.execVshri o s
  | .vsari o => Sys2Proof.Machine.execVsari o s
  | .vfadd o => Sys2Proof.Machine.execVfadd o s
  | .vfsub o => Sys2Proof.Machine.execVfsub o s
  | .vfmul o => Sys2Proof.Machine.execVfmul o s
  | .vfmin o => Sys2Proof.Machine.execVfmin o s
  | .vfmax o => Sys2Proof.Machine.execVfmax o s
  | .vfabs o => Sys2Proof.Machine.execVfabs o s
  | .vfneg o => Sys2Proof.Machine.execVfneg o s
  | .vfdiv o => Sys2Proof.Machine.execVfdiv o s
  | .vfsqrt o => Sys2Proof.Machine.execVfsqrt o s
  | .vfma o => Sys2Proof.Machine.execVfma o s
  | .vfms o => Sys2Proof.Machine.execVfms o s
  | .vfnma o => Sys2Proof.Machine.execVfnma o s
  | .vcmul o => Sys2Proof.Machine.execVcmul o s
  | .vcmac o => Sys2Proof.Machine.execVcmac o s
  | .vcmulj o => Sys2Proof.Machine.execVcmulj o s
  | .vcmacj o => Sys2Proof.Machine.execVcmacj o s
  | .vcconj o => Sys2Proof.Machine.execVcconj o s
  | .vcmpEq o => Sys2Proof.Machine.execVcmpEq o s
  | .vcmpNe o => Sys2Proof.Machine.execVcmpNe o s
  | .vcmpLt o => Sys2Proof.Machine.execVcmpLt o s
  | .vcmpLe o => Sys2Proof.Machine.execVcmpLe o s
  | .vsel o => Sys2Proof.Machine.execVsel o s
  | .vmov o => Sys2Proof.Machine.execVmov o s
  | .vsplat o => Sys2Proof.Machine.execVsplat o s
  | .vext o => Sys2Proof.Machine.execVext o s
  | .vins o => Sys2Proof.Machine.execVins o s
  | .vperm o => Sys2Proof.Machine.execVperm o s
  | .vshuf o => Sys2Proof.Machine.execVshuf o s
  | .vslide o => Sys2Proof.Machine.execVslide o s
  | .vmpopc o => Sys2Proof.Machine.execVmpopc o s
  | .vmfirst o => Sys2Proof.Machine.execVmfirst o s
  | .vredsum o => Sys2Proof.Machine.execVredsum o s
  | .vredmin o => Sys2Proof.Machine.execVredmin o s
  | .vredmax o => Sys2Proof.Machine.execVredmax o s
  | .vredand o => Sys2Proof.Machine.execVredand o s
  | .vredor o => Sys2Proof.Machine.execVredor o s
  | .vredxor o => Sys2Proof.Machine.execVredxor o s
  | .vfredsum o => Sys2Proof.Machine.execVfredsum o s
  | .vfredmin o => Sys2Proof.Machine.execVfredmin o s
  | .vfredmax o => Sys2Proof.Machine.execVfredmax o s
  | .vcvt o => Sys2Proof.Machine.execVcvt o s
  | .vld o => Sys2Proof.Machine.execVld o s
  | .vst o => Sys2Proof.Machine.execVst o s
  | .vlds o => Sys2Proof.Machine.execVlds o s
  | .vsts o => Sys2Proof.Machine.execVsts o s
  | .vldx o => Sys2Proof.Machine.execVldx o s
  | .vstx o => Sys2Proof.Machine.execVstx o s
  | .vldDec o => Sys2Proof.Machine.execVldDec o s
  | .vstEnc o => Sys2Proof.Machine.execVstEnc o s
  | .cpCopy o => Sys2Proof.Machine.execCpCopy o s
  | .cpMcast o => Sys2Proof.Machine.execCpMcast o s
  | .cpWm n a b => Sys2Proof.Machine.execCpWm n a b s
  | .cpResume n b => Sys2Proof.Machine.execCpResume n b s
  | .cpAbort n b => Sys2Proof.Machine.execCpAbort n b s
  | .btAlloc n a b hrt => Sys2Proof.Machine.execBtAlloc n a b hrt s
  | .btFree n b => Sys2Proof.Machine.execBtFree n b s
  | .btWaitf n a b => Sys2Proof.Machine.execBtWaitf n a b s
  | .btRel n b => Sys2Proof.Machine.execBtRel n b s
  | .btStat n a b => Sys2Proof.Machine.execBtStat n a b s
  | .tileDecl n a b => Sys2Proof.Machine.execTileDecl n a b s
  | .tileUndecl n b => Sys2Proof.Machine.execTileUndecl n b s
  | .tileChk n b => Sys2Proof.Machine.execTileChk n b s
  | .tileFix n b => Sys2Proof.Machine.execTileFix n b s
  | .mxMma o => Sys2Proof.Machine.execMxMma o s
  | .mxTrn n a ah dh mc nc fmt => Sys2Proof.Machine.execMxTrn n a ah dh mc nc fmt s
  | .mxScale n a b mc nc => Sys2Proof.Machine.execMxScale n a b mc nc s
  | .mxUprog n b up => Sys2Proof.Machine.execMxUprog n b up s
  | .mxWait n a => Sys2Proof.Machine.execMxWait n a s
  | .mxStat n a clr => Sys2Proof.Machine.execMxStat n a clr s
  | .knLoad n b => Sys2Proof.Machine.execKnLoad n b s
  | .knCtlRmask n b => Sys2Proof.Machine.execKnCtlRmask n b s
  | .knCtlCmask n b => Sys2Proof.Machine.execKnCtlCmask n b s
  | .knCtlClr n => Sys2Proof.Machine.execKnCtlClr n s
  | .knStatCore n a => Sys2Proof.Machine.execKnStatCore n a s
  | .knStatRule n a b => Sys2Proof.Machine.execKnStatRule n a b s
  | .knStatClass n a => Sys2Proof.Machine.execKnStatClass n a s
  | .barArrive n a lvl => Sys2Proof.Machine.execBarArrive n a lvl s
  | .barWait n b lvl => Sys2Proof.Machine.execBarWait n b lvl s
  | .barSync n lvl => Sys2Proof.Machine.execBarSync n lvl s
  | .barTest n a b lvl => Sys2Proof.Machine.execBarTest n a b lvl s
  | .wake n a b => Sys2Proof.Machine.execWake n a b s
  | .wfw n a b => Sys2Proof.Machine.execWfw n a b s
  | .domSet n b lvl => Sys2Proof.Machine.execDomSet n b lvl s
  | .phase n a b lvl => Sys2Proof.Machine.execPhase n a b lvl s
  | .send n b vr lvl => Sys2Proof.Machine.execSend n b vr lvl s
  | .recv n a vr => Sys2Proof.Machine.execRecv n a vr s
  | .taskSpawn n a b hrt own => Sys2Proof.Machine.execTaskSpawn n a b hrt own s
  | .taskTake n a q => Sys2Proof.Machine.execTaskTake n a q s
  | .taskYield n a b => Sys2Proof.Machine.execTaskYield n a b s
  | .taskDone n => Sys2Proof.Machine.execTaskDone n s
  | .taskExit n => Sys2Proof.Machine.execTaskExit n s
  | .launch n a b => Sys2Proof.Machine.execLaunch n a b s
  | .ctlRd n a num => Sys2Proof.Machine.execCtlRd n a num s
  | .ctlWr n b num => Sys2Proof.Machine.execCtlWr n b num s
  | .safept n map => Sys2Proof.Machine.execSafept n map s
  | .trap n imm => Sys2Proof.Machine.execTrap n imm s
  | .brk n imm => Sys2Proof.Machine.execBrk n imm s
  | .eret n => Sys2Proof.Machine.execEret n s
  | .wfi n => Sys2Proof.Machine.execWfi n s
  | .time n a => Sys2Proof.Machine.execTime n a s
  | .opreq n b => Sys2Proof.Machine.execOpreq n b s
  | .migrate n a b => Sys2Proof.Machine.execMigrate n a b s
  | .pairOn n a => Sys2Proof.Machine.execPairOn n a s
  | .pairOff n => Sys2Proof.Machine.execPairOff n s
  | .errinj n a b => Sys2Proof.Machine.execErrinj n a b s
  | .replayBegin n => Sys2Proof.Machine.execReplayBegin n s
  | .replayAgain n => Sys2Proof.Machine.execReplayAgain n s
  | .replayEnd n a => Sys2Proof.Machine.execReplayEnd n a s
  | .replayDone n => Sys2Proof.Machine.execReplayDone n s
  | .ctxSet n b => Sys2Proof.Machine.execCtxSet n b s
  | .qbind n q b kind => Sys2Proof.Machine.execQbind n q b kind s
  | .qunbind n q => Sys2Proof.Machine.execQunbind n q s
  | .qpop n c q => Sys2Proof.Machine.execQpop n c q s
  | .sbind n v b => Sys2Proof.Machine.execSbind n v b s
  | .sunbind n v => Sys2Proof.Machine.execSunbind n v s
  | .illegalInstruction reason head tail => Sys2Proof.Machine.execIllegalInstruction reason head tail s
  | .tlbinvAll => Sys2Proof.Machine.execTlbinvAll s
  | .tlbinvContext ctx => Sys2Proof.Machine.execTlbinvContext ctx s
  | .tlbinvPages ctx page count => Sys2Proof.Machine.execTlbinvPages ctx page count s
  | .shootdownAck unit => Sys2Proof.Machine.execShootdownAck unit s
  | .ptrootWrite ctx v => Sys2Proof.Machine.execPtrootWrite ctx v s
  | .l1rtvalWrite ctx idx v => Sys2Proof.Machine.execL1rtvalWrite ctx idx v s
  | .tqcfgWrite ctx hearth v => Sys2Proof.Machine.execTqcfgWrite ctx hearth v s
  | .ldreqWrite ctx line => Sys2Proof.Machine.execLdreqWrite ctx line s
  | .wdmapWrite atF v => Sys2Proof.Machine.execWdmapWrite atF v s
  | .rollcmdWrite gang => Sys2Proof.Machine.execRollcmdWrite gang s
  | .errorBankAck unit v => Sys2Proof.Machine.execErrorBankAck unit v s
  | .lineFetch va => Sys2Proof.Machine.execLineFetch va s
  | .trapEntry => Sys2Proof.Machine.execTrapEntry s
  | .storeBufferDrain hart => Sys2Proof.Machine.execStoreBufferDrain hart s
  | .bankGrant hearth reqs => Sys2Proof.Machine.execBankGrant hearth reqs s
  | .remoteResponse hart n => Sys2Proof.Machine.execRemoteResponse hart n s
  | .remoteTimeout hart n => Sys2Proof.Machine.execRemoteTimeout hart n s
  | .remoteStoreRefused hart n => Sys2Proof.Machine.execRemoteStoreRefused hart n s
  | .rangeLockActivate hearth entry => Sys2Proof.Machine.execRangeLockActivate hearth entry s
  | .filterBitClear hearth row => Sys2Proof.Machine.execFilterBitClear hearth row s
  | .engineOpBegin hart => Sys2Proof.Machine.execEngineOpBegin hart s
  | .enginePieceLand opn part => Sys2Proof.Machine.execEnginePieceLand opn part s
  | .landingComplete opn part => Sys2Proof.Machine.execLandingComplete opn part s
  | .bufferFreeMessage hearth handle => Sys2Proof.Machine.execBufferFreeMessage hearth handle s
  | .streamRefill hart v => Sys2Proof.Machine.execStreamRefill hart v s
  | .pageWalk die ctx va acc => Sys2Proof.Machine.execPageWalk die ctx va acc s
  | .l2Access ch l n write far => Sys2Proof.Machine.execL2Access ch l n write far s
  | .sectorFill ch l poisoned => Sys2Proof.Machine.execSectorFill ch l poisoned s
  | .refreshSlot ch => Sys2Proof.Machine.execRefreshSlot ch s
  | .allBankRefreshStart ch => Sys2Proof.Machine.execAllBankRefreshStart ch s
  | .refreshEnd ch => Sys2Proof.Machine.execRefreshEnd ch s
  | .kneaderEntry hart => Sys2Proof.Machine.execKneaderEntry hart s
  | .kneaderAgeFlush hart => Sys2Proof.Machine.execKneaderAgeFlush hart s
  | .mxDispatch hart => Sys2Proof.Machine.execMxDispatch hart s
  | .tileStep tray => Sys2Proof.Machine.execTileStep tray s
  | .mxRetire hart => Sys2Proof.Machine.execMxRetire hart s
  | .mxCommandFault hart => Sys2Proof.Machine.execMxCommandFault hart s
  | .ballastStep tray width => Sys2Proof.Machine.execBallastStep tray width s
  | .droopDetect tray => Sys2Proof.Machine.execDroopDetect tray s
  | .droopHoldEnd tray => Sys2Proof.Machine.execDroopHoldEnd tray s
  | .opTransitionEnd tray => Sys2Proof.Machine.execOpTransitionEnd tray s
  | .capWindowEnd => Sys2Proof.Machine.execCapWindowEnd s
  | .peerThrottled port step on => Sys2Proof.Machine.execPeerThrottled port step on s
  | .timer hart => Sys2Proof.Machine.execTimer hart s
  | .budgetExhausted hart => Sys2Proof.Machine.execBudgetExhausted hart s
  | .thermalWarn tray temp => Sys2Proof.Machine.execThermalWarn tray temp s
  | .thermalCrit tray temp => Sys2Proof.Machine.execThermalCrit tray temp s
  | .thermalTrip tray temp => Sys2Proof.Machine.execThermalTrip tray temp s
  | .thermalClear tray temp => Sys2Proof.Machine.execThermalClear tray temp s
  | .external hart => Sys2Proof.Machine.execExternal hart s
  | .barrierComplete gang lvl dom => Sys2Proof.Machine.execBarrierComplete gang lvl dom s
  | .domainReform gang lvl => Sys2Proof.Machine.execDomainReform gang lvl s
  | .sendDelivery n => Sys2Proof.Machine.execSendDelivery n s
  | .wakeDelivery n => Sys2Proof.Machine.execWakeDelivery n s
  | .dispenseCycle hearth => Sys2Proof.Machine.execDispenseCycle hearth s
  | .opalTokenPass gang => Sys2Proof.Machine.execOpalTokenPass gang s
  | .placementSelect => Sys2Proof.Machine.execPlacementSelect s
  | .trayReserve => Sys2Proof.Machine.execTrayReserve s
  | .reservationRelease => Sys2Proof.Machine.execReservationRelease s
  | .placementCommit => Sys2Proof.Machine.execPlacementCommit s
  | .wakeFlood => Sys2Proof.Machine.execWakeFlood s
  | .hartStop hart => Sys2Proof.Machine.execHartStop hart s
  | .forcedStop hart => Sys2Proof.Machine.execForcedStop hart s
  | .gangSave gang => Sys2Proof.Machine.execGangSave gang s
  | .migration hart => Sys2Proof.Machine.execMigration hart s
  | .fingerprintExchange core => Sys2Proof.Machine.execFingerprintExchange core s
  | .errorDetected unit e => Sys2Proof.Machine.execErrorDetected unit e s
  | .garnetFlush => Sys2Proof.Machine.execGarnetFlush s
  | .rollbackRestore gang => Sys2Proof.Machine.execRollbackRestore gang s
  | .functionPublish ctx handle fn => Sys2Proof.Machine.execFunctionPublish ctx handle fn s
  | .peerAccess r => Sys2Proof.Machine.execPeerAccess r s
  | .ccpLaunch f rec => Sys2Proof.Machine.execCcpLaunch f rec s
  | .ccpCopy f dev off len toDevice => Sys2Proof.Machine.execCcpCopy f dev off len toDevice s
  | .ccpMapBind f page buffer => Sys2Proof.Machine.execCcpMapBind f page buffer s
  | .ccpMapSaveArea f base units => Sys2Proof.Machine.execCcpMapSaveArea f base units s
  | .ccpMapCodeHeap f va pa lines => Sys2Proof.Machine.execCcpMapCodeHeap f va pa lines s
  | .ccpMapCollective f bar => Sys2Proof.Machine.execCcpMapCollective f bar s
  | .ccpMapDeviceIndex f dev => Sys2Proof.Machine.execCcpMapDeviceIndex f dev s
  | .ccpLoad f obj => Sys2Proof.Machine.execCcpLoad f obj s
  | .ccpUnload f handle forced => Sys2Proof.Machine.execCcpUnload f handle forced s
  | .ccpQuery f sub arg => Sys2Proof.Machine.execCcpQuery f sub arg s
  | .ccpTimeSet f v => Sys2Proof.Machine.execCcpTimeSet f v s
  | .ccpTimeRead f => Sys2Proof.Machine.execCcpTimeRead f s
  | .spdmGetVersion f => Sys2Proof.Machine.execSpdmGetVersion f s
  | .spdmGetCapabilities f => Sys2Proof.Machine.execSpdmGetCapabilities f s
  | .spdmNegotiateAlgorithms f => Sys2Proof.Machine.execSpdmNegotiateAlgorithms f s
  | .spdmGetDigests f => Sys2Proof.Machine.execSpdmGetDigests f s
  | .spdmGetCertificate f => Sys2Proof.Machine.execSpdmGetCertificate f s
  | .spdmChallenge f nonce => Sys2Proof.Machine.execSpdmChallenge f nonce s
  | .spdmGetMeasurements f index nonce => Sys2Proof.Machine.execSpdmGetMeasurements f index nonce s
  | .timeSync ppm => Sys2Proof.Machine.execTimeSync ppm s
  | .linkSignalDetect port lanes => Sys2Proof.Machine.execLinkSignalDetect port lanes s
  | .linkTrainDone port lanes => Sys2Proof.Machine.execLinkTrainDone port lanes s
  | .linkTrainFail port => Sys2Proof.Machine.execLinkTrainFail port s
  | .linkRetry port => Sys2Proof.Machine.execLinkRetry port s
  | .linkNegotiate port agree => Sys2Proof.Machine.execLinkNegotiate port agree s
  | .linkDown port => Sys2Proof.Machine.execLinkDown port s
  | .reset img => Sys2Proof.Machine.execReset img s
  | .slotOpen hart => Sys2Proof.Machine.execSlotOpen hart s
  | .powerFailure => Sys2Proof.Machine.execPowerFailure s
  | .hostPortLinkUp port => Sys2Proof.Machine.execHostPortLinkUp port s
  | .hostPortLinkDown port => Sys2Proof.Machine.execHostPortLinkDown port s

end Sys2Proof.Machine
end

