-- ==== Sys2Proof/Machine/Step.lean ====
section
/-! DEFINITION. One step of the module, and a state whose next step runs a given instruction. -/

namespace Sys2Proof.Machine

/-- One step: the next turn's event or instruction, or what the turn does without one. -/
def step (s : State) : Host.Outcome State Fault Refusal :=
  match s.nextTurn with
  | .ended s => .next s
  | .run i s => exec i s

/-- The state with an instruction's words where its next step fetches: in a line of the page that the fetch micro-TLB maps at
0x40000, the PC at its head. It stands for the load of a program (log 3). -/
def State.withFetchWord (s : State) (_nbits w : Nat) : State :=
  let head := w % 0x10000
  let tail := w / 0x10000 % 2 ^ (16 * tailLen (bits head 13 8))
  let line := lineOf head tail
  let leaf : TlbE := { ctx := s.hart.ctx, vpn := 4, block := false, pa := 0x40000, bits := 0xBD }
  { s with
    hart := { s.hart with
      place := .placed, pc := 0x40002, slot := none, fetchReg := 0, utlb := [leaf], lines := [], waiting := false, asy := [], ext := false
      trapEntryOf := none, wfi := false, asked := none, entering := none, checking := none, moving := false
      sync := { s.hart.sync with given := none }, pair := { s.hart.pair with due := false, flushing := false } }
    agenda := [], splits := [], pends := []
    m := { s.m with stopped := false, mem := msets s.m.mem ((keysFrom (paKey s.m 0x40000) 64).zip (splitBytes 64 line)) } }

end Sys2Proof.Machine
end

