-- ==== Sys2Proof/Safety.lean ====
section
/-! DEFINITION. The words that claims are stated in: safe steps and runs, registers that can be read, what an instruction leaves as it
was, and the invariant of a state. -/

namespace Sys2Proof.Machine

/-! ## Safe runs -/

/-- A step that answers a next state. -/
def SafeStep (s : State) : Prop := ∃ t, step s = .next t

/-- A run of n steps, each of which answers a next state. -/
def SafeRun : Nat → State → Prop
  | 0, _ => True
  | n + 1, s => ∃ t, step s = .next t ∧ SafeRun n t

/-! ## Registers that can be read (09 R199, R202; 16 R380) -/

/-- Every result of a fixed class written to a register has met its latency: register r of the c-file is (false, r), of the v-file
(true, r). -/
def Hart.latencyMet (h : Hart) (vec : Bool) (r : Nat) : Prop := ∀ p ∈ h.pend, p.vec = vec → p.reg = r → p.lat ≤ p.dist

/-- Reading the register neither traps with STALL_SHORT, which only CHK = 1 raises, nor consumes an entry of bad parity. -/
def Hart.readable (h : Hart) (vec : Bool) (r : Nat) : Prop :=
  (h.ctl.chk = true → h.latencyMet vec r) ∧ ¬ r + 32 * b2n vec ∈ h.poison

/-- The c-registers of a list can be read; c0 always can. -/
def State.ReadsC (s : State) (l : List CReg) : Prop := ∀ r ∈ l, r ≠ 0 → s.hart.readable false r.val

/-- The v-registers of a list can be read, and none is bound to a stream. -/
def State.ReadsV (s : State) (l : List VReg) : Prop := ∀ r ∈ l, s.hart.readable true r.val ∧ tget? s.hart.streams r.val = none

/-! ## Frames -/

/-- What an instruction that only writes registers leaves as it was. The registers outside `cs` and `vs` keep their values. Of the
rest of the hart, only what every instruction may change does: the scoreboard, the parity of what is written, CYCLE, RETIRED and
ARSTAT, the performance counters, the counts of a replay pass and of a pair, BUDGET with its report, the clock and its cycles, the PC
with the delay slot, the marks of a wait, and bytes fixed for later loads. Memory, tags and every other unit are as before, but for the module's clock and the energy
accounts. -/
structure Frame (s t : State) (cs : List CReg) (vs : List VReg) : Prop where
  c : ∀ r, r ∉ cs → t.hart.c[r] = s.hart.c[r]
  v : ∀ r, r ∉ vs → t.hart.v[r] = s.hart.v[r]
  ctl : t.hart.ctl = { s.hart.ctl with cycle := t.hart.ctl.cycle, retired := s.hart.ctl.retired + 1, arstat := t.hart.ctl.arstat }
  hart : t.hart = { s.hart.settled with
    c := t.hart.c, v := t.hart.v, ctl := t.hart.ctl
    pc := t.hart.pc, slot := t.hart.slot, fetchReg := t.hart.fetchReg
    pend := t.hart.pend, poison := t.hart.poison, perf := t.hart.perf, rep := t.hart.rep, pair := t.hart.pair
    sync := { s.hart.sync with budget := t.hart.sync.budget }, asy := t.hart.asy, clock := t.hart.clock, cyc := t.hart.cyc
    early := t.hart.early, earlyTags := t.hart.earlyTags }
  trays : ∀ n, tget {} t.m.trays n = { tget {} s.m.trays n with enacc := (tget {} t.m.trays n).enacc, spent := (tget {} t.m.trays n).spent }
  mod : t.m = { s.m with now := t.m.now, trays := t.m.trays, power := { s.m.power with dieAcc := t.m.power.dieAcc, dieSpent := t.m.power.dieSpent } }
  mem : ∀ k, mget t.m.mem k = mget s.m.mem k
  rest : t.parked = s.parked ∧ t.cur = s.cur ∧ t.agenda = s.agenda ∧ t.splits = s.splits ∧ t.pends = s.pends ∧ t.tick = s.tick

/-- What an instruction that also acts on other units leaves of its hart: the registers outside `cs` and `vs`, the q-registers, the
level with its banks and the shadow pair, the identity registers, and of the control registers all but CYCLE, RETIRED and ARSTAT. -/
structure Keeps (s t : State) (cs : List CReg) (vs : List VReg) : Prop where
  c : ∀ r, r ∉ cs → t.hart.c[r] = s.hart.c[r]
  v : ∀ r, r ∉ vs → t.hart.v[r] = s.hart.v[r]
  q : t.hart.q = s.hart.q
  lvl : t.hart.lvl = s.hart.lvl
  banks : t.hart.kb = s.hart.kb ∧ t.hart.fb = s.hart.fb ∧ t.hart.shadow = s.hart.shadow
  id : t.hart.id = s.hart.id
  ctl : t.hart.ctl = { s.hart.ctl with cycle := t.hart.ctl.cycle, retired := t.hart.ctl.retired, arstat := t.hart.ctl.arstat }

/-- Every byte of memory is as before. -/
def SameMem (s t : State) : Prop := ∀ k, mget t.m.mem k = mget s.m.mem k

/-- ARSTAT is as before. -/
def SameFlags (s t : State) : Prop := t.hart.ctl.arstat = s.hart.ctl.arstat

/-- Where the PC goes after an instruction that is no control transfer (09 R193, R203): to the pending target where it stood in a
delay slot, else to the next instruction. -/
def Hart.after (h : Hart) : Word :=
  match h.slot with
  | some d => d.target
  | none => nextPc h.pc h.hc

/-- The PC moves past the instruction. -/
def MovesOn (s t : State) : Prop := t.hart.slot = none ∧ t.hart.pc = s.hart.after

/-- An instruction completes and writes one c-register, with a result that can be read at once, and nothing else; c0 discards it. -/
def WritesC (s : State) (i : Instr) (a : CReg) (x : Cap) : Prop :=
  ∃ t, exec i s = .next t ∧ t.rc a = (if a = 0 then {} else x) ∧ Frame s t [a] [] ∧ SameFlags s t ∧ MovesOn s t

/-- The same for an integer result, which is untagged (10 R218). -/
def WritesX (s : State) (i : Instr) (a : CReg) (x : Word) : Prop := WritesC s i a { tag := false, md := 0, addr := x }

/-- An instruction of a fixed class of latency `lat` and stall count n completes and writes one c-register: its entry holds the
result, which can be read once the latency is met, `n + 1` cycles after issue or later (09 R199); c0 discards it. -/
def WritesLate (s : State) (i : Instr) (a : CReg) (x : Cap) (lat n : Nat) : Prop :=
  ∃ t, exec i s = .next t ∧ Frame s t [a] [] ∧ SameFlags s t ∧ MovesOn s t ∧ (a ≠ 0 → t.hart.c[a] = x) ∧
    (a ≠ 0 → (t.hart.latencyMet false a.val ↔ lat ≤ 1 + n))

/-- An instruction completes and writes nothing but the counts that every instruction may change. -/
def Passes (s : State) (i : Instr) : Prop := ∃ t, exec i s = .next t ∧ Frame s t [] [] ∧ SameFlags s t ∧ MovesOn s t

/-- An instruction does not complete: it takes a synchronous trap (16 R376). -/
def Traps (s : State) (i : Instr) (cause : Nat) (val info : Word) : Prop := exec i s = .next (s.trap cause val info)

/-- A conditional or unconditional transfer completes: the PC moves to the delay slot, behind which the next PC is `goal`
(09 R203). -/
def GoesTo (s t : State) (goal : Word) (creg : Nat) : Prop :=
  t.hart.pc = nextPc s.hart.pc s.hart.hc ∧ t.hart.slot = some { target := goal, src := some s.hart.pc, creg := creg }

/-- An instruction completes, leaves its registers as they were, and `P` holds of the state after it. -/
def Done (s : State) (i : Instr) (P : State → Prop) : Prop :=
  ∃ t, exec i s = .next t ∧ Keeps s t [] [] ∧ SameFlags s t ∧ MovesOn s t ∧ P t

/-- An instruction completes, writes an integer to one c-register, and `P` holds of the state after it. -/
def Gives (s : State) (i : Instr) (a : CReg) (x : Word) (P : State → Prop) : Prop :=
  ∃ t, exec i s = .next t ∧ t.rc a = (if a = 0 then {} else { addr := x }) ∧ Keeps s t [a] [] ∧ SameFlags s t ∧ MovesOn s t ∧ P t

/-- A matrix command can be accepted at once (12 R279): its queue and those of its parts have room, the entries are free and its box
overlaps no operation outside its own queue. -/
structure MxRoom (s : State) (c : MxCmd) (segs : List Seg) : Prop where
  queue : s.mxLoad s.cur < 16
  parts : ∀ p ∈ c.parts, s.mxLoad p.core < 16
  entries : s.entriesFree segs (c.parts.flatMap fun p => if c.toCap then c.partSegs s.cur p else []) = true
  apart : s.busy (fun o => decide (0x100000 ≤ o) && (o - 0x100000) / 0x10000 == s.cur) (if c.readsDest then segs else []) segs = false

/-- A matrix instruction completes: its command has the next sequence number, alone or within a replacement of the Kneader, and where the
window of its core is off it stands last in the queue as `P` says. -/
def Queues (s s1 : State) (i : Instr) (P : MxCmd → Prop) : Prop :=
  let seq := (s.hart.mx.nextSeq + 1) % 65536
  Done s i fun t => SameMem s1 t ∧ t.hart.mx.nextSeq = seq ∧ (∃ q ∈ t.hart.mx.queue, seq ∈ q.seqs) ∧
    ((s.tray (trayOf s.cur)).cmask.getLsbD (s.cur % 8) = false → ∃ q, t.hart.mx.queue.getLast? = some q ∧ q.seqs = [seq] ∧ P q)

/-- An event of a unit happens: `P` holds of what it makes of the state, with which a cycle of the module's clock passes (log 5). -/
def Acts (s : State) (i : Instr) (P : State → Prop) : Prop := ∃ t, exec i s = .next t.tickEvent ∧ P t

/-- The hart may make an access that has a need (14 R334, R339). -/
def State.may (s : State) (n : CtlNeed) : Prop :=
  match n with
  | .all => True
  | .level l => l.num ≤ s.hart.lvl.num
  | .perm b => s.hart.lvl ≠ .u ∨ s.hart.ctl.rwperm.getLsbD b = true

/-- EINFO of the PRIVILEGED that refuses it: REASON 0 for a level, 1 for a bit of RWPERM. -/
def refusedInfo (n : CtlNeed) : Word :=
  match n with
  | .perm _ => 0x100
  | _ => 0

/-- The hart's engine operations are final (04 R103). -/
def State.EnginesIdle (s : State) : Prop :=
  s.hart.cpq = [] ∧ s.hart.mx.queue = [] ∧
    ∀ o ∈ s.m.ops, o.2.cmd.hart = s.cur → o.2.cmd.gang = s.hart.gang → (o.2.stream = true ∧ o.2.write = false) ∨ o.2.aborted = true ∨ ∀ d ∈ o.2.dels, d.final = true

/-! ## Vector results -/

/-- The v-registers of a vector instruction, its mask and its old destination can be read, and none of them and of its destination is
bound to a stream. -/
def ReadsOp (s : State) (o : VOp) (srcs : List VReg) : Prop := s.ReadsV (srcs ++ o.maskReg ++ o.oldReg) ∧ tget? s.hart.streams o.vd.val = none

/-- Component c of a register of components of w bits belongs to this element of the format. -/
def compElem (o : VOp) (w c : Nat) : Nat := c * w / o.w

/-- A vector instruction completes and writes its destination, component by component of w bits: `f c` where the element is active,
else zero or the old component (11 R244). ARSTAT gathers the flags of the active components and nothing else. The result can be read
once the latency is met. -/
def WritesV (s : State) (i : Instr) (o : VOp) (lat w : Nat) (f : Nat → FRes) : Prop :=
  ∃ t, exec i s = .next t ∧ Frame s t [] [o.vd] ∧ MovesOn s t ∧
    (∀ c < 512 / w, velem t.hart.v[o.vd] w c =
      if o.active s (compElem o w c) then (f c).1 % 2 ^ w else if o.ag then 0 else velem (s.rv o.vd) w c) ∧
    (∀ b, t.hart.ctl.arstat.getLsbD b = (s.hart.ctl.arstat.getLsbD b ||
      (List.range (512 / w)).any fun c => o.active s (compElem o w c) && (f c).2.getLsbD b)) ∧
    (t.hart.latencyMet true o.vd.val ↔ lat ≤ 1 + o.s.val)

/-- A vector instruction completes and writes its destination whole, with flags. -/
def WritesWhole (s : State) (i : Instr) (o : VOp) (lat : Nat) (x : Vec) (fl : Flags) : Prop :=
  ∃ t, exec i s = .next t ∧ Frame s t [] [o.vd] ∧ MovesOn s t ∧ t.hart.v[o.vd] = x ∧
    t.hart.ctl.arstat = s.hart.ctl.arstat ||| fl ∧ (t.hart.latencyMet true o.vd.val ↔ lat ≤ 1 + o.s.val)

/-- A vector instruction completes and writes a c-register with an integer of class Vector simple, whose latency is 2. -/
def WritesCV (s : State) (i : Instr) (o : VOp) (a : CReg) (x : Word) : Prop :=
  ∃ t, exec i s = .next t ∧ Frame s t [a] [] ∧ SameFlags s t ∧ MovesOn s t ∧ (a ≠ 0 → t.hart.c[a] = { addr := x }) ∧
    (a ≠ 0 → (t.hart.latencyMet false a.val ↔ 2 ≤ 1 + o.s.val))

/-- The integer formats that vector arithmetic accepts, with the width of a component and its sign (11 R243, R248). -/
def intShape (fmt : Nat) : Option (Nat × Bool) :=
  match fmt with
  | 0x01 => some (8, true) | 0x02 => some (16, true) | 0x03 => some (32, true) | 0x04 => some (64, true)
  | 0x05 => some (8, false) | 0x06 => some (16, false) | 0x07 => some (32, false) | 0x08 => some (64, false)
  | 0x09 => some (16, true) | 0x0A => some (32, true)
  | _ => none

/-- The float formats that vector arithmetic accepts (11 R250); CBF16 has two components of BF16. -/
def fltShape (fmt : Nat) : Option FloatFmt :=
  match fmt with
  | 0x10 => some fp32 | 0x11 => some fp16 | 0x12 => some bf16 | 0x17 => some bf16
  | _ => none

/-- Every format of R243 but I4 and N4. -/
def wholeFmt (fmt : Nat) : Prop := fmt ≤ 0x0A ∨ (0x10 ≤ fmt ∧ fmt ≤ 0x14) ∨ fmt = 0x17

/-- The value of w bits, signed or not. -/
def intVal (sg : Bool) (w x : Nat) : Int := if sg then toSigned w x else x

/-- The range of w bits, signed or not. -/
def intLo (sg : Bool) (w : Nat) : Int := if sg then -(2 ^ (w - 1)) else 0
/-- The largest value of w bits, signed or not. -/
def intHi (sg : Bool) (w : Nat) : Int := if sg then 2 ^ (w - 1) - 1 else 2 ^ w - 1

/-- A number clipped to a range, as w bits, with SAT where it clips (06 R133). -/
def satTo (sg : Bool) (w : Nat) (x : Int) : FRes :=
  (wrap w (max (intLo sg w) (min x (intHi sg w))), if x < intLo sg w ∨ intHi sg w < x then 4 else 0)

/-! ## Reaching memory -/

/-- Nothing holds up or stops a read of some locations (02 R65, R60; 03 R76, R82, R83; 18 R409): every byte has landed, none is
poisoned or flipped, no refresh is under way and no other read awaited at their banks, the address answers, and in time; the present
instruction has read nothing yet, no byte of it was fixed before, and one turn performs it whole (log 60). -/
structure Clear (s : State) (keys : List Nat) (whole : Bool) : Prop where
  marks : ∀ k ∈ keys, s.markOf k = .pass
  clean : ∀ k ∈ keys, s.poisonedFor whole k = false
  sound : ∀ k ∈ keys, isL1 k = true → tget? s.m.flips (k / 8) = none
  fresh : ∀ k ∈ keys, s.inRefresh k = false
  turn : ∀ k ∈ keys, ∀ w ∈ s.chanWaits, w.1 ≠ bankOf k
  idle : ∀ k ∈ keys, isHbm k = true → (s.chan (keyCh k)).reads = []
  once : s.splits = [] ∧ s.pends = []
  first : s.hart.got = [] ∧ (∀ c ∈ s.hart.early, c.1 ∉ keys) ∧ ∀ k ∈ keys, tget? s.hart.earlyTags (k / 16) = none
  answers : noKey ∉ keys
  inTime : (∃ k ∈ keys, s.remote k = true) → s.late = false

/-- A load completes after the check of its address, which answers the state s1 (translation may set A in a page-table entry, 01 R34):
it writes c[a] and no byte of memory. -/
def Loads (s s1 : State) (i : Instr) (a : CReg) (x : Cap) : Prop :=
  ∃ t, exec i s = .next t ∧ t.rc a = (if a = 0 then {} else x) ∧ Keeps s t [a] [] ∧ SameFlags s t ∧ MovesOn s t ∧ SameMem s1 t

/-- A store completes: its bytes enter the store buffer as its youngest entry (04 R89), and no byte of memory changes yet. -/
def Buffers (s s1 : State) (i : Instr) (cells : List Host.Cell) (rel cap tag : Bool) : Prop :=
  ∃ t e, exec i s = .next t ∧ t.hart.sb = s.hart.sb ++ [e] ∧ e.cells = cells ∧ e.rel = rel ∧ e.cap = cap ∧ e.tag = tag ∧
    Keeps s t [] [] ∧ SameFlags s t ∧ MovesOn s t ∧ SameMem s1 t

/-- What a write of some locations leaves of the tags (01 R23): those of the granules it writes to are clear, all others are as they
were. -/
def ClearsTags (s t : State) (keys : List Nat) : Prop :=
  ∀ k, t.tagAt k = if (∃ j ∈ keys, j / 16 = k / 16) then false else s.tagAt k

/-- An atomic completes: it answers the old value, zero-extended, and writes the bytes of `new` where there is one, and no other
byte, which clears the tags of their granules. -/
def Swaps (s s1 : State) (i : Instr) (a : CReg) (keys : List Nat) (new : Option Nat) : Prop :=
  ∃ t, exec i s = .next t ∧ t.rc a = (if a = 0 then {} else { addr := w64 (joinBytes (keys.map s1.byteAt)) }) ∧
    (∀ v, new = some v → ∀ j, (h : j < keys.length) → mget t.m.mem keys[j] = BitVec.ofNat 8 (v / 256 ^ j)) ∧
    (∀ k, new = none ∨ k ∉ keys → mget t.m.mem k = mget s1.m.mem k) ∧ ClearsTags s1 t (if new.isSome then keys else []) ∧ Keeps s t [a] [] ∧ SameFlags s t ∧ MovesOn s t

/-- Ranges of a vector access, each with the bytes a store puts there, in the order it puts them. -/
def rangeCells (l : List (VAcc × Nat)) : List Host.Cell := l.flatMap fun e => e.1.span.keys.zip (splitBytes e.1.span.keys.length e.2)

/-- The aligned blocks of 64 locations that ranges touch, each once. -/
def rangeBlocks (l : List VAcc) : List Nat := (l.flatMap fun v => v.span.keys.map (· / 64)).eraseDups

/-- A vector load completes after the check of its ranges, which answers the state s1: of its elements of w bits, `val` names the active
ones and what they become; `fl` are the flags it sets. -/
def LoadsV (s s1 : State) (i : Instr) (o : VOp) (val : Nat → Nat) (fl : Flags) : Prop :=
  ∃ t, exec i s = .next t ∧ Keeps s t [] [o.vd] ∧ MovesOn s t ∧ SameMem s1 t ∧ t.hart.ctl.arstat = s.hart.ctl.arstat ||| fl ∧
    ∀ j < 512 / o.w, velem t.hart.v[o.vd] o.w j = if o.active s j then val j % 2 ^ o.w else if o.ag then 0 else velem (s.rv o.vd) o.w j

/-- A vector store completes after the check of its ranges: its bytes enter the store buffer behind what it holds, and no byte of
memory changes yet. -/
def BuffersV (s s1 : State) (i : Instr) (l : List (VAcc × Nat)) (fl : Flags) : Prop :=
  ∃ t es, exec i s = .next t ∧ t.hart.sb = s.hart.sb ++ es ∧ (∀ c ∈ rangeCells l, ∀ d, heldOver es c.1 d = c.2) ∧
    (∀ k, (∀ c ∈ rangeCells l, c.1 ≠ k) → ∀ d, heldOver es k d = d) ∧
    Keeps s t [] [] ∧ MovesOn s t ∧ SameMem s1 t ∧ t.hart.ctl.arstat = s.hart.ctl.arstat ||| fl

/-- A store of some ranges is not held up: no range-lock entry of the own Hearth covers them, their bytes are distinct, no copy of the
hart waits to begin, no paired stream holds the store, and the buffer has room for an entry for each block. -/
structure StoreRoom (s : State) (l : List VAcc) : Prop where
  free : ∀ v ∈ l, s.lockHit (v.span.keys.filter fun k => isL1 k && keyHearth k == s.die) = none
  distinct : (l.flatMap fun v => v.span.keys).Nodup
  begun : s.hart.cpq = []
  single : s.hart.pair.on = false
  room : s.hart.sb.length + (rangeBlocks l).length ≤ 16

/-! ## The invariant -/

/-- The memory of the module has its canonical form: locations strictly ascending and no byte listed that an unlisted location reads
as. -/
def State.MemWf (s : State) : Prop := Memory.wf s.m.mem = true

end Sys2Proof.Machine
end

