-- ==== Sys2Proof/Certificates/Slice0/Obligations.lean ====
section
/-! DEFINITION. The statements for the provers. -/

open Sys2Proof Sys2Proof.Machine

/-! ## Integer instructions (10 R218 to R223) -/

/-- R219: the compact two-address forms of class ALU complete wherever their sources can be read, and write what the table gives.
R220: the three-address forms of class ALU complete wherever their sources can be read, and write what the table gives. -/
def Obligations.IntegerFormsComplete : Prop :=
  (∀ (s : State) (n : Fin 4) (a b : CReg), s.ReadsC [a, b] →
     WritesX s (.addCompact n a b) a (s.ra a + s.ra b) ∧
     WritesX s (.subCompact n a b) a (s.ra a - s.ra b) ∧
     WritesX s (.andCompact n a b) a (s.ra a &&& s.ra b) ∧
     WritesX s (.orCompact n a b) a (s.ra a ||| s.ra b) ∧
     WritesX s (.xorCompact n a b) a (s.ra a ^^^ s.ra b) ∧
     WritesX s (.shlCompact n a b) a (s.ra a <<< ((s.ra b).toNat % 64))) ∧
  (∀ (s : State) (n : Fin 4) (a b c : CReg), s.ReadsC [b, c] →
     WritesX s (.add n a b c) a (s.ra b + s.ra c) ∧
     WritesX s (.sub n a b c) a (s.ra b - s.ra c) ∧
     WritesX s (.and n a b c) a (s.ra b &&& s.ra c) ∧
     WritesX s (.or n a b c) a (s.ra b ||| s.ra c) ∧
     WritesX s (.xor n a b c) a (s.ra b ^^^ s.ra c) ∧
     WritesX s (.andn n a b c) a (s.ra b &&& ~~~ (s.ra c)) ∧
     WritesX s (.shl n a b c) a (s.ra b <<< ((s.ra c).toNat % 64)) ∧
     WritesX s (.shr n a b c) a (s.ra b >>> ((s.ra c).toNat % 64)) ∧
     WritesX s (.sar n a b c) a ((s.ra b).sshiftRight ((s.ra c).toNat % 64)) ∧
     WritesX s (.ror n a b c) a ((s.ra b >>> ((s.ra c).toNat % 64)) ||| (s.ra b <<< ((64 - (s.ra c).toNat % 64) % 64))) ∧
     WritesX s (.min n a b c) a (BitVec.ofInt 64 (min (s.ra b).toInt (s.ra c).toInt)) ∧
     WritesX s (.max n a b c) a (BitVec.ofInt 64 (max (s.ra b).toInt (s.ra c).toInt)) ∧
     WritesX s (.minu n a b c) a (BitVec.ofNat 64 (min (s.ra b).toNat (s.ra c).toNat)) ∧
     WritesX s (.maxu n a b c) a (BitVec.ofNat 64 (max (s.ra b).toNat (s.ra c).toNat)) ∧
     WritesX s (.seq n a b c) a (if s.ra b = s.ra c then 1 else 0) ∧
     WritesX s (.sne n a b c) a (if s.ra b = s.ra c then 0 else 1) ∧
     WritesX s (.slt n a b c) a (if (s.ra b).toInt < (s.ra c).toInt then 1 else 0) ∧
     WritesX s (.sltu n a b c) a (if (s.ra b).toNat < (s.ra c).toNat then 1 else 0))

/-- R220: CLZ, CTZ, POPC, BSWAP and the MOV of R219 complete wherever the source can be read. The counts are given by what they
mean: v zero bits from one end, then a one bit unless v is 64. R220: SELNZ and SELZ read c[A] as a third source and write c[A]
untagged even where they keep its value. R222: the immediate forms complete in every state that lets their source be read, and
write an integer result. -/
def Obligations.UnaryImmediateAndSelectFormsComplete : Prop :=
  (∀ (s : State) (n : Fin 4) (a b : CReg), s.ReadsC [b] →
     WritesX s (.mov n a b) a (s.ra b) ∧
     (∀ v ≤ 64, (∀ i < v, (s.ra b).getLsbD (63 - i) = false) → (v < 64 → (s.ra b).getLsbD (63 - v) = true) →
       WritesX s (.clz n a b) a (BitVec.ofNat 64 v)) ∧
     (∀ v ≤ 64, (∀ i < v, (s.ra b).getLsbD i = false) → (v < 64 → (s.ra b).getLsbD v = true) →
       WritesX s (.ctz n a b) a (BitVec.ofNat 64 v)) ∧
     WritesX s (.popc n a b) a (BitVec.ofNat 64 ((List.range 64).countP fun i => (s.ra b).getLsbD i)) ∧
     WritesX s (.bswap n a b) a
       ((s.ra b).extractLsb' 0 8 ++ (s.ra b).extractLsb' 8 8 ++ (s.ra b).extractLsb' 16 8 ++ (s.ra b).extractLsb' 24 8 ++
         (s.ra b).extractLsb' 32 8 ++ (s.ra b).extractLsb' 40 8 ++ (s.ra b).extractLsb' 48 8 ++ (s.ra b).extractLsb' 56 8)) ∧
  (∀ (s : State) (n : Fin 4) (a b c : CReg), s.ReadsC [a, b, c] →
     WritesX s (.selnz n a b c) a (if s.ra c ≠ 0 then s.ra b else s.ra a) ∧
     WritesX s (.selz n a b c) a (if s.ra c = 0 then s.ra b else s.ra a)) ∧
  (∀ (s : State) (n : Fin 4) (a b : CReg) (i16 : BitVec 16) (i32 : BitVec 32) (i64 : BitVec 64),
     WritesX s (.li16 n a i16) a (BitVec.ofInt 64 i16.toInt) ∧
     WritesX s (.li32 n a i32) a (BitVec.ofInt 64 i32.toInt) ∧
     WritesX s (.li64 n a i64) a i64 ∧
     (s.ReadsC [b] →
       WritesX s (.addi16 n a b i16) a (s.ra b + BitVec.ofInt 64 i16.toInt) ∧
       WritesX s (.addi32 n a b i32) a (s.ra b + BitVec.ofInt 64 i32.toInt)))

/-- R219, R220: the multiplications complete wherever their sources can be read; they are of class Multiply, whose latency is 3.
R221: division truncates toward zero, a zero divisor gives all ones and the dividend, and the one overflow gives −2^63 and 0. -/
def Obligations.MultipliesAndDivisionsComplete : Prop :=
  (∀ (s : State) (n : Fin 4) (a b c : CReg),
     (s.ReadsC [a, b] → WritesLate s (.mulCompact n a b) a { addr := s.ra a * s.ra b } 3 n.val) ∧
     (s.ReadsC [b, c] →
       WritesLate s (.mul n a b c) a { addr := s.ra b * s.ra c } 3 n.val ∧
       WritesLate s (.mulh n a b c) a { addr := (((s.ra b).signExtend 128 * (s.ra c).signExtend 128).extractLsb' 64 64) } 3 n.val ∧
       WritesLate s (.mulhu n a b c) a { addr := (((s.ra b).setWidth 128 * (s.ra c).setWidth 128).extractLsb' 64 64) } 3 n.val ∧
       WritesLate s (.mulhsu n a b c) a { addr := (((s.ra b).signExtend 128 * (s.ra c).setWidth 128).extractLsb' 64 64) } 3 n.val)) ∧
  (∀ (s : State) (n : Fin 4) (a b c : CReg), s.ReadsC [b, c] →
     let x := s.ra b
     let y := s.ra c
     WritesX s (.div n a b c) a (if y = 0 then BitVec.allOnes 64 else x.sdiv y) ∧
     WritesX s (.divu n a b c) a (if y = 0 then BitVec.allOnes 64 else x / y) ∧
     WritesX s (.rem n a b c) a (if y = 0 then x else x.srem y) ∧
     WritesX s (.remu n a b c) a (if y = 0 then x else x % y))

/-- R223: CADD completes unless its source is tagged and sealed, where it traps with CAP_SEALED. An untagged source gives an untagged
result; a tagged one keeps its tag and metadata only while it is well formed, the new address is canonical and the address stays
representable. -/
def Obligations.CaddCompletes : Prop :=
  ∀ (s : State) (n : Fin 4) (a b c : CReg) (i16 : BitVec 16) (i32 : BitVec 32), s.ReadsC [b, c] →
    let shut := (s.rc b).tag = true ∧ (s.rc b).seal = true
    let res (off : Word) : Cap :=
      let na := s.ra b + off
      if (s.rc b).tag = true ∧ (s.rc b).malformed = false ∧ canonical na = true ∧ (s.rc b).representable na = true then
        { tag := true, md := (s.rc b).md, addr := na }
      else { addr := na }
    let sealedTrap (i : Instr) : Prop := Traps s i 0x13 (s.ra b) (einfo 0 s.user b.val 0 0 0)
    (¬ shut →
      WritesC s (.caddReg n a b c) a (res (s.ra c)) ∧
      WritesC s (.cadd16 n a b i16) a (res (i16.signExtend 64)) ∧
      WritesC s (.cadd32 n a b i32) a (res (i32.signExtend 64))) ∧
    (shut → sealedTrap (.caddReg n a b c) ∧ sealedTrap (.cadd16 n a b i16) ∧ sealedTrap (.cadd32 n a b i32))

/-! ## Capabilities (10 R224 to R229) -/

/-- R225: CNARROW takes the smallest exponent whose granules hold the requested range in one mantissa, and completes where the
rounded range lies within the bounds of its source; CNARROW.X traps where rounding would be needed. -/
def Obligations.NarrowingCompletes : Prop :=
  ∀ (s : State) (n : Fin 4) (a b c : CReg) (e ob ot : Nat), s.ReadsC [b, c] →
    (s.rc b).tag = true → (s.rc b).seal = false → (s.rc b).bounds? = some (ob, ot) → canonical (s.ra b) = true →
    let base := a55 (s.ra b)
    let top := base + (s.ra c).toNat
    let lo (j : Nat) := base / 2 ^ j * 2 ^ j
    let hi (j : Nat) := (top + 2 ^ j - 1) / 2 ^ j * 2 ^ j
    let fits (j : Nat) := hi j - lo j ≤ 0xFFFFF * 2 ^ j
    e ≤ 35 → (e = 35 ∨ fits e) → (∀ j < e, ¬ fits j) → top ≤ 2 ^ 55 → ob ≤ lo e → hi e ≤ ot →
    let res : Cap := { s.rc b with
      md := mkMd (hi e / 2 ^ e % 2 ^ 20) (lo e / 2 ^ e % 2 ^ 20) e (s.rc b).blog (s.rc b).fmt (s.rc b).perm }
    WritesC s (.cnarrow n a b c) a res ∧
    (lo e = base ∧ hi e = top → WritesC s (.cnarrowX n a b c) a res) ∧
    (¬ (lo e = base ∧ hi e = top) → Traps s (.cnarrowX n a b c) 0x11 (s.ra b) (einfo 0 s.user b.val 4 0 0))

/-- R226, R229: the operations that change one field of a capability complete on a tagged, well-formed source, which only COPEN
accepts sealed; COPEN and CMINT need level K or F, and trap with PRIVILEGED at level U; CCLONE copies any register. -/
def Obligations.CapabilityEditsComplete : Prop :=
  ∀ (s : State) (n : Fin 4) (a b c : CReg) (blog : Fin 8) (fmt : Fin 32), s.ReadsC [b, c] →
    let x := s.rc b
    (x.tag = true → x.malformed = false → x.seal = false →
      WritesC s (.cdrop n a b c) a { x with md := x.md &&& ~~~((s.ra c).extractLsb' 0 8).setWidth 64 } ∧
      WritesC s (.cshut n a b) a { x with md := x.md ||| 0x80 } ∧
      (fmtDefined fmt.val = true →
        WritesC s (.cfmt n a b blog fmt) a { x with md := (x.md &&& ~~~0xFF00) ||| w64 (blog.val * 0x2000 + fmt.val * 0x100) }) ∧
      (fmtDefined fmt.val = false → Traps s (.cfmt n a b blog fmt) 0x26 (w64 fmt.val) (einfo 0 s.user b.val 0 0 0))) ∧
    (x.tag = true → x.malformed = false → s.hart.lvl ≠ .u → WritesC s (.copen n a b) a { x with md := x.md &&& ~~~0x80 }) ∧
    (s.hart.lvl ≠ .u → WritesC s (.cmint n a b) a { tag := true, md := 0x000000000023007F, addr := s.ra b }) ∧
    (s.hart.lvl = .u → Traps s (.copen n a b) 0x04 (insnWord (.copen n a b)) 0 ∧ Traps s (.cmint n a b) 0x04 (insnWord (.cmint n a b)) 0) ∧
    WritesC s (.cclone n a b) a x

/-- R227: the CREAD forms complete on every source; of an untagged one they read 0, and of a malformed one BASE, TOP and LEN read
all ones. R229: CWITHIN completes on every pair of sources and answers 1 exactly where both are tagged, well formed and unsealed,
the second's bounds lie within the first's and its permissions are a subset. -/
def Obligations.CapabilityReadsComplete : Prop :=
  (∀ (s : State) (n : Fin 4) (a b : CReg), s.ReadsC [b] →
     let x := s.rc b
     let field (w : Word) : Word := if x.tag = true then w else 0
     WritesX s (.creadBase n a b) a (field (match x.bounds? with | some (lo, _) => w64 lo | none => BitVec.allOnes 64)) ∧
     WritesX s (.creadTop n a b) a (field (match x.bounds? with | some (_, hi) => w64 hi | none => BitVec.allOnes 64)) ∧
     WritesX s (.creadLen n a b) a (field (match x.bounds? with | some (lo, hi) => w64 (hi - lo) | none => BitVec.allOnes 64)) ∧
     WritesX s (.creadPerm n a b) a (field (x.md &&& 0xFF)) ∧
     WritesX s (.creadFmt n a b) a (field ((x.md >>> 8) &&& 0x1F)) ∧
     WritesX s (.creadBlog n a b) a (field ((x.md >>> 13) &&& 7)) ∧
     WritesX s (.creadTag n a b) a (field 1) ∧
     WritesX s (.creadShut n a b) a (field ((x.md >>> 7) &&& 1)) ∧
     WritesX s (.creadMeta n a b) a (field x.md)) ∧
  (∀ (s : State) (n : Fin 4) (a b c : CReg), s.ReadsC [b, c] →
     let x := s.rc b
     let y := s.rc c
     let inside := x.tag = true ∧ y.tag = true ∧ x.seal = false ∧ y.seal = false ∧ (y.perm &&& x.perm) = y.perm ∧
       ∃ lo hi lo' hi', x.bounds? = some (lo, hi) ∧ y.bounds? = some (lo', hi') ∧ lo ≤ lo' ∧ hi' ≤ hi
     (inside → WritesX s (.cwithin n a b c) a 1) ∧ (¬ inside → WritesX s (.cwithin n a b c) a 0))

/-! ## Loads, stores, atomics and fences (10 R230 to R238) -/

/-- R29, R18: an aligned access of 1 to 16 bytes through the own Hearth's aperture passes the check where the capability is tagged,
unsealed and well formed, has the permission and holds the bytes, and entries of the region table grant the granule; it then reaches
the L1 bytes in order. -/
def Obligations.AperturePassesTheCheck : Prop :=
  ∀ (s : State) (c : Cap) (creg n o lo hi kind : Nat) (rd wr : Bool) (e : Nat × BitVec 64),
    n ∈ [1, 2, 4, 8, 16] → o % n = 0 → o + n ≤ 2 ^ 26 → c.tag = true → c.seal = false → c.bounds? = some (lo, hi) →
    (rd = true → c.has 0 = true) → (wr = true → c.has 1 = true) → lo ≤ 0xFE00000000 + o → 0xFE00000000 + o + n ≤ hi →
    e ∈ (s.ctx s.hart.ctx).regions → regionMatch e.2 s.die (o / 65536) = true →
    (rd = true → e.2.getLsbD 1 = true) → (wr = true → e.2.getLsbD 2 = true) →
    ∃ x, s.checkCap c creg (w64 (0xFE00000000 + o)) kind n { rd := rd, wr := wr } true = .ok (s, x) ∧
      x.keys = (List.range n).map (fun i => l1Key s.die (o + i)) ∧ x.mt = 0

/-- R231, R233: a load completes wherever the check of R29 lets it through, its bytes can be read (R234) and no store of the hart
waits for the same bytes. It reads them least significant first, and extends them as its size code says; LD.C reads a tag too, which a
source without LC clears. The hint changes nothing. -/
def Obligations.LoadsComplete : Prop :=
  ∀ (s s1 : State) (n : Fin 4) (a b : CReg) (ord : Bool) (sz : Fin 8) (off : BitVec 12) (x : Span), s.ReadsC [b] →
    let nb := Machine.sizeOf sz.val
    s.checkCap (s.rc b) b.val (s.ra b + BitVec.ofInt 64 (off.toInt * nb)) (if sz = 7 then 3 else 0) nb { rd := true } true = .ok (s1, x) →
    Clear s1 x.keys (sz == 7) → s1.hart.forward x.keys (sz == 7) = .none → s1.hart.pair.held = [] →
    let v := joinBytes (x.keys.map s1.byteAt)
    let res : Cap :=
      if sz = 7 then
        if s1.tagAt (x.keys.headD 0) = true ∧ (s.rc b).has 3 = true then { tag := true, md := w64 (v / 2 ^ 64), addr := w64 v }
        else { addr := w64 v }
      else if sz = 0 ∨ sz = 2 ∨ sz = 4 then { addr := BitVec.ofInt 64 (toSigned (8 * nb) v) }
      else { addr := w64 v }
    Loads s s1 (.ld n a b ord sz off) a res ∧ Loads s s1 (.ldFar n a b ord sz off) a res

/-- R232, R233, R89: a store completes wherever the check of R29 lets it through, no range-lock entry of the own Hearth covers its
bytes, a local capability does not go to a shared place, no copy of the hart waits to begin and the store buffer has room. Its bytes
enter the buffer, least significant first, where the check answers them aligned as the access is; ST.C stores the tag too. -/
def Obligations.StoresComplete : Prop :=
  ∀ (s s1 : State) (n : Fin 4) (a b : CReg) (ord : Bool) (sz : Fin 8) (off : BitVec 12) (x : Span) (k0 : Nat), s.ReadsC [b, a] →
    let nb := Machine.sizeOf sz.val
    let d := s.rc a
    let tagged := sz == 7 && d.tag
    s.checkCap (s.rc b) b.val (s.ra b + BitVec.ofInt 64 (off.toInt * nb)) (if sz = 7 then 4 else 1) nb { wr := true, sc := tagged } true
      = .ok (s1, x) →
    (tagged = true → x.shd = true → d.has 6 = true) →
    s1.lockHit (x.keys.filter fun k => isL1 k && keyHearth k == s.die) = none → x.keys = keysFrom k0 nb → k0 % nb = 0 →
    s1.hart.cpq = [] → s1.hart.pair.on = false → s1.hart.sb.length < 16 →
    let v := d.addr.toNat + (if tagged then d.md.toNat * 2 ^ 64 else 0)
    let cells := x.keys.zip ((List.range nb).map fun i => BitVec.ofNat 8 (v / 256 ^ i))
    Buffers s s1 (.st n a b ord sz off) cells ord (sz == 7) tagged ∧ Buffers s s1 (.stFar n a b ord sz off) cells ord (sz == 7) tagged

/-- R236, R23, R53, R54: an atomic completes wherever the check of R29 lets it through, no range-lock entry covers its bytes, everything the
hart did before is performed and its bytes can be read. It answers the old value and writes the new one, which clears the tags of the granules written: every
AMO always, CAS where the old value is the one it expects. (Outside a replay pass, a paired stream and rollback, which note more than the bytes.) -/
def Obligations.AtomicsComplete : Prop :=
  ∀ (s s1 : State) (n : Fin 4) (a b c : CReg) (w : Bool) (x : Span), s.ReadsC [a, b, c] → s1.MemWf →
    let nb := if w then 8 else 4
    let wd := 8 * nb
    s.checkCap (s.rc b) b.val (s.ra b) 2 nb { rd := true, wr := true } true = .ok (s1, x) →
    s1.lockHit (x.keys.filter isL1) = none → s1.hart.cpq = [] → s1.hart.sb = [] → s1.hart.posted = [] → Clear s1 x.keys true →
    s.hart.pair.on = false → s.hart.rep.phase ≠ 1 → (∀ g ∈ s1.m.gangs, g.2.roll = none) → x.keys.Nodup → (∀ k ∈ x.keys, isL1 k || isHbm k) →
    let old := joinBytes (x.keys.map s1.byteAt)
    let y := (s.ra c).toNat % 2 ^ wd
    let cas := (s.ra a).toNat % 2 ^ wd
    Swaps s s1 (.amoAdd n a b w c) a x.keys (some ((old + y) % 2 ^ wd)) ∧
    Swaps s s1 (.amoAnd n a b w c) a x.keys (some (old &&& y)) ∧
    Swaps s s1 (.amoOr n a b w c) a x.keys (some (old ||| y)) ∧
    Swaps s s1 (.amoXor n a b w c) a x.keys (some (old ^^^ y)) ∧
    Swaps s s1 (.amoSmin n a b w c) a x.keys (some (if toSigned wd old ≤ toSigned wd y then old else y)) ∧
    Swaps s s1 (.amoSmax n a b w c) a x.keys (some (if toSigned wd y ≤ toSigned wd old then old else y)) ∧
    Swaps s s1 (.amoUmin n a b w c) a x.keys (some (min old y)) ∧
    Swaps s s1 (.amoUmax n a b w c) a x.keys (some (max old y)) ∧
    Swaps s s1 (.amoSwap n a b w c) a x.keys (some y) ∧
    (∃ v, Swaps s s1 (.amoCadd n a b w c) a x.keys (some v) ∧
      ∀ i < nb / 2, bits v (16 * i + 15) (16 * i) = (bits old (16 * i + 15) (16 * i) + bits y (16 * i + 15) (16 * i)) % 2 ^ 16) ∧
    (∃ v, Swaps s s1 (.amoBadd n a b w c) a x.keys (some v) ∧
      ∀ i < nb / 2, bits v (16 * i + 15) (16 * i) = baddLane (bits old (16 * i + 15) (16 * i)) (bits y (16 * i + 15) (16 * i))) ∧
    Swaps s s1 (.cas n a b w c) a x.keys (if old = cas then some y else none)

/-- R97, R103, R237, R238: a fence completes once what it waits for is done, and then changes nothing; FENCE.I forgets what fetch keeps.
The model's own choices in it: log 12. -/
def Obligations.FencesComplete : Prop :=
  ∀ (s : State) (n : Fin 4) (mask : Fin 16) (scope : Fin 4),
    ((mask.val % 4 ≠ 0 → s.hart.pair.held = [] ∧ (∀ c ∈ s.hart.cpq, c.inL1 = false) ∧ ∀ e ∈ s.hart.sb ++ s.hart.posted, max 1 scope.val < e.scope) →
      Passes s (.fence n mask scope)) ∧
    (s.EnginesIdle → Passes s (.fenceE n)) ∧
    (s.hart.pair.held = [] → s.hart.sb = [] →
      ∃ t, exec (.fenceI n) s = .next t ∧ t.hart.lines = [] ∧ t.hart.utlb = [] ∧ Keeps s t [] [] ∧ SameFlags s t ∧ MovesOn s t ∧ SameMem s t)

/-! ## Branches and jumps (09 R203; 10 R239 to R242) -/

/-- R239: outside a delay slot a conditional branch completes once its sources can be read and its delay slot fetched; the next PC after
the slot is its target where the condition holds, else the instruction after the slot. -/
def Obligations.ConditionalBranchesComplete : Prop :=
  ∀ (s s1 : State) (n : Fin 4) (a b : CReg) (idx : Fin 32) (disp : BitVec 11) (after : Word), s.ReadsC [a, b] →
    s.hart.slot = none → s.afterSlot = .ok (s1, after) →
    let goal (taken : Bool) : Word :=
      if taken then (s.hart.pc &&& ~~~0x3F) + BitVec.ofInt 64 (64 * disp.toInt) + w64 (2 * idx.val) else after
    let br (i : Instr) (taken : Bool) : Prop :=
      ∃ t, exec i s = .next t ∧ GoesTo s t (goal taken) 0 ∧ Keeps s t [] [] ∧ SameFlags s t ∧ SameMem s1 t
    br (.beq n a b idx disp) (s.ra a == s.ra b) ∧
    br (.bne n a b idx disp) (s.ra a != s.ra b) ∧
    br (.blt n a b idx disp) (decide ((s.ra a).toInt < (s.ra b).toInt)) ∧
    br (.bge n a b idx disp) (decide ((s.ra b).toInt ≤ (s.ra a).toInt)) ∧
    br (.bltu n a b idx disp) (decide ((s.ra a).toNat < (s.ra b).toNat)) ∧
    br (.bgeu n a b idx disp) (decide ((s.ra b).toNat ≤ (s.ra a).toNat))

/-- R240 to R242: outside a delay slot JAL and JR complete, JR where its target capability is executable and holds the two bytes of a
head, and each writes the link capability of the instruction after the slot, an executable granule of 64 bytes; BR.TOK goes to the oldest
token and takes it from the queue. -/
def Obligations.JumpsComplete : Prop :=
  ∀ (s s1 : State) (n : Fin 4) (a b : CReg) (q : QReg) (disp : BitVec 27) (idx : Fin 32) (after : Word),
    s.hart.slot = none → s.afterSlot = .ok (s1, after) →
    let ln := after.toNat / 64 * 64
    let link : Cap := { tag := true, md := mkMd ((ln + 64) % 2 ^ 20) (ln % 2 ^ 20) 0 0 0 4, addr := after }
    let jump (i : Instr) (goal : Word) (creg : Nat) : Prop :=
      ∃ t, exec i s = .next t ∧ GoesTo s t goal creg ∧ t.rc a = (if a = 0 then {} else link) ∧ Keeps s t [a] [] ∧ SameFlags s t ∧ SameMem s1 t
    jump (.jal n a disp idx) ((s.hart.pc &&& ~~~0x3F) + BitVec.ofInt 64 (64 * disp.toInt) + w64 (2 * idx.val)) 0 ∧
    (∀ lo hi, s.ReadsC [b] → (s.rc b).tag = true → (s.rc b).seal = false → (s.rc b).bounds? = some (lo, hi) → canonical (s.ra b) = true →
      (s.rc b).has 2 = true → lo ≤ a55 (s.ra b) → a55 (s.ra b) + 2 ≤ hi → jump (.jr n a b) (s.ra b) b.val) ∧
    (∀ tok rest, s.hart.q[q] = some .mxtok → s.hart.mx.tokens = tok :: rest → s.hart.pair.on = false → 64 ∉ s.hart.poison →
      ∃ t, exec (.brTok n q) s = .next t ∧ GoesTo s t tok 0 ∧ t.hart.mx.tokens = rest ∧ Keeps s t [] [] ∧ SameFlags s t ∧ SameMem s1 t)

/-! ## Vector instructions (11 R243 to R260) -/

/-- R248: integer arithmetic by component: results modulo 2^w, or clipped with SAT; VMUL and VMULH are of class Vector FMA. -/
def Obligations.VectorIntegersComplete : Prop :=
  ∀ (s : State) (o : VOp) (w : Nat) (sg : Bool), intShape o.fmt.val = some (w, sg) →
    let x (c : Nat) : Int := intVal sg w (velem (s.rv o.va) w c)
    let y (c : Nat) : Int := intVal sg w (velem (s.rv o.vb) w c)
    (ReadsOp s o [o.va, o.vb] →
      WritesV s (.vadd o) o 2 w (fun c => (wrap w (x c + y c), 0)) ∧
      WritesV s (.vsub o) o 2 w (fun c => (wrap w (x c - y c), 0)) ∧
      WritesV s (.vaddSat o) o 2 w (fun c => satTo sg w (x c + y c)) ∧
      WritesV s (.vsubSat o) o 2 w (fun c => satTo sg w (x c - y c)) ∧
      (o.fmt.val ≤ 8 →
        WritesV s (.vmin o) o 2 w (fun c => (wrap w (min (x c) (y c)), 0)) ∧
        WritesV s (.vmax o) o 2 w (fun c => (wrap w (max (x c) (y c)), 0)) ∧
        (s.fmaHeld = false →
          WritesV s (.vmul o) o 4 w (fun c => (wrap w (x c * y c), 0)) ∧
          WritesV s (.vmulh o) o 4 w (fun c => (wrap w (x c * y c / 2 ^ w), 0))))) ∧
    (ReadsOp s o [o.va] → sg = true →
      WritesV s (.vneg o) o 2 w (fun c => (wrap w (-(x c)), 0)) ∧
      (o.fmt.val ≤ 8 →
        WritesV s (.vabs o) o 2 w (fun c => (wrap w (x c).natAbs, 0)) ∧
        WritesV s (.vabsSat o) o 2 w (fun c => satTo true w (x c).natAbs)))

/-- R249: logic on whole elements of every format, and shifts of integer elements in their own width. -/
def Obligations.VectorLogicCompletes : Prop :=
  ∀ (s : State) (o : VOp), 
    let x (i : Nat) : Nat := velem (s.rv o.va) o.w i
    let y (i : Nat) : Nat := velem (s.rv o.vb) o.w i
    (ReadsOp s o [o.va, o.vb] → wholeFmt o.fmt.val →
      WritesV s (.vand o) o 2 o.w (fun i => (x i &&& y i, 0)) ∧
      WritesV s (.vor o) o 2 o.w (fun i => (x i ||| y i, 0)) ∧
      WritesV s (.vxor o) o 2 o.w (fun i => (x i ^^^ y i, 0)) ∧
      WritesV s (.vandn o) o 2 o.w (fun i => (x i &&& (2 ^ o.w - 1 - y i), 0))) ∧
    (ReadsOp s o [o.va, o.vb] → 1 ≤ o.fmt.val → o.fmt.val ≤ 8 →
      WritesV s (.vshl o) o 2 o.w (fun i => (x i * 2 ^ (y i % o.w), 0)) ∧
      WritesV s (.vshr o) o 2 o.w (fun i => (x i / 2 ^ (y i % o.w), 0)) ∧
      WritesV s (.vsar o) o 2 o.w (fun i => (wrap o.w (toSigned o.w (x i) / 2 ^ (y i % o.w)), 0))) ∧
    (ReadsOp s o [o.va] → 1 ≤ o.fmt.val → o.fmt.val ≤ 8 →
      WritesV s (.vshli o) o 2 o.w (fun i => (x i * 2 ^ o.vc.val, 0)) ∧
      WritesV s (.vshri o) o 2 o.w (fun i => (x i / 2 ^ o.vc.val, 0)) ∧
      WritesV s (.vsari o) o 2 o.w (fun i => (wrap o.w (toSigned o.w (x i) / 2 ^ o.vc.val), 0)))

/-- R250: float arithmetic by component: operands after the input flush, one exact result, one rounding in the sampled mode. CBF16 is
accepted by VFADD, VFSUB and VFNEG alone. -/
def Obligations.VectorFloatsComplete : Prop :=
  ∀ (s : State) (o : VOp) (f : FloatFmt), fltShape o.fmt.val = some f →
    let env := s.env o.rnd.val
    let x (c : Nat) : Nat := velem (s.rv o.va) f.w c
    let y (c : Nat) : Nat := velem (s.rv o.vb) f.w c
    let a (c : Nat) : Val := f.decIn env (x c)
    let b (c : Nat) : Val := f.decIn env (y c)
    let d (c : Nat) : Val := f.decIn env (velem (s.rv o.vc) f.w c)
    (ReadsOp s o [o.va, o.vb] → s.fmaHeld = false →
      WritesV s (.vfadd o) o 4 f.w (fun c => f.finish env ((a c).add env.rm (b c))) ∧
      WritesV s (.vfsub o) o 4 f.w (fun c => f.finish env ((a c).add env.rm (b c).neg))) ∧
    (ReadsOp s o [o.va] → WritesV s (.vfneg o) o 2 f.w (fun c => ((x c + 2 ^ (f.w - 1)) % 2 ^ f.w, 0))) ∧
    (o.fmt.val ≠ 0x17 →
      (ReadsOp s o [o.va, o.vb] →
        (s.fmaHeld = false → WritesV s (.vfmul o) o 4 f.w (fun c => f.finish env ((a c).mul (b c)))) ∧
        WritesV s (.vfmin o) o 2 f.w (fun c => (f.minmax env false (x c) (y c), 0)) ∧
        WritesV s (.vfmax o) o 2 f.w (fun c => (f.minmax env true (x c) (y c), 0)) ∧
        WritesV s (.vfdiv o) o 1 f.w (fun c => f.finish env ((a c).div (b c)))) ∧
      (ReadsOp s o [o.va] →
        WritesV s (.vfabs o) o 2 f.w (fun c => (x c % 2 ^ (f.w - 1), 0)) ∧
        WritesV s (.vfsqrt o) o 1 f.w (fun c => f.finish env (a c).sqrt)) ∧
      (ReadsOp s o [o.va, o.vb, o.vc] → s.fmaHeld = false →
        WritesV s (.vfma o) o 4 f.w (fun c => f.finish env (fmaVal env.rm (a c) (b c) (d c))) ∧
        WritesV s (.vfms o) o 4 f.w (fun c => f.finish env (fmaVal env.rm (a c) (b c) (d c).neg)) ∧
        WritesV s (.vfnma o) o 4 f.w (fun c => f.finish env (fmaVal env.rm (a c).neg (b c) (d c)))))

/-- R251, R252: the complex products complete on CI16 and CBF16. A CI16 component is the exact sum of its two products and its addend in
units of 2^-30, rounded once to Q1.15 and clipped; a CBF16 component is rounded once to BF16. VCCONJ negates the imaginary part. -/
def Obligations.ComplexProductsComplete : Prop :=
  ∀ (s : State) (o : VOp), s.fmaHeld = false →
    let env := s.env o.rnd.val
    let part (r : VReg) (i p : Nat) : Nat := velem (s.rv r) 16 (2 * i + p)
    let q (r : VReg) (i p : Nat) : Int := toSigned 16 (part r i p)
    let sgn (conj : Bool) : Int := if conj then -1 else 1
    -- component c of the CI16 product
    let ci (conj acc : Bool) (c : Nat) : FRes :=
      let i := c / 2
      let exact : Int :=
        (if c % 2 = 0 then q o.va i 0 * q o.vb i 0 - sgn conj * (q o.va i 1 * q o.vb i 1)
         else sgn conj * (q o.va i 0 * q o.vb i 1) + q o.va i 1 * q o.vb i 0)
        + (if acc then q o.vc i (c % 2) * 32768 else 0)
      satTo true 16 (roundInt env.rm (decide (exact < 0)) exact.natAbs (-15))
    -- component c of the CBF16 product
    let cb (conj acc : Bool) (c : Nat) : FRes :=
      let i := c / 2
      let v (r : VReg) (p : Nat) : Val := bf16.decIn env (part r i p)
      let bi : Val := if conj then (v o.vb 1).neg else v o.vb 1
      let add : Option Val := if acc then some (v o.vc (c % 2)) else none
      bf16.finish env (if c % 2 = 0 then sumProd env.rm (v o.va 0) (v o.vb 0) (v o.va 1).neg bi add
        else sumProd env.rm (v o.va 0) bi (v o.va 1) (v o.vb 0) add)
    (ReadsOp s o [o.va, o.vb] →
      (o.fmt.val = 9 → WritesV s (.vcmul o) o 4 16 (ci false false) ∧ WritesV s (.vcmulj o) o 4 16 (ci true false)) ∧
      (o.fmt.val = 0x17 → WritesV s (.vcmul o) o 4 16 (cb false false) ∧ WritesV s (.vcmulj o) o 4 16 (cb true false))) ∧
    (ReadsOp s o [o.va, o.vb, o.vc] →
      (o.fmt.val = 9 → WritesV s (.vcmac o) o 4 16 (ci false true) ∧ WritesV s (.vcmacj o) o 4 16 (ci true true)) ∧
      (o.fmt.val = 0x17 → WritesV s (.vcmac o) o 4 16 (cb false true) ∧ WritesV s (.vcmacj o) o 4 16 (cb true true))) ∧
    (ReadsOp s o [o.va] →
      (o.fmt.val = 9 → WritesV s (.vcconj o) o 4 16 (fun c =>
        if c % 2 = 0 then (part o.va (c / 2) 0, 0) else satTo true 16 (-(q o.va (c / 2) 1)))) ∧
      (o.fmt.val = 0x17 → WritesV s (.vcconj o) o 4 16 (fun c =>
        if c % 2 = 0 then (part o.va (c / 2) 0, 0) else ((part o.va (c / 2) 1 + 2 ^ 15) % 2 ^ 16, 0))))

/-- R253: a compare writes bit i for active element i, zero or the old bit for an inactive one, and zero above; VSEL chooses by the bits
of vc. A complex element is equal where both components are. -/
def Obligations.ComparesComplete : Prop :=
  ∀ (s : State) (o : VOp), 
    let env := s.env o.rnd.val
    let k := fmtKind o.fmt.val
    let x (i : Nat) : Nat := velem (s.rv o.va) o.w i
    let y (i : Nat) : Nat := velem (s.rv o.vb) o.w i
    let ord (x y : Nat) : Option Ordering := (kindVal env k x).cmp (kindVal env k y)
    let eq (i : Nat) : Bool :=
      if o.fmt.val ∈ [0x09, 0x0A, 0x17] then
        ord (x i % 2 ^ (o.w / 2)) (y i % 2 ^ (o.w / 2)) == some .eq && ord (x i / 2 ^ (o.w / 2)) (y i / 2 ^ (o.w / 2)) == some .eq
      else ord (x i) (y i) == some .eq
    let cmp (i : Instr) (f : Nat → Bool) : Prop :=
      ∃ v, WritesWhole s i o 2 v 0 ∧ ∀ j, v.getLsbD j =
        if 512 / o.w ≤ j then false else if o.active s j then f j else !o.ag && (s.rv o.vd).getLsbD j
    (ReadsOp s o [o.va, o.vb] →
      ((intShape o.fmt.val).isSome = true ∨ (fltShape o.fmt.val).isSome = true →
        cmp (.vcmpEq o) eq ∧ cmp (.vcmpNe o) (fun i => !eq i)) ∧
      ((1 ≤ o.fmt.val ∧ o.fmt.val ≤ 8) ∨ (0x10 ≤ o.fmt.val ∧ o.fmt.val ≤ 0x12) →
        cmp (.vcmpLt o) (fun i => ord (x i) (y i) == some .lt) ∧
        cmp (.vcmpLe o) (fun i => ord (x i) (y i) == some .lt || ord (x i) (y i) == some .eq))) ∧
    (ReadsOp s o [o.va, o.vb, o.vc] → wholeFmt o.fmt.val →
      WritesV s (.vsel o) o 2 o.w (fun i => (if (s.rv o.vc).getLsbD i then x i else y i, 0)))

/-- R254: the moves and permutes complete on whole elements; VEXT, VMPOPC and VMFIRST write a c-register, VINS one element. -/
def Obligations.MovesComplete : Prop :=
  ∀ (s : State) (o : VOp) (a : CReg), wholeFmt o.fmt.val → s.ReadsC [o.b] → a.val = o.vc.val % 16 →
    let n := 512 / o.w
    let k := (s.ra o.b).toNat
    let x (i : Nat) : Nat := velem (s.rv o.va) o.w i
    let y (i : Nat) : Nat := velem (s.rv o.vb) o.w i
    let both (j : Nat) : Nat := if j < n then x j else y (j - n)
    let set := (List.range n).filter fun i => o.active s i && (s.rv o.va).getLsbD i
    (ReadsOp s o [o.va] →
      WritesV s (.vmov o) o 2 o.w (fun i => (x i, 0)) ∧
      WritesCV s (.vext o) o a (if k < n then (if 1 ≤ o.fmt.val ∧ o.fmt.val ≤ 4 then BitVec.ofInt 64 (toSigned o.w (x k)) else w64 (x k)) else 0) ∧
      WritesCV s (.vmpopc o) o a (w64 set.length) ∧
      WritesCV s (.vmfirst o) o a (w64 (set.headD n))) ∧
    (ReadsOp s o [] → WritesV s (.vsplat o) o 2 o.w (fun _ => (k, 0))) ∧
    (s.ReadsC [a] → s.hart.readable true o.vd.val → tget? s.hart.streams o.vd.val = none →
      ∃ v, WritesWhole s (.vins o) o 2 v 0 ∧ ∀ i < n, velem v o.w i = if i = k then (s.ra a).toNat % 2 ^ o.w else velem (s.rv o.vd) o.w i) ∧
    (ReadsOp s o [o.va, o.vb] →
      WritesV s (.vperm o) o 2 o.w (fun i => (x (y i % n), 0)) ∧
      WritesV s (.vslide o) o 2 o.w (fun i => (both (i + min k n), 0))) ∧
    (ReadsOp s o [o.va, o.vb, o.vc] →
      WritesV s (.vshuf o) o 2 o.w (fun i => (both (velem (s.rv o.vc) o.w i % (2 * n)), 0)))

/-- R255, R150: the reductions complete over the active elements and the start value, if any. The integer ones are given by what the
whole set of values comes to, whatever the tree; the float ones by the tree. The model's own choice in it, at the nodes of FP16, BF16 and CBF16
sums: log 66. -/
def Obligations.ReductionsComplete : Prop :=
  ∀ (s : State) (o : VOp),
    let start := o.b.val % 2 == 1
    s.ReadsV ([o.va] ++ (if start then [o.vc] else []) ++ o.maskReg) → tget? s.hart.streams o.vd.val = none →
    let env := s.env o.rnd.val
    let lanes : List (Option Nat) := (List.range (512 / o.w)).map fun i => if o.active s i then some (velem (s.rv o.va) o.w i) else none
    let init : Option Nat := if start then some (velem (s.rv o.vc) o.w 0) else none
    let all : List Nat := init.toList ++ lanes.filterMap id
    (∀ w sg, intShape o.fmt.val = some (w, sg) → o.fmt.val ≤ 8 →
      let vals : List Int := all.map (intVal sg w)
      WritesWhole s (.vredsum o) o 1 (BitVec.ofNat 512 (wrap 64 (vals.foldl (· + ·) 0))) 0 ∧
      WritesWhole s (.vredmin o) o 1 (BitVec.ofNat 512 (wrap w (vals.foldl min (intHi sg w)))) 0 ∧
      WritesWhole s (.vredmax o) o 1 (BitVec.ofNat 512 (wrap w (vals.foldl max (intLo sg w)))) 0 ∧
      WritesWhole s (.vredand o) o 1 (BitVec.ofNat 512 (all.foldl (· &&& ·) (2 ^ w - 1))) 0 ∧
      WritesWhole s (.vredor o) o 1 (BitVec.ofNat 512 (all.foldl (· ||| ·) 0)) 0 ∧
      WritesWhole s (.vredxor o) o 1 (BitVec.ofNat 512 (all.foldl (· ^^^ ·) 0)) 0) ∧
    (∀ f, fltShape o.fmt.val = some f →
      (o.fmt.val ≠ 0x17 →
        WritesWhole s (.vfredsum o) o 1 (BitVec.ofNat 512 (fltSum f env init lanes).1) (fltSum f env init lanes).2 ∧
        WritesWhole s (.vfredmin o) o 1 (BitVec.ofNat 512 (reduce (f.minmax env false) f.nan init (lanes.map (·.getD f.nan)))) 0 ∧
        WritesWhole s (.vfredmax o) o 1 (BitVec.ofNat 512 (reduce (f.minmax env true) f.nan init (lanes.map (·.getD f.nan)))) 0) ∧
      (o.fmt.val = 0x17 →
        let re := fltSum bf16 env (init.map (· % 65536)) (lanes.map fun e => e.map (· % 65536))
        let im := fltSum bf16 env (init.map (· / 65536)) (lanes.map fun e => e.map (· / 65536))
        WritesWhole s (.vfredsum o) o 1 (BitVec.ofNat 512 (re.1 + im.1 * 65536)) (re.2 ||| im.2)))

/-- R256: VCVT widens part P of its source, or narrows it into part P of its destination, whose other elements stay; each element is
converted by R145. The model's own choices in it: log 43. -/
def Obligations.ConversionsComplete : Prop :=
  ∀ (s : State) (o : VOp) (dst : Nat), dst = o.vc.val →
    ((cvtReal o.fmt.val = true ∧ cvtReal dst = true) ∨ (cvtComplex o.fmt.val = true ∧ cvtComplex dst = true)) →
    s.ReadsV ([o.va] ++ o.maskReg) → s.hart.readable true o.vd.val → tget? s.hart.streams o.vd.val = none →
    let env := s.env o.rnd.val
    let ws := fmtWidth o.fmt.val
    let wd := fmtWidth dst
    let ns := 512 / ws
    let nd := 512 / wd
    let p := o.b.val
    let conv (j i : Nat) : FRes :=
      if o.active s j then convert env (fmtKind o.fmt.val) (fmtKind dst) (velem (s.rv o.va) ws i)
      else (if o.ag then 0 else velem (s.rv o.vd) wd j, 0)
    let elem (j : Nat) : FRes :=
      if ws ≤ wd then conv j (p * nd + j)
      else if p * ns ≤ j ∧ j < p * ns + ns then conv j (j - p * ns)
      else (velem (s.rv o.vd) wd j, 0)
    ∃ v fl, WritesWhole s (.vcvt o) o 3 v fl ∧ (∀ j < nd, velem v wd j = (elem j).1 % 2 ^ wd) ∧
      ∀ b, fl.getLsbD b = (List.range nd).any fun j => (elem j).2.getLsbD b

/-- R257, R258, R260: a vector load completes wherever the checks of its active elements pass and their bytes can be read: an element is
the bytes at its address, or the decoded value of its block for VLD.DEC, whose active elements alone are accessed. -/
def Obligations.VectorLoadsComplete : Prop :=
  ∀ (s s1 : State) (o : VOp) (l : List VAcc) (a : CReg), a.val = o.vc.val % 16 → s.ReadsC [o.b, a] →
    let c := s.rc o.b
    let act := (List.range (512 / o.w)).filter (o.active s)
    let ready := (∀ v ∈ l, Clear s1 v.span.keys false ∧ s1.hart.forward v.span.keys false = .none) ∧ s1.hart.pair.held = []
    let got := l.map fun v => (v, joinBytes (v.span.keys.map s1.byteAt))
    let plain (i : Instr) (at_ : Nat → Word) : Prop :=
      s.vcheckAll c o.b.val 0 { rd := true } true (act.map fun j => (j, at_ j, o.w / 8)) = .ok (s1, l) →
      LoadsV s s1 i o (fun j => ((got.find? fun g => g.1.i == j).map (·.2)).getD 0) 0
    c.tag = true → c.seal = false → c.malformed = false → ready →
    (wholeFmt o.fmt.val → (c.fmt = 0 ∨ c.fmt = o.fmt.val) →
      (ReadsOp s o [] →
        plain (.vld o) (fun j => c.addr + BitVec.ofInt 64 (toSigned 10 (o.va.val + 32 * o.vb.val) * 64) + w64 (j * (o.w / 8))) ∧
        plain (.vlds o) (fun j => c.addr + w64 j * s.ra a)) ∧
      (ReadsOp s o [o.vb] →
        plain (.vldx o) (fun j => c.addr + BitVec.ofInt 64 (toSigned o.w (velem (s.rv o.vb) o.w j) * (o.w / 8))))) ∧
    (o.fmt.val = 0x10 → ReadsOp s o [] → (c.fmt = 0x15 ∨ c.fmt = 0x16) → (s.ra a).toNat % 16 = 0 →
      (∀ lo hi, c.bounds? = some (lo, hi) → lo % 64 = 0 →
        let e2 := c.fmt == 0x15
        let elems := act.map ((s.ra a).toNat + ·)
        let ranges := runsOf (headerBytes e2 c.blog elems) ++ runsOf (elems.map (codeByte e2 c.blog))
        s.vcheckAll c o.b.val 0 { rd := true } false (ranges.map fun r => (r.1, fromA55 lo + w64 r.1, r.2)) = .ok (s1, l) →
        let one (j : Nat) : FRes :=
          let e := (s.ra a).toNat + j
          let h := headerOff e2 c.blog (e / blockLen c.blog)
          fp32.round (s.env o.rnd.val) (decBlocked (s.env o.rnd.val) e2 (byteIn got h + 256 * byteIn got (h + 1)) (codeIn got e2 c.blog e))
        LoadsV s s1 (.vldDec o) o (fun j => (one j).1) (orFlags (act.map fun j => (one j).2))))

/-- R257 to R260: a vector store completes wherever the checks of its active elements pass and the store buffer can take it: each
active element goes to its address; VST.ENC stores the headers and the codes of its blocks. -/
def Obligations.VectorStoresComplete : Prop :=
  ∀ (s s1 : State) (o : VOp) (l : List VAcc) (a : CReg), a.val = o.vc.val % 16 → s.ReadsC [o.b, a] →
    let c := s.rc o.b
    let act := (List.range (512 / o.w)).filter (o.active s)
    let plain (i : Instr) (at_ : Nat → Word) : Prop :=
      s.vcheckAll c o.b.val 1 { wr := true } true (act.map fun j => (j, at_ j, o.w / 8)) = .ok (s1, l) →
      BuffersV s s1 i (l.map fun v => (v, velem (s.rv o.vd) o.w v.i)) 0
    c.tag = true → c.seal = false → c.malformed = false → s.hart.entering = none → StoreRoom s1 l →
    (wholeFmt o.fmt.val → (c.fmt = 0 ∨ c.fmt = o.fmt.val) →
      (s.ReadsV ([o.vd] ++ o.maskReg) →
        plain (.vst o) (fun j => c.addr + BitVec.ofInt 64 (toSigned 10 (o.va.val + 32 * o.vb.val) * 64) + w64 (j * (o.w / 8))) ∧
        plain (.vsts o) (fun j => c.addr + w64 j * s.ra a)) ∧
      (s.ReadsV ([o.vb, o.vd] ++ o.maskReg) →
        plain (.vstx o) (fun j => c.addr + BitVec.ofInt 64 (toSigned o.w (velem (s.rv o.vb) o.w j) * (o.w / 8))))) ∧
    (o.fmt.val = 0x10 → s.ReadsV [o.vd] → (c.fmt = 0x15 ∨ c.fmt = 0x16) → (s.ra a).toNat % 16 = 0 → c.blog ≤ 1 →
      (∀ lo hi vh vc, c.bounds? = some (lo, hi) → lo % 64 = 0 → l = [vh, vc] →
        let e2 := c.fmt == 0x15
        let e := (s.ra a).toNat
        let len := blockLen c.blog
        let h := headerOff e2 c.blog (e / len)
        let d := codeByte e2 c.blog e
        let blocks := (List.range (16 / len)).map fun b =>
          encBlock (s.env o.rnd.val) e2 ((List.range len).map fun j =>
            let x := velem (s.rv o.vd) 32 (b * len + j)
            (x, fp32.decIn (s.env o.rnd.val) x))
        s.vcheckAll c o.b.val 1 { wr := true } false
          [(h, fromA55 lo + w64 h, 2 * blocks.length), (d, fromA55 lo + w64 d, if e2 then 8 else 16)] = .ok (s1, l) →
        BuffersV s s1 (.vstEnc o)
          [(vh, packCodes 16 (blocks.map (·.1))), (vc, packCodes (if e2 then 4 else 8) (blocks.flatMap (·.2.1)))]
          (orFlags (blocks.map (·.2.2)))))

/-! ## Queues, streams, copies, buffers and tiles (12 R267 to R278) -/

/-- R267, R268: QBIND binds an unbound q-register to the port its KIND names, mxpush and cppush once; QUNBIND unbinds it; QPOP answers the
free entries of a push queue, the oldest token, or the next sequence number of a mailbox. The model's own choice in it, what counts in a queue of
the Kneader: log 19. -/
def Obligations.QueueRegistersComplete : Prop :=
  ∀ (s : State) (n : Fin 4) (q : QReg) (b c : CReg) (kind : Fin 16),
    let port : Port :=
      match kind.val with
      | 0 => .mxpush | 1 => .mxtok | 2 => .cppush
      | 3 => .taskpop ((s.ra b).toNat % 4)
      | _ => .mbox ((s.ra b).toNat % 4096)
    let sets (i : Instr) (p : Option Port) : Prop :=
      ∃ t, exec i s = .next t ∧ t.hart.q = s.hart.q.set q p ∧ Keeps (s.onHart (·.setQ q p)) t [] [] ∧ SameFlags s t ∧ MovesOn s t ∧ SameMem s t
    (s.hart.q[q] = none → kind.val ≤ 4 → (3 ≤ kind.val → s.ReadsC [b]) →
      (kind.val = 0 ∨ kind.val = 2 → ∀ r : QReg, s.hart.q[r] ≠ some port) →
      (kind.val = 4 → (s.ownHandle s.hart.ctx ((s.ra b).toNat % 4096)).isSome = true) → sets (.qbind n q b kind) (some port)) ∧
    (s.hart.q[q] ≠ none → sets (.qunbind n q) none) ∧
    (s.hart.pair.on = false → 64 ∉ s.hart.poison →
      (s.hart.q[q] = some .mxpush → s.mxLoad s.cur < 16 → Gives s (.qpop n c q) c (w64 (16 - s.mxLoad s.cur)) (SameMem s)) ∧
      (s.hart.q[q] = some .cppush → s.hart.cpq.length < (if s.miller then 16 else 4) →
        Gives s (.qpop n c q) c (w64 ((if s.miller then 16 else 4) - s.hart.cpq.length)) (SameMem s)) ∧
      (∀ tok rest, s.hart.q[q] = some .mxtok → s.hart.mx.tokens = tok :: rest →
        Gives s (.qpop n c q) c tok (fun t => t.hart.mx.tokens = rest ∧ SameMem s t)) ∧
      (∀ name h, name < 4096 → s.hart.q[q] = some (.mbox name) → s.handle? name = some h → h.popped < h.mbox →
        Gives s (.qpop n c q) c (w64 ((h.popped + 1) % 65536))
          (fun t => (t.handle? name).map (·.popped) = some (h.popped + 1) ∧ SameMem s t)))

/-- R269, R128: SBIND binds a v-register to a stream over the iteration of a valid pattern record whose base has ENG and the permission
of its direction, once the hart's earlier engine operations have issued, its die-local stores are performed, and an operation name and the
entries are free; SUNBIND unbinds it, and the register keeps its contents.
The model's own choices in it: logs 13, 17. -/
def Obligations.StreamBindingsComplete : Prop :=
  ∀ (s s1 : State) (n : Fin 4) (v : VReg) (b : CReg) (p : Pattern) (ev : List Nat) (segs : List Seg) (opn : Nat),
    (s.ReadsC [b] → tget? s.hart.streams v.val = none → s.readPattern b (fun _ => true) = .ok (s1, p, ev) →
      let e := elemBytes p.fmt
      let it := p.iter
      let (lo, len) := it.box it.s1 it.s2
      p.base.addr.toNat % e = 0 → p.rowlen % e = 0 → it.s1 % e = 0 → it.s2 % e = 0 →
      s1.capEngine p.base (if p.dirw then 7 else 6) { rd := !p.dirw, wr := p.dirw, eng := true } = .ok () →
      p.base.fits (boxAt p.base.addr lo) len = true →
      s1.sideR (boxAt p.base.addr lo) len (if p.dirw then 7 else 6) { rd := !p.dirw, wr := p.dirw, eng := true } = .ok segs →
      s1.hart.issued = true → s1.hart.sb.any (·.scope == 1) = false →
      let held := segs.map s1.nearForm
      s1.canBegin s.cur held (if p.dirw then held else []) (if p.dirw then [] else held) (if p.dirw then held else []) = true →
      s1.freeOpn s.cur = some opn → s.hart.pair.on = false → s.hart.rep.phase ≠ 1 →
      Done s (.sbind n v b) fun t =>
        tget? t.hart.streams v.val = some { opn := opn, write := p.dirw } ∧ SameMem s1 t ∧
        ∃ o, tget? t.m.ops opn = some o ∧ o.stream = true ∧ o.write = p.dirw ∧ o.cmd.it = p.streamIter ∧ o.cmd.src = p.base.addr ∧
          o.cmd.hart = s.cur ∧ o.strips = [] ∧ o.fetched = 0 ∧ o.appended = 0) ∧
    (∀ x, tget? s.hart.streams v.val = some x →
      Done s (.sunbind n v) fun t => tget? t.hart.streams v.val = none ∧ t.hart.v[v] = s.hart.v[v] ∧ SameMem s t)

/-- R270 to R272: a copy or multicast that passes the checks of R272 in their order enters the hart's copy queue while it has room, as
the command its operands give; a copy of no bytes without a handle leaves nothing. The model's own choices in it: logs 17, 18. -/
def Obligations.CopiesIssue : Prop :=
  ∀ (s s1 : State) (o : CopyOp) (mc : Bool) (it : Iter) (val : Word) (ev : List Nat) (d : Dest) (nMeta : Nat),
    s.ReadsC ([o.b, o.len, o.a] ++ (if o.xf.val = 0 then [] else [o.metaReg])) →
    (∃ q : QReg, s.hart.q[q] = some .cppush) → s.capEngine (s.rc o.b) 6 { rd := true, eng := true } = .ok () →
    s.copyShape o = .ok (s1, it, val, ev) → s1.capEngine (s.rc o.a) 7 { wr := true, eng := true } = .ok () →
    s1.copyDest (s.ra o.a) o.dh.val mc = .ok d → s1.copyRules o mc d it val = .ok () →
    let f := if o.xf.val = 1 then (s.rc o.b).fmt else if o.xf.val = 2 then (s.rc o.a).fmt else 0
    s1.copyMeta o f it val = .ok nMeta → s1.copyBoxes o d it nMeta = true → s1.copySides o d it nMeta = .ok () →
    s.hart.pair.on = false → s.hart.cpq.length < (if s.miller then 16 else 4) →
    Done s (if mc then .cpMcast o else .cpCopy o) fun t => SameMem s1 t ∧
      ((xfSides o.xf.val it).2.total = 0 ∧ o.dh.val = 0x3FF → t.hart.cpq = s.hart.cpq) ∧
      (¬ ((xfSides o.xf.val it).2.total = 0 ∧ o.dh.val = 0x3FF) → ∃ cmd, t.hart.cpq = s.hart.cpq ++ [cmd] ∧
        cmd.src = s.ra o.b ∧ cmd.dstVa = s.ra o.a ∧ cmd.it = (xfSides o.xf.val it).2 ∧ cmd.len = it.rowlen ∧ cmd.xf = o.xf.val ∧
        cmd.fac = o.fac ∧ cmd.rptc = s.hart.ctl.rptc ∧ cmd.mc = mc ∧ cmd.ctx = s.hart.ctx ∧ cmd.hart = s.cur ∧ cmd.user = s.user ∧
        cmd.dh % 1024 = o.dh.val ∧ cmd.near = s.hart.ctl.nearctl)

/-- R274, R117, R275: CP.WM answers the watermark word of the head slot of a handle's ring copy and never waits; CP.RESUME clears the
freeze of an operation of the context once the hart's earlier engine operations have issued and its die-local stores are performed, and
CP.ABORT takes a frozen one out of the table. R297: a frozen matrix command goes on after CP.RESUME, and after CP.ABORT its frozen parts
claim nothing more and it ends as a faulted command with MX_MICROPROGRAM, REASON 4; of one that is not frozen, neither changes its queue.
Both need level K or F. The model's own choices in it: log 18. -/
def Obligations.CopyControlCompletes : Prop :=
  ∀ (s : State) (n : Fin 4) (a b : CReg), s.ReadsC [b] →
    (∀ h, s.ownHandle s.hart.ctx ((s.ra b).toNat % 4096) = some h →
      let name := (s.ra b).toNat % 4096
      let aborted := if h.aborted then 2 ^ 43 else 0
      (h.ring (h.keyFor s.cur) = none → Gives s (.cpWm n a b) a (w64 aborted) (SameMem s)) ∧
      (∀ r, h.ring (h.keyFor s.cur) = some r →
        let x := r.slot r.head
        let frozen := if x.frozen then 2 ^ 42 else 0
        (x.st = .free → Gives s (.cpWm n a b) a (w64 aborted) (SameMem s)) ∧
        (∀ o d, x.st = .filling → tget? s.m.ops x.op = some o →
          o.dels.find? (fun d => d.slot == some { hearth := name / 1024, handle := name % 1024, key := h.keyFor s.cur, slot := r.head }) = some d →
          Gives s (.cpWm n a b) a (w64 ((if d.mode = 2 then 0 else d.count) % 2 ^ 40 + d.mode * 2 ^ 40 + frozen + aborted)) (SameMem s)) ∧
        (x.st = .filling → s.filler { hearth := name / 1024, handle := name % 1024, key := h.keyFor s.cur, slot := r.head } x.op = none →
          Gives s (.cpWm n a b) a (w64 ((if x.mode = 2 then 0 else x.len) % 2 ^ 40 + x.mode * 2 ^ 40 + frozen + aborted)) (SameMem s)) ∧
        (x.st = .full ∨ x.st = .draining →
          Gives s (.cpWm n a b) a (w64 (x.len % 2 ^ 40 + x.mode * 2 ^ 40 + 2 ^ 44 + aborted)) (SameMem s)))) ∧
    (s.hart.lvl = .u → Traps s (.cpResume n b) 0x04 (insnWord (.cpResume n b)) 0 ∧ Traps s (.cpAbort n b) 0x04 (insnWord (.cpAbort n b)) 0) ∧
    (∀ o, s.hart.lvl ≠ .u → s.hart.pair.on = false → s.named ((s.ra b).toNat % 65536) = some (.copy o) → o.frozen = true →
      (s.hart.issued = true → s.hart.sb.any (·.scope == 1) = false → Done s (.cpResume n b) fun t => SameMem s t ∧
        ∃ o', tget? t.m.ops ((s.ra b).toNat % 65536) = some o' ∧ o'.frozen = false ∧ o'.cmd = o.cmd ∧ ∀ d ∈ o'.dels, d.frozen = false) ∧
      (Done s (.cpAbort n b) fun t => SameMem s t ∧
        (o.stream = false ∨ o.unbound = true → tget? t.m.ops ((s.ra b).toNat % 65536) = none))) ∧
    (∀ core c, s.hart.lvl ≠ .u → s.hart.pair.on = false → s.named ((s.ra b).toNat % 65536) = some (.matrix core c) →
      let thawed (t : State) : Prop :=
        SameMem s t ∧ ∀ q ∈ (t.hartAt core).mx.queue, q.stamp = c.stamp → ∀ p ∈ q.parts, p.frozen = false
      let same (t : State) : Prop := SameMem s t ∧ (t.hartAt core).mx.queue = (s.hartAt core).mx.queue
      (s.hart.issued = true → s.hart.sb.any (·.scope == 1) = false →
        (c.frozen = true → Done s (.cpResume n b) thawed) ∧ (c.frozen = false → Done s (.cpResume n b) same)) ∧
      (c.frozen = true → Done s (.cpAbort n b) fun t => thawed t ∧
        ∀ q ∈ (s.hartAt core).mx.queue, q.stamp = c.stamp → q.frozen = true → ∃ q' ∈ (t.hartAt core).mx.queue, q'.stamp = c.stamp ∧
          (∀ p ∈ q.parts, p.frozen = true → ∃ p' ∈ q'.parts, p'.core = p.core ∧ p'.done = true) ∧
          ∃ f, q'.fault = some f ∧ f.cause = 0x27 ∧ f.val = q.dest ∧ f.info.toNat / 0x100 % 16 = 4) ∧
      (c.frozen = false → Done s (.cpAbort n b) same))

/-- R277, R121 to R125: the buffer-table instructions. BT.ALLOC takes the lowest free index for a valid descriptor and makes every slot
FREE; BT.FREE removes a handle whose slots are FREE; BT.WAITF takes the head slot once FULL; BT.REL frees the oldest DRAINING slot once
earlier stores are performed; BT.STAT counts the slots by state. The model's own choices in it: log 13. -/
def Obligations.BufferTableCompletes : Prop :=
  ∀ (s : State) (n : Fin 4) (a b : CReg) (hrt : Fin 4), s.ReadsC [b] → s.hart.pair.on = false →
    let v := s.ra b
    let d := Desc.of v.toNat
    let name := v.toNat % 4096
    (∀ i, d.ok (s.hart.id.dom[d.dlvl]!.getLsbD 16) = true → tfree (s.hearth hrt.val).handles 1023 = some i →
      (s.hearth hrt.val).ringCount + (s.newHandle d hrt.val).rings.length ≤ 4096 →
      (d.track = false → s.ringRegion (s.newHandle d hrt.val) hrt.val = none) →
      (d.cons = true → s.entriesFree ((s.newHandle d hrt.val).rings.map fun e => (s.newHandle d hrt.val).whole hrt.val e.1) [] = true) →
      Gives s (.btAlloc n a b hrt) a (w64 (hrt.val * 1024 + i)) fun t => SameMem s t ∧
        ∃ h, t.handle? (hrt.val * 1024 + i) = some h ∧ h.ctx = s.hart.ctx ∧ h.gang = s.hart.gang ∧ h.base = v.toNat % 2 ^ 26 ∧
          h.nslot = bits v.toNat 31 26 + 1 ∧ h.slotsz = (bits v.toNat 42 32 + 1) * 512 ∧ h.track = v.getLsbD 43 ∧ h.cons = v.getLsbD 44 ∧
          h.repl = v.getLsbD 45 ∧ h.mbox = 0 ∧ h.aborted = false ∧
          (∀ e ∈ h.rings, e.2.head = 0 ∧ e.2.tail = 0 ∧ e.2.slots.length = h.nslot ∧ ∀ x ∈ e.2.slots, x.st = .free)) ∧
    (∀ h, s.ownHandle s.hart.ctx name = some h →
      ((∀ e ∈ h.rings, ∀ x ∈ e.2.slots, x.st = .free) →
        Done s (.btFree n b) fun t => t.handle? name = none ∧ SameMem s t) ∧
      (∀ r, h.cons = false → h.ring (h.keyFor s.cur) = some r →
        let x := r.slot r.head
        (x.st = .full → r.head < r.slots.length →
          Gives s (.btWaitf n a b) a (if h.track then x.start else apertureVa (name / 1024) (h.off (h.keyFor s.cur) (r.head * h.slotsz))) fun t =>
            SameMem s t ∧ ∃ h' r', t.handle? name = some h' ∧ h'.ring (h.keyFor s.cur) = some r' ∧
              (r'.slot r.head).st = .draining ∧ r'.head = (r.head + 1) % max h.nslot 1) ∧
        (∀ i, r.oldestDraining (max h.nslot 1) = some i → s.hart.sb = [] → s.hart.posted = [] →
          Done s (.btRel n b) fun t => SameMem s t ∧
            ∃ h' r', t.handle? name = some h' ∧ h'.ring (h.keyFor s.cur) = some r' ∧ (r'.slot i).st = .free)) ∧
      (let r := (h.ring (h.keyFor s.cur)).getD {}
        let cnt (st : SlotSt) : Nat := r.slots.countP (·.st == st)
        Gives s (.btStat n a b) a (w64 (r.head + r.tail * 2 ^ 6 + cnt .free * 2 ^ 12 + cnt .filling * 2 ^ 19 + cnt .full * 2 ^ 26 +
          cnt .draining * 2 ^ 33 + (if r.slots.any (·.frozen) then 2 ^ 40 else 0) + (if h.aborted then 2 ^ 41 else 0) + 2 ^ 42 +
          (if h.track then 2 ^ 43 else 0) + (if h.cons then 2 ^ 44 else 0) + (if h.repl then 2 ^ 45 else 0) + h.mbox % 65536 * 2 ^ 48)) (SameMem s)))

/-- R278, R153 to R157: TILE.DECL declares a tile of a valid record over data of its own, with fresh records; TILE.UNDECL forgets it.
TILE.CHK and TILE.FIX first make a range-lock entry over the tile; once it is active, TILE.CHK passes, corrects one element, or traps
with FACET_MISMATCH, and TILE.FIX makes every record fresh. (Without rollback, which notes more than the tile.)
The model's own choices in it: logs 13, 67. -/
def Obligations.TilesComplete : Prop :=
  ∀ (s s1 : State) (n : Fin 4) (a b : CReg), s.hart.pair.on = false →
    (∀ v tg ev hearth base idx run, s.ReadsC [a, b] → s.capTile a { rd := true, wr := true } = .ok () → s.capTile b { rd := true } = .ok () →
      s.readCap (s.rc b) b.val (s.ra b) 16 16 = .ok (s1, v, tg, ev) → bits v 71 69 = 0 → bits v 127 72 = 0 → tileFormat (bits v 68 64) = true →
      s1.tilePlace a = .ok (hearth, base) → (∀ g ∈ s1.m.gangs, g.2.roll = none) →
      let t0 : Tile := { ctx := s.hart.ctx, base := base, rows := bits v 15 0 + 1, cols := bits v 31 16 + 1, pitch := bits v 63 32, fmt := bits v 68 64, run := run }
      t0.rows ≤ 4096 → t0.cols ≤ 4096 → t0.pitch % 8 = 0 → t0.rowBytes ≤ t0.pitch → t0.pitch ≤ 2 ^ 24 → (t0.w = 4 → t0.cols % 2 = 0) →
      base % elemBytes t0.fmt = 0 → base + t0.span ≤ 2 ^ 26 → (s.rc a).fits (s.ra a).toNat t0.span = true →
      regionSpan (s1.ctx s.hart.ctx) hearth base t0.span { rd := true, wr := true, eng := false } = none →
      (∀ e ∈ (s1.hearth hearth).tiles, (e.2.seg hearth).2.overlaps (t0.seg hearth).2 = false) → tfree (s1.hearth hearth).tiles 512 = some idx →
      (s1.hearth hearth).freeRun t0.runLen = some run → s1.lockedBox hearth base t0.span = false →
      Done s (.tileDecl n a b) fun t => SameMem s1 t ∧ tget? (t.hearth hearth).tiles idx = some t0 ∧
        ∀ k < t0.rows + t0.cols, t.facet hearth t0 k = t0.fresh s1.m hearth k) ∧
    (∀ hearth i t0, s.ReadsC [b] → s.namedTile b = .ok (hearth, i, t0) → (∀ g ∈ s.m.gangs, g.2.roll = none) →
      let first (i : Instr) : Prop :=
        ∃ t e l, exec i s = .next t ∧ t.hart.pc = s.hart.pc ∧ t.hart.checking = some e ∧ tget? (t.hearth e.1).locks e.2 = some l ∧
          l.range = (t0.seg hearth).2 ∧ e.1 = hearth ∧ SameMem s t
      let apart := s.hart.checking = none ∧ s.busy (fun _ => false) [t0.seg hearth] [t0.seg hearth] = false ∧ s.entriesFree [t0.seg hearth] [] = true
      (s.capTile b { wr := true } = .ok () → s.lockedBox hearth t0.base t0.span = false → s.checkedBox hearth t0.base t0.span = false →
        Done s (.tileUndecl n b) fun t => tget? (t.hearth hearth).tiles i = none ∧ SameMem s t) ∧
      (s.capTile b { rd := true } = .ok () → apart → first (.tileChk n b)) ∧
      (s.capTile b { wr := true } = .ok () → apart → first (.tileFix n b)) ∧
      (∀ e, s.capTile b { rd := true } = .ok () → s.hart.checking = some e → s.allActive [e] [] = true →
        let s0 := (s.delLock e).onHart fun h => { h with checking := none }
        ∀ s2 res, s0.checkTile hearth t0 s.hart.ctl.rptc = (s2, res) →
          (res = .ok → Done s (.tileChk n b) (SameMem s)) ∧
          (∀ r c v, res = .fix r c v → Done s (.tileChk n b) fun t => SameMem s2 t ∧
            (s.hart.ctl.rptc = true →
              { cause := 0x24, val := l1Name (s.ra b) hearth (keyOff (t0.elemKey hearth r c)), info := facetInfo 0 s.user 0 true r c } ∈ t.hart.asy)) ∧
          (∀ why r c noRow, res = .refuse why r c noRow → exec (.tileChk n b) s = .next (s2.trap 0x23 (s.ra b) (facetInfo 0 s.user why false r c)))) ∧
      (∀ e, s.capTile b { wr := true } = .ok () → s.hart.checking = some e → s.allActive [e] [] = true →
        Done s (.tileFix n b) fun t => SameMem s t ∧ ∀ k < t0.rows + t0.cols, t.facet hearth t0 k = t0.fresh s.m hearth k))

/-! ## Matrix commands and the Kneader (12 R279 to R295; 13 R311 to R314) -/

/-- R279, R281 to R285, R291 to R293: a matrix command that passes its checks and finds room enters its hart's queue with the next
sequence number and the shape, formats, handles and destination its operands give. The model's own choices in it: logs 19, 20. -/
def Obligations.MatrixCommandsIssue : Prop :=
  ∀ (s : State) (n : Fin 4) (a b : CReg) (c : MxCmd) (segs : List Seg), s.miller = false → (∃ q : QReg, s.hart.q[q] = some .mxpush) →
    s.hart.pair.on = false → s.hart.rep.phase ≠ 1 →
    (∀ o : MmaOp, s.ReadsC ([o.a, o.b] ++ if o.tok then [⟨(o.b.val + 1) % 16, by omega⟩] else []) →
      s.capEngine (s.rc o.a) 7 { wr := true, eng := true } = .ok () →
      let c0 : MxCmd := { s.mxBase .mma o.a true with
        m := 8 * (o.mc.val + 1), n := 8 * (o.nc.val + 1), k := 16 * (o.kc.val + 1)
        afmt := o.afmt.val, bfmt := o.bfmt.val, cfmt := (s.rc o.a).fmt, ah := o.ah.val, bh := o.bh.val
        ta := o.ta, tb := o.tb, acc := o.acc, fc := o.fc, sp := o.sp, tok := o.tok, up := o.up.val
        kpReassoc := o.kpReassoc, kpRound := o.kpRound }
      s.mxCheck c0 (s.mxHeadB o c0) = .ok (c, segs) → MxRoom s c segs →
      Queues s s (.mxMma o) fun q => q.kind = .mma ∧ q.m = 8 * (o.mc.val + 1) ∧ q.n = 8 * (o.nc.val + 1) ∧ q.k = 16 * (o.kc.val + 1) ∧
        q.afmt = o.afmt.val ∧ q.bfmt = o.bfmt.val ∧ q.cfmt = (s.rc o.a).fmt ∧ q.ah = o.ah.val ∧ q.bh = o.bh.val ∧ q.dest = s.ra o.a ∧
        q.ta = o.ta ∧ q.tb = o.tb ∧ q.acc = o.acc ∧ q.sp = o.sp ∧ q.tok = o.tok ∧ q.up = o.up.val ∧
        (o.tok = false → o.up = 0 → q.scale = if o.b = 0 then 0x3F800000 else (s.ra o.b).setWidth 32)) ∧
    (∀ (ah dh : Fin 1024) (mc nc : Fin 64) (fmt : Fin 32), s.ReadsC [a] →
      (dh.val = 0x3FF → s.capEngine (s.rc a) 7 { wr := true, eng := true } = .ok ()) →
      let c0 : MxCmd := { s.mxBase .trn a (dh.val == 0x3FF) with
        m := 8 * (mc.val + 1), n := 8 * (nc.val + 1), afmt := fmt.val, bfmt := fmt.val, cfmt := fmt.val, ah := ah.val, dh := dh.val }
      s.mxCheck c0 (.ok c0) = .ok (c, segs) → MxRoom s c segs →
      Queues s s (.mxTrn n a ah dh mc nc fmt) fun q => q.kind = .trn ∧ q.m = 8 * (mc.val + 1) ∧ q.n = 8 * (nc.val + 1) ∧ q.afmt = fmt.val ∧
        q.ah = ah.val ∧ q.dh = dh.val ∧ q.dest = s.ra a) ∧
    (∀ mc nc : Fin 64, s.ReadsC [a, b] → s.capEngine (s.rc a) 7 { rd := true, wr := true, eng := true } = .ok () →
      let f := (s.rc a).fmt
      let c0 : MxCmd := { s.mxBase .scale a true with m := 8 * (mc.val + 1), n := 8 * (nc.val + 1), afmt := f, bfmt := f, cfmt := f }
      s.mxCheck c0 (s.mxScale b false c0) = .ok (c, segs) → MxRoom s c segs →
      Queues s s (.mxScale n a b mc nc) fun q => q.kind = .scale ∧ q.m = 8 * (mc.val + 1) ∧ q.n = 8 * (nc.val + 1) ∧ q.cfmt = f ∧
        q.dest = s.ra a ∧ q.scale = if b = 0 then 0x3F800000 else (s.ra b).setWidth 32) ∧
    (∀ (s1 : State) (up : Fin 16) (v : Nat) (tg : Bool) (ev : List Nat), up ≠ 0 → s.ReadsC [b] →
      s.readCap (s.rc b) b.val (s.ra b) 32 32 = .ok (s1, v, tg, ev) → upValid (BitVec.ofNat 256 v) = true →
      MxRoom s1 { s1.mxBase .uprog 0 false with up := up.val, parts := [{ p := 0, q := 0, core := s.cur }] } [] →
      Queues s s1 (.mxUprog n b up) fun q => q.kind = .uprog ∧ q.up = up.val ∧ q.image = BitVec.ofNat 256 v)

/-- R294, R295: MX.WAIT answers the last sequence number once the queue is empty; MX.STAT answers the status word and clears its
sticky bits where asked. R312 to R314: at level K or F KN.LOAD replaces the rules that a valid image lists and KN.CTL sets the
masks or clears the counts of the Tray; at level U they trap with PRIVILEGED. KN.STAT reads the counts at any level. The model's own choice in it,
what PEND counts: log 19. -/
def Obligations.MatrixStatusAndKneaderComplete : Prop :=
  (∀ (s : State) (n : Fin 4) (a : CReg) (clr : Bool), s.miller = false → s.hart.pair.on = false →
     let x := s.hart.mx
     (x.queue = [] → Gives s (.mxWait n a) a (w64 x.seq) (SameMem s)) ∧
     Gives s (.mxStat n a clr) a (w64 (x.seq + (x.queue.map fun c => c.seqs.length).sum % 32 * 2 ^ 16 + (if x.nv then 2 ^ 24 else 0) +
         (if x.ovf then 2 ^ 25 else 0) + (if x.sat then 2 ^ 26 else 0) + (if x.flt then 2 ^ 27 else 0) + s.hart.ctl.mxwgt.toNat * 2 ^ 32 +
         x.tokens.length % 16 * 2 ^ 40)) fun t => SameMem s t ∧
       (clr = true → t.hart.mx.nv = false ∧ t.hart.mx.ovf = false ∧ t.hart.mx.sat = false ∧ t.hart.mx.flt = false) ∧
       (clr = false → t.hart.mx = x)) ∧
  (∀ (s : State) (n : Fin 4) (a b : CReg), s.miller = false → s.ReadsC [b] →
     let tray := trayOf s.cur
     let x := s.hart.mx
     let count4 (p q r t : Nat) : Word := w64 (p + q * 2 ^ 16 + r * 2 ^ 32 + t * 2 ^ 48)
     (s.hart.lvl = .u → Traps s (.knLoad n b) 0x04 (insnWord (.knLoad n b)) 0 ∧ Traps s (.knCtlRmask n b) 0x04 (insnWord (.knCtlRmask n b)) 0 ∧
       Traps s (.knCtlCmask n b) 0x04 (insnWord (.knCtlCmask n b)) 0 ∧ Traps s (.knCtlClr n) 0x04 (insnWord (.knCtlClr n)) 0) ∧
     (s.hart.lvl ≠ .u → s.hart.pair.on = false →
       (∀ s1 s2 hd v tg tg' ev ev', s.readCap (s.rc b) b.val (s.ra b) 32 32 = .ok (s1, hd, tg, ev) →
         let k := hd % 256
         let first := hd / 256
         1 ≤ k → first + k ≤ 64 → s1.readCap (s.rc b) b.val (s.ra b) (32 + 32 * k) 32 = .ok (s2, v, tg', ev') →
         (∀ i < k, ruleBad (v / 2 ^ (256 * (i + 1)) % 2 ^ 256) = none) →
         Done s (.knLoad n b) fun t => SameMem s2 t ∧
           ∀ i < 64, (t.tray tray).rule i = if first ≤ i ∧ i < first + k then v / 2 ^ (256 * (i - first + 1)) % 2 ^ 256 else (s.tray tray).rule i) ∧
       (Done s (.knCtlRmask n b) fun t => (t.tray tray).rmask = s.ra b ∧ SameMem s t) ∧
       ((s.ra b).toNat < 256 → Done s (.knCtlCmask n b) fun t => (t.tray tray).cmask.toNat = (s.ra b).toNat ∧ SameMem s t) ∧
       (Done s (.knCtlClr n) fun t => SameMem s t ∧ (∀ i, tget 0 (t.tray tray).hits i = 0) ∧ ∀ i < 8,
         let y := (t.hartAt (8 * tray + i)).mx
         y.rw = 0 ∧ y.absd = 0 ∧ y.fl = 0 ∧ y.age = 0 ∧ y.ex = 0 ∧ y.rd = 0 ∧ y.ra = 0 ∧ y.den = 0)) ∧
     WritesX s (.knStatCore n a) a (count4 x.rw x.absd x.fl x.age) ∧
     WritesX s (.knStatClass n a) a (count4 x.ex x.rd x.ra x.den) ∧
     WritesX s (.knStatRule n a b) a
       (w64 (tget 0 (s.tray tray).hits ((s.ra b).toNat % 64) + (s.tray tray).rule ((s.ra b).toNat % 64) % 4 * 2 ^ 32)))

/-! ## Barriers, domains, sends, tasks (14 R320 to R331; 08 R176 to R188) -/

/-- R320, R178 to R180: BAR.ARRIVE adds the hart to the arrivals of its level's barrier and answers the generation; BAR.WAIT and
BAR.SYNC return once that generation has completed, and BAR.TEST answers whether it has; a return shows the hart the domain's phase. An
arrival writes no byte of memory, but for the snapshot of a gang with rollback. The barrier of a level that is not valid traps with DOMAIN. The model's own choices in it: log 27. -/
def Obligations.BarriersComplete : Prop :=
  ∀ (s : State) (n : Fin 4) (a b : CReg) (lvl : Fin 8), lvl.val ≤ 4 →
    let l := lvl.val
    let w := (s.ra b).toNat % 65536
    let joined (r : BarRef) (x : Barrier) (t : State) : Prop :=
      ∃ y, t.barAt r = some y ∧ y.members = x.members ∧ y.gen = x.gen ∧ y.phase = x.phase ∧
        ∀ c, c ∈ y.arrived ↔ c = s.hart.lc ∨ c ∈ x.arrived
    let passed (x : Barrier) (t : State) : Prop :=
      Keeps (s.phaseSeen l x) t [] [] ∧ SameFlags s t ∧ MovesOn s t ∧ SameMem s t ∧
        (l < 4 → domPhase (t.hart.domAt l) = x.phase) ∧ ∀ k, k ≠ l → t.hart.domAt k = s.hart.domAt k
    (s.hart.barRef l = none → Traps s (.barArrive n a lvl) 0x33 (w64 l) 0 ∧ Traps s (.barSync n lvl) 0x33 (w64 l) 0 ∧
      (s.ReadsC [b] → Traps s (.barWait n b lvl) 0x33 (w64 l) 0 ∧ Traps s (.barTest n a b lvl) 0x33 (w64 l) 0)) ∧
    (∀ r x, s.hart.barRef l = some r → s.barAt r = some x →
      (s.hart.lc ∈ x.arrived → Traps s (.barArrive n a lvl) 0x33 (w64 l) 0x100) ∧
      (s.hart.lc ∉ x.arrived → s.hart.pair.on = false → s.hart.cpq = [] →
        (∀ e ∈ s.hart.sb ++ s.hart.posted, s.hart.barScope l < e.scope) →
        Gives s (.barArrive n a lvl) a (w64 x.gen) (fun t => joined r x t ∧ t.hart.arriveAt l = some x.gen ∧
          ((∀ g, s.gang? s.hart.gang = some g → g.roll = none) → SameMem s t)) ∧
        (x.gen < 65536 → s.hart.syncing l = none →
          ∃ t, exec (.barSync n lvl) s = .next t ∧ t.hart.pc = s.hart.pc ∧ t.hart.waiting = true ∧ t.hart.syncing l = some x.gen ∧ joined r x t)) ∧
      (∀ g, s.hart.syncing l = some g → x.completed g = true → ∃ t, exec (.barSync n lvl) s = .next t ∧ passed x t) ∧
      (∀ g, s.ReadsC [b] → s.hart.arriveAt l = some g →
        let old := 1 ≤ (g + 65536 - w) % 65536 ∧ (g + 65536 - w) % 65536 ≤ 32767
        let done := if w = g then x.completed g = true else old
        (done → ∃ t, exec (.barWait n b lvl) s = .next t ∧ passed x t) ∧
        (s.hart.pair.on = false → done →
          ∃ t, exec (.barTest n a b lvl) s = .next t ∧ t.rc a = (if a = 0 then {} else { addr := 1 }) ∧ Keeps (s.phaseSeen l x) t [a] [] ∧
            SameFlags s t ∧ MovesOn s t ∧ SameMem s t ∧ (l < 4 → domPhase (t.hart.domAt l) = x.phase)) ∧
        (s.hart.pair.on = false → w = g → x.completed g = false → Gives s (.barTest n a b lvl) a 0 (SameMem s)) ∧
        (w ≠ g → ¬ old → Traps s (.barWait n b lvl) 0x33 (w64 l) 0x300)))

/-- R323, R324: DOM.SET returns once the gang has re-formed the level, or traps with the refusal, where every hart of the gang has asked
for the same value. PHASE answers the phase of a valid domain, and binds or drops the slot table of the level.
The model's own choices in it: log 27. -/
def Obligations.DomainsComplete : Prop :=
  ∀ (s : State) (n : Fin 4) (a b : CReg) (lvl : Fin 8),
    let l := lvl.val
    let v := (s.ra b).toNat
    (l ≤ 2 → s.ReadsC [b] → v < 32 →
      (s.hart.sync.domres = some 0 → Done s (.domSet n b lvl) fun t => t.hart.sync.domres = none ∧ SameMem s t) ∧
      (∀ r, r ≠ 0 → s.hart.sync.domres = some r → ∃ s1, s1 = s.onHart (fun h => { h with sync := { h.sync with domres := none } }) ∧
        exec (.domSet n b lvl) s = .next (s1.trap 0x33 (w64 l) (w64 (0x100 * r)))) ∧
      (s.hart.sync.domres = none → s.hart.sync.domset = none → s.hart.sb = [] → s.hart.posted = [] → s.hart.cpq = [] →
        (∀ r x, s.hart.barRef l = some r → s.barAt r = some x → s.hart.lc ∉ x.arrived) →
        ∃ t, exec (.domSet n b lvl) s = .next t ∧ t.hart.pc = s.hart.pc ∧ t.hart.waiting = true ∧ t.hart.sync.domset = some (l, v))) ∧
    (∀ gang g m doms, l ≤ 2 → s.gang? gang = some g → s.takers g ≠ [] →
      let harts := s.takers g
      let vals := harts.map fun c => (((s.hartAt c).sync.domset).map (·.2)).getD 0
      (∀ c ∈ harts, ∃ x, (s.hartAt c).sync.domset = some (l, x)) →
      (s.reformPlan g l vals = (0, m, doms) →
        Acts s (.domainReform gang l) fun t => ∀ c ∈ harts,
          let h := t.hartAt c
          h.sync.domset = none ∧ h.sync.domres = some 0 ∧ h.arriveAt l = some 0 ∧ h.slotsAt l = none ∧
            (16 ≤ vals.headD 0 → doms ≠ [] → h.domAt l = doms.getD (h.lc / (8 * 2 ^ (vals.headD 0 % 16))) 0) ∧
            ∀ k, k ≠ l → h.domAt k = (s.hartAt c).domAt k) ∧
      (∀ r, r ≠ 0 → s.reformPlan g l vals = (r, m, doms) →
        Acts s (.domainReform gang l) fun t => ∀ c ∈ harts,
          (t.hartAt c).sync.domset = none ∧ (t.hartAt c).sync.domres = some r ∧ ∀ k, (t.hartAt c).domAt k = (s.hartAt c).domAt k)) ∧
    (l ≤ 3 → s.ReadsC [b] → domV (s.hart.domAt l) = false → Traps s (.phase n a b lvl) 0x33 (w64 l) 0) ∧
    (l ≤ 3 → domV (s.hart.domAt l) = true →
      let out := w64 (if domPhase (s.hart.domAt l) then 1 else 0)
      Gives s (.phase n a 0 lvl) a out (fun t => t.hart.slotsAt l = none ∧ SameMem s t) ∧
      (∀ s1 s2 hd x tg tg' ev ev', b ≠ 0 → s.ReadsC [b] → s.readCap (s.rc b) b.val (s.ra b) 16 16 = .ok (s1, hd, tg, ev) → hd % 65536 ≤ 256 →
        s1.readCap (s.rc b) b.val (s.ra b) (16 + 4 * (hd % 65536)) 16 = .ok (s2, x, tg', ev') →
        slotTableOk l (domMemb (s.hart.domAt l)) (domX (s.hart.domAt l)) x = true →
        Gives s (.phase n a b lvl) a out fun t => SameMem s2 t ∧
          ∃ tab, t.hart.slotsAt l = some tab ∧ tab.slotcyc = bits x 31 16 ∧ tab.entries.length = hd % 65536 ∧
            ∀ i, i < hd % 65536 → tab.entries[i]? = some (bits x (128 + 32 * i + 23) (128 + 32 * i))))

/-- R325 to R327, R181, R182: SEND puts its payload on the way where its slot of an open phase is its own and not over; RECV takes the
oldest payload delivered; WAKE puts a mask on the way, and WFW takes the bits it waits for. The model's own choices in it: log 28. -/
def Obligations.SendsComplete : Prop :=
  ∀ (s : State) (n : Fin 4) (a b : CReg) (vr : VReg) (lvl : Fin 4),
    let l := lvl.val
    let d := s.hart.domAt l
    let v := (s.ra b).toNat
    let idx := s.hart.lc - domFirst d
    let fenced (to0 : Nat) : Prop := s.hart.cpq = [] ∧ ∀ e ∈ s.hart.sb ++ s.hart.posted, (if dieOf to0 = s.die then 1 else 2) < e.scope
    (∀ tab, s.ReadsC [b] → s.ReadsV [vr] → domV d = true → domPhase d = true → s.hart.slotsAt l = some tab → v < tab.entries.length →
      let e := tab.entries.getD v 0
      let w := s.hart.sync.openAt.toList.getD l 0
      let to0 := s.coreOfLogical s.cur (domFirst d + e / 4096)
      e % 4096 = idx → s.hart.pair.on = false → w + v * tab.slotcyc ≤ s.hart.cyc →
      (s.hart.sync.sendAt = none → s.hart.cyc + (if domX d then 256 else 16) < w + (v + 1) * tab.slotcyc) →
      s.slotTurn s.cur l (v * tab.slotcyc) = true → s.slotsClear s.cur l v = true → fenced to0 → s.rxLoad to0 < 32 →
      Done s (.send n b vr lvl) fun t => SameMem s t ∧ t.hart.sync.sendAt = none ∧
        t.m.sends = s.m.sends ++ [{ hart := to0, pay := { data := s.rv vr, slot := v, sender := idx, lvl := l } }]) ∧
    (∀ x i, s.m.sends[i]? = some x → (∀ y ∈ s.m.sends.take i, y.hart ≠ x.hart) → Acts s (.sendDelivery i) fun t =>
      (t.recordOf x.hart).sync.rx = (s.recordOf x.hart).sync.rx ++ [x.pay] ∧ t.m.sends = s.m.sends.eraseIdx i ∧ SameMem s t) ∧
    (∀ p rest, s.hart.sync.rx = p :: rest → s.hart.pair.on = false → 80 ∉ s.hart.poison → tget? s.hart.streams vr.val = none →
      ∃ t, exec (.recv n a vr) s = .next t ∧ t.hart.v[vr] = p.data ∧ t.hart.sync.rx = rest ∧ Keeps s t [a] [vr] ∧ SameFlags s t ∧ MovesOn s t ∧
        SameMem s t ∧ t.rc a = (if a = 0 then {} else { addr := w64 (p.sender % 4096 + p.slot * 2 ^ 12 + p.lvl * 2 ^ 20) })) ∧
    (s.ReadsC [a, b] → s.hart.pair.on = false →
      let to0 := s.coreOfLogical s.cur (s.ra a).toNat
      (s.hart.size ≤ (s.ra a).toNat → Traps s (.wake n a b) 0x33 (s.ra a) 0x600) ∧
      ((s.ra a).toNat < s.hart.size → fenced to0 →
        Done s (.wake n a b) fun t => SameMem s t ∧ t.m.wakes = s.m.wakes ++ [{ hart := to0, mask := s.ra b }])) ∧
    (∀ x i, s.m.wakes[i]? = some x → ((s.hartAt x.hart).pair.on = false ∨ (s.hartAt x.hart).pair.begun = false) → Acts s (.wakeDelivery i) fun t =>
      (t.recordOf x.hart).sync.wakereg = (s.recordOf x.hart).sync.wakereg ||| x.mask ∧ t.m.wakes = s.m.wakes.eraseIdx i ∧ SameMem s t) ∧
    (s.ReadsC [b] → s.hart.pair.on = false →
      let hit := s.hart.sync.wakereg &&& s.ra b
      (s.ra b = 0 ∨ hit ≠ 0 → Gives s (.wfw n a b) a hit fun t => t.hart.sync.wakereg = s.hart.sync.wakereg &&& ~~~hit ∧ SameMem s t)) ∧
    (∀ core k at0, core < 4352 → (s.hartAt core).sync.sendAt = some (k, at0) → (s.hartAt core).cyc < at0 →
      s.slotTurn core k (at0 - (s.hartAt core).opened k) = true → Acts s (.slotOpen core) fun t => (t.hartAt core).cyc = at0 ∧ SameMem s t)

/-- R328 to R330, R183, R185, R187: TASK.SPAWN and TASK.YIELD answer 0 where the record enters the L1 part of the queue, 1 where it
enters the spill ring and 2 where neither takes it; TASK.TAKE receives the record that the dispenser gave, or the end of the task graph;
TASK.DONE ends the slice. The model's own choices in it: logs 32, 73: where A is one of c4 to c7 its result stands there. -/
def Obligations.TasksComplete : Prop :=
  ∀ (s s1 : State) (n : Fin 4) (a b : CReg) (hrt : Fin 4) (own : Bool) (v : Nat) (tg : Bool) (ev : List Nat), s.hart.pair.on = false →
    let status (q : TaskQ) : Nat :=
      if q.cfg.getLsbD 15 = false then 2
      else if q.l1.length < 4096 ∧ q.ring = [] then 0
      else if q.ring.length < (if bits q.cfg.toNat 14 10 = 0 then 0 else 2 ^ bits q.cfg.toNat 14 10) then 1
      else 2
    let fenced (die : Nat) : Prop := s1.hart.cpq = [] ∧ ∀ e ∈ s1.hart.sb ++ s1.hart.posted, (if die = s.die then 1 else 2) < e.scope
    -- the queue of a Hearth after a record that meets P is offered to it
    let offered (hd : Nat) (P : TaskRec → Prop) (t : State) : Prop :=
      let q := s1.taskQ s.hart.ctx hd
      let q' := t.taskQ s.hart.ctx hd
      (status q = 2 → q' = q) ∧
      (status q = 0 → ∃ r, q'.l1 = q.l1 ++ [r] ∧ q'.ring = q.ring ∧ q.stamp < r.stamp ∧ q'.stamp = r.stamp ∧ P r) ∧
      (status q = 1 → ∃ r, q'.ring = q.ring ++ [r] ∧ q'.l1 = q.l1 ∧ q.stamp < r.stamp ∧ q'.stamp = r.stamp ∧ P r)
    let die := if own then s.die else hrt.val
    (s.ReadsC [b] → s.readCap (s.rc b) b.val (s.ra b) 32 32 = .ok (s1, v, tg, ev) → (status (s1.taskQ s.hart.ctx die) = 2 ∨ fenced die) →
      Gives s (.taskSpawn n a b hrt own) a (w64 (status (s1.taskQ s.hart.ctx die))) fun t => SameMem s1 t ∧
        offered die (fun r => r.entry = bits v 31 0 ∧ r.deadline = bits v 63 32 ∧ r.budget = bits v 87 64 ∧ r.rsid = bits v 95 88 ∧
          r.wsid = bits v 103 96 ∧ r.args.toNat = bits v 255 128 ∧ r.gang = s.hart.gang ∧ r.spawner = s.hart.lc) t) ∧
    (∀ (q : QReg) hearth, s.hart.q[q] = some (.taskpop hearth) → s.hart.sync.slice = none →
      (∀ r, s.hart.sync.given = some (.task r) → badGiven ∉ s.hart.poison → ∃ t, exec (.taskTake n a q) s = .next t ∧ t.rc a = {} ∧
        (a ≠ 4 → t.rc 4 = { addr := r.args.setWidth 64 }) ∧ (a ≠ 5 → t.rc 5 = { addr := (r.args >>> 64).setWidth 64 }) ∧
        (a ≠ 6 → t.rc 6 = s.entryCap r.gang r.entry) ∧
        (a ≠ 7 → t.rc 7 = { addr := w64 (r.deadline + r.rsid * 2 ^ 32 + r.wsid * 2 ^ 40 + r.spawner % 2 ^ 16 * 2 ^ 48) }) ∧
        t.hart.sync.slice = some { task := r, hearth := hearth } ∧ t.hart.sync.given = none ∧ Keeps s t [a, 4, 5, 6, 7] [] ∧ SameFlags s t ∧
        MovesOn s t ∧ SameMem s t) ∧
      (s.hart.sync.given = some .terminated ∨ (s.hart.sync.given = none ∧ ∃ g, s.gang? s.hart.gang = some g ∧ g.terminated = true) →
        Gives s (.taskTake n a q) a 1 fun t => t.hart.sync.slice = none ∧ t.hart.sync.given = none ∧ SameMem s t)) ∧
    (∀ sl, s.hart.sync.slice = some sl →
      let done (i : Instr) (entry : Nat) (args : BitVec 128) : Prop :=
        (status (s1.taskQ s.hart.ctx sl.hearth) = 2 ∨ fenced sl.hearth) →
        Gives s i a (w64 (status (s1.taskQ s.hart.ctx sl.hearth))) fun t => SameMem s1 t ∧
          (t.hart.sync.slice = none ↔ status (s1.taskQ s.hart.ctx sl.hearth) ≠ 2) ∧
          offered sl.hearth (fun r => r.entry = entry ∧ r.args = args ∧ r.deadline = sl.task.deadline ∧ r.rsid = sl.task.rsid ∧
            r.wsid = sl.task.wsid ∧ r.budget = s.hart.sync.budget % 2 ^ 24) t
      (s1 = s → done (.taskYield n a 0) sl.task.entry sl.task.args) ∧
      (b ≠ 0 → s.ReadsC [b] → s.readCap (s.rc b) b.val (s.ra b) 32 32 = .ok (s1, v, tg, ev) →
        done (.taskYield n a b) (bits v 31 0) (BitVec.ofNat 128 (bits v 255 128)))) ∧
    Done s (.taskDone n) (fun t => t.hart.sync.slice = none ∧ SameMem s t)

/-- R330, R331, R170: TASK.EXIT halts the hart once its engine operations are final and its stores performed, and the last hart of a gang
to halt ends the gang and leaves every core of it idle. LAUNCH answers the code of the Distributor's check, and a record that passes it
joins the queue of its context and PRIO. The model's own choices in it: logs 13, 33. -/
def Obligations.GangsEndAndBegin : Prop :=
  ∀ (s s1 : State) (n : Fin 4) (a b : CReg) (v : Nat) (tg : Bool) (ev : List Nat), s.hart.pair.on = false →
    (s.EnginesIdle → s.hart.sb = [] → s.hart.posted = [] → s.hart.asy = [] →
      (s.gang? s.hart.gang = none → ∃ t, exec (.taskExit n) s = .next t ∧ t.hart.place = .halted ∧ SameMem s t) ∧
      (∀ g, s.gang? s.hart.gang = some g →
        ((∃ c ∈ g.cores, c ≠ s.cur ∧ (s.hartAt c).place ≠ .halted) →
          ∃ t, exec (.taskExit n) s = .next t ∧ t.hart.place = .halted ∧ t.gang? s.hart.gang = some g ∧ SameMem s t) ∧
        ((∀ c ∈ g.cores, c ≠ s.cur → (s.hartAt c).place = .halted) →
          ∃ t, exec (.taskExit n) s = .next t ∧ t.gang? s.hart.gang = none ∧ (∀ c ∈ g.cores, (t.hartAt c).place = .idle) ∧ SameMem s t))) ∧
    (s.ReadsC [b] → s.hart.cpq = [] → (∀ e ∈ s.hart.sb ++ s.hart.posted, 3 < e.scope) →
      s.readCap (s.rc b) b.val (s.ra b) 64 64 = .ok (s1, v, tg, ev) →
      let l := LRec.of (BitVec.ofNat 512 v)
      let launcher := if s.hart.lvl = .f then none else some s.hart.ctx
      (∀ code, s1.checkLaunch l launcher = some code →
        Gives s (.launch n a b) a (w64 code) fun t => t.m.dist.queues = s1.m.dist.queues ∧ SameMem s1 t) ∧
      (s1.checkLaunch l launcher = none →
        Gives s (.launch n a b) a 0 fun t => SameMem s1 t ∧ ∀ key, tget [] t.m.dist.queues key = tget [] s1.m.dist.queues key ++
          if key = 8 * bits v 3 0 + bits v 10 8 then [{ lrec := BitVec.ofNat 512 v, ctx := s.hart.ctx, parent := some s.hart.gang, host := false }]
          else []))

/-! ## The system instructions (14 R332 to R355) -/

/-- R334 to R340, R348, R349, R351: CTL.RD writes the value of a register that exists and that the hart may read; reading one that does not
exist traps with CTL_NUMBER, and one that it may not read with PRIVILEGED. The model's own choice in it, TLBINV read at level U: log 39. -/
def Obligations.ControlRegistersRead : Prop :=
  ∀ (s : State) (n : Fin 4) (a : CReg) (num : Fin 4096),
    (ctlExists s.miller num.val = false → Traps s (.ctlRd n a num) 0x07 (w64 num.val) 0) ∧
    (ctlExists s.miller num.val = true →
      (¬ s.may (ctlReadNeed num.val) → Traps s (.ctlRd n a num) 0x04 (insnWord (.ctlRd n a num)) (refusedInfo (ctlReadNeed num.val))) ∧
      (s.may (ctlReadNeed num.val) → s.hart.pair.on = false →
        let h := s.hart
        let c := h.ctl
        let gives (k : Nat) (x : Word) : Prop := num.val = k → WritesX s (.ctlRd n a num) a x
        gives 0x010 (c.round.setWidth 64) ∧ gives 0x011 (c.flush.setWidth 64) ∧ gives 0x012 (c.arstat.setWidth 64) ∧
        gives 0x013 (if c.chk then 1 else 0) ∧ gives 0x020 (h.id.lcore.setWidth 64) ∧ gives 0x021 (h.id.gangsz.setWidth 64) ∧
        gives 0x022 (h.id.devcore.setWidth 64) ∧ gives 0x023 (h.id.physcore.setWidth 64) ∧
        (∀ k : Fin 4, gives (0x024 + k.val) (h.id.dom[k].setWidth 64)) ∧
        gives 0x028 h.sync.wakereg ∧ gives 0x029 (w64 h.sync.budget) ∧ gives 0x030 s.time ∧ gives 0x031 c.cycle ∧ gives 0x032 c.retired ∧
        gives 0x033 c.timecmp ∧ gives 0x034 (w64 (c.opreq.toNat + s.grantOf s.cur * 2 ^ 4)) ∧
        (∀ k : Fin 4, gives (0x038 + k.val) (h.perf[k].sel.setWidth 64) ∧
          gives (0x03C + k.val) (h.perf[k].cnt.setWidth 64 ||| if h.perf[k].ovf then 1 <<< 48 else 0)) ∧
        gives 0x100 (w64 (h.kb.ppl.num + (if h.kb.ds then 4 else 0) + (if h.kb.pie then 8 else 0) + (if h.kb.nest then 16 else 0) +
          (if h.kb.ie then 32 else 0) + h.lvl.num * 2 ^ 8)) ∧
        gives 0x101 h.kb.epc ∧ gives 0x102 (w64 (h.kb.code.toNat + if h.kb.asy then 2 ^ 7 else 0)) ∧ gives 0x103 h.kb.eval ∧
        gives 0x104 h.kb.einfo ∧ gives 0x105 h.kb.ebt ∧ gives 0x106 ((h.kb.base.setWidth 64 <<< 6) ||| if h.kb.vec then 1 else 0) ∧
        gives 0x180 (w64 ((if (s.ctx h.ctx).ptEn then 1 else 0) + (s.ctx h.ctx).ptTable.toNat * 2 ^ 16)) ∧
        gives 0x181 (c.nearctl.setWidth 64) ∧ gives 0x182 (c.l1rtidx.setWidth 64) ∧
        gives 0x183 (tget 0 (s.ctx h.ctx).regions c.l1rtidx.toNat) ∧ gives 0x184 0 ∧ gives 0x185 (c.rmt.setWidth 64) ∧ gives 0x187 0x6553 ∧
        gives 0x186 (let ch : Chan := tget {} s.m.chans (s.cur - 4096); w64 (ch.stalled s.m.now % 2 ^ 48 + ch.forced % 2 ^ 8 * 2 ^ 48 + ch.owed % 2 ^ 4 * 2 ^ 56)) ∧
        gives 0x188 (if c.rptc then 1 else 0) ∧
        gives 0x189 (w64 (tget 0 (s.ctx h.ctx).facetCorr s.die + tget 0 (s.ctx h.ctx).facetMism s.die * 2 ^ 32)) ∧
        gives 0x18A (c.tqsel.setWidth 64) ∧ gives 0x18B ((s.taskQ h.ctx c.tqsel.toNat).cfg.setWidth 64) ∧ gives 0x18C (c.mxwgt.setWidth 64) ∧
        gives 0x18D (c.rwperm.setWidth 64) ∧
        gives 0x18E (w64 ((if h.pair.on then 1 else 0) + (if h.pair.on && h.pair.odd then 2 else 0) + h.pair.run % 4 * 2 ^ 2 +
          h.pair.mism % 2 ^ 16 * 2 ^ 16 + h.pair.mat % 2 ^ 32 * 2 ^ 32)) ∧
        gives 0x18F (w64 ((if h.rep.en then 1 else 0) + (if h.rep.rstl2 then 2 else 0) + (if h.rep.rsttlb then 4 else 0) +
          h.rep.save.toNat * 2 ^ 16)) ∧
        gives 0x190 (w64 (h.rep.pass % 2 ^ 8 + h.rep.phase % 4 * 2 ^ 8 + (if h.rep.mismatch then 2 ^ 10 else 0) + (if h.rep.ovf then 2 ^ 11 else 0) +
          h.rep.pages.length % 2 ^ 7 * 2 ^ 12 + h.rep.sig.toNat * 2 ^ 32)) ∧
        gives 0x191 0 ∧
        gives 0x200 (w64 (h.fb.ppl.num + (if h.fb.ds then 4 else 0) + (if h.fb.pie then 8 else 0) + (if h.fb.ie then 32 else 0) + h.lvl.num * 2 ^ 8)) ∧
        gives 0x201 h.fb.epc ∧ gives 0x202 (w64 (h.fb.code.toNat + if h.fb.asy then 2 ^ 7 else 0)) ∧ gives 0x203 h.fb.eval ∧
        gives 0x204 h.fb.einfo ∧ gives 0x205 h.fb.ebt ∧ gives 0x206 ((h.fb.base.setWidth 64 <<< 6) ||| if h.fb.vec then 1 else 0)))

/-- R334 to R340, R348, R349, R351: CTL.WR stores the writable fields of a register that exists and that the hart may write, and changes
no c-register, no v-register and no byte of memory; the identity registers, whose fields are RO, and TIME store nothing (R8). BUDGET,
CYCLE, RETIRED and a PERFCNT hold the value with what the instruction itself adds or spends. A write of PTROOT or TLBINV begins its
shootdown and completes once that is over; one of LDREQ waits for the loader where it has something to do. A register that does not
exist or may not be written traps. The model's own choices in it: logs 6 (what EPC keeps of a branch), 29, 39. -/
def Obligations.ControlRegistersWrite : Prop :=
  ∀ (s : State) (n : Fin 4) (b : CReg) (num : Fin 4096),
    (ctlExists s.miller num.val = false → Traps s (.ctlWr n b num) 0x07 (w64 num.val) 0) ∧
    (ctlExists s.miller num.val = true →
      (¬ s.may (ctlWriteNeed num.val) → Traps s (.ctlWr n b num) 0x04 (insnWord (.ctlWr n b num)) (refusedInfo (ctlWriteNeed num.val))) ∧
      (s.may (ctlWriteNeed num.val) → s.ReadsC [b] →
        let v := s.ra b
        let takes (k : Nat) (P : State → Prop) : Prop :=
          num.val = k → ∃ t, exec (.ctlWr n b num) s = .next t ∧ t.hart.c = s.hart.c ∧ t.hart.v = s.hart.v ∧ MovesOn s t ∧ SameMem s t ∧ P t
        -- the write has begun and waits
        let begins (k : Nat) (P : State → Prop) : Prop :=
          num.val = k → ∃ t, exec (.ctlWr n b num) s = .next t ∧ t.hart.pc = s.hart.pc ∧ t.hart.waiting = true ∧ t.hart.asked.isSome = true ∧ SameMem s t ∧ P t
        let cycles := 1 + n.val + s.delay
        let mine := s.ctx s.hart.ctx
        takes 0x010 (fun t => t.hart.ctl.round = v.setWidth 3) ∧ takes 0x011 (fun t => t.hart.ctl.flush = v.setWidth 8) ∧
        takes 0x012 (fun t => t.hart.ctl.arstat = s.hart.ctl.arstat &&& ~~~(v.setWidth 4)) ∧ takes 0x013 (fun t => t.hart.ctl.chk = v.getLsbD 0) ∧
        (∀ k : Fin 8, takes (0x020 + k.val) (fun t => t.hart.id = s.hart.id)) ∧ 
        (let x := min (v.toNat % 2 ^ 25) (2 ^ 24)
         takes 0x029 (fun t => t.hart.sync.budget = if s.hart.sync.slice.isSome = true ∧ s.hart.lvl ≠ .f then x - cycles else x)) ∧
        takes 0x031 (fun t => t.hart.ctl.cycle = v + w64 cycles) ∧
        (s.hart.ev = [] → s.hart.walked = 0 → ∀ k : Fin 4, takes (0x03C + k.val) (fun t =>
          let p := s.hart.perf[k]
          let own : Nat :=
            if p.counts (p.sel.toNat % 256) s.hart.lvl (s.hart.rep.phase == 1) then
              (match p.sel.toNat % 256 with | 0x01 => cycles | 0x02 => 1 | 0x0F => n.val | 0x10 => s.delay | _ => 0)
            else 0
          t.hart.perf[k].sel = p.sel ∧ t.hart.perf[k].cnt = v.setWidth 48 + BitVec.ofNat 48 own ∧
            t.hart.perf[k].ovf = ((p.ovf && !v.getLsbD 48) || decide (2 ^ 48 ≤ (v.setWidth 48).toNat + own)))) ∧
        takes 0x187 (fun t => t.hart.id = s.hart.id) ∧
        takes 0x028 (fun t => t.hart.sync.wakereg = v) ∧
        takes 0x030 (fun t => t.m.timeBase = s.m.timeBase ∧ t.m.timeRef = s.m.timeRef ∧ t.m.ppm = s.m.ppm) ∧
        takes 0x032 (fun t => t.hart.ctl.retired = v + 1) ∧ takes 0x033 (fun t => t.hart.ctl.timecmp = v) ∧
        takes 0x034 (fun t => t.hart.ctl.opreq = v.setWidth 4) ∧ takes 0x181 (fun t => t.hart.ctl.nearctl = v.setWidth 4) ∧
        takes 0x182 (fun t => t.hart.ctl.l1rtidx = v.setWidth 5) ∧
        takes 0x183 (fun t => tget 0 (t.ctx s.hart.ctx).regions s.hart.ctl.l1rtidx.toNat = v &&& 0xFFFFFF1F) ∧
        takes 0x185 (fun t => t.hart.ctl.rmt = v.setWidth 16) ∧
        takes 0x186 (fun t => (tget {} t.m.chans (s.cur - 4096)).stall = bits v.toNat 47 0 ∧ (tget {} t.m.chans (s.cur - 4096)).forced = bits v.toNat 55 48) ∧
        takes 0x188 (fun t => t.hart.ctl.rptc = v.getLsbD 0) ∧
        takes 0x189 (fun t => tget 0 (t.ctx s.hart.ctx).facetCorr s.die = bits v.toNat 31 0 ∧ tget 0 (t.ctx s.hart.ctx).facetMism s.die = bits v.toNat 63 32) ∧
        takes 0x18A (fun t => t.hart.ctl.tqsel = v.setWidth 2) ∧
        takes 0x18C (fun t => t.hart.ctl.mxwgt = if v.setWidth 4 = 0#4 then 1 else v.setWidth 4) ∧
        takes 0x18D (fun t => t.hart.ctl.rwperm = v.setWidth 6) ∧
        takes 0x18E (fun t => t.hart.pair.mism = bits v.toNat 31 16 ∧ t.hart.pair.mat = bits v.toNat 63 32) ∧
        takes 0x18F (fun t => t.hart.rep.en = v.getLsbD 0 ∧ t.hart.rep.rstl2 = v.getLsbD 1 ∧ t.hart.rep.rsttlb = v.getLsbD 2 ∧
          t.hart.rep.save.toNat = bits v.toNat 47 16) ∧
        takes 0x190 (fun t => t.hart.rep.mismatch = (s.hart.rep.mismatch && !v.getLsbD 10) ∧ t.hart.rep.ovf = (s.hart.rep.ovf && !v.getLsbD 11)) ∧
        (∀ k : Fin 4, takes (0x038 + k.val) (fun t => t.hart.perf[k].sel = if 0x1C < bits v.toNat 7 0 then v.setWidth 12 &&& 0xF00 else v.setWidth 12)) ∧
        (let bank (k : Nat) (b0 : Bank) (f : State → Bank) : Prop :=
          takes k (fun t => f t = { b0 with ppl := (if v.setWidth 2 = 0#2 then .u else if v.setWidth 2 = 1#2 then .k else .f), ds := v.getLsbD 2, pie := v.getLsbD 3, ie := v.getLsbD 5 }) ∧
          takes (k + 1) (fun t => f t = { b0 with epc := v, src := if v = b0.epc then b0.src else none }) ∧
          takes (k + 2) (fun t => f t = { b0 with code := BitVec.ofNat 7 (min (bits v.toNat 6 0) 0x5F), asy := v.getLsbD 7 }) ∧
          takes (k + 3) (fun t => f t = { b0 with eval := v }) ∧ takes (k + 4) (fun t => f t = { b0 with einfo := v }) ∧
          takes (k + 5) (fun t => f t = { b0 with ebt := v }) ∧ takes (k + 6) (fun t => f t = { b0 with vec := v.getLsbD 0, base := (v >>> 6).setWidth 58 })
         bank 0x100 s.hart.kb (fun t => t.hart.kb) ∧ bank 0x200 s.hart.fb (fun t => t.hart.fb)) ∧
        (let may184 := v.toNat % 4 ≠ 3 ∧ ((v.toNat % 4 ≠ 0 ∧ bits v.toNat 5 2 = s.hart.ctx) ∨ s.hart.lvl = .f)
         (s.hart.asked = none → s.m.shoot = none →
           begins 0x180 (fun t => (t.ctx s.hart.ctx).ptEn = v.getLsbD 0 ∧ (t.ctx s.hart.ctx).ptTable.toNat = bits v.toNat 47 16 ∧
             ∃ x, t.m.shoot = some x ∧ t.hart.asked = some x.stamp ∧ x.what = .context s.hart.ctx) ∧
           (may184 → begins 0x184 (fun t => ∃ x, t.m.shoot = some x ∧ t.hart.asked = some x.stamp ∧
             x.what = (if v.toNat % 4 = 0 then .all else if v.toNat % 4 = 1 then .context (bits v.toNat 5 2)
               else .pages (bits v.toNat 5 2) (bits v.toNat 54 16) (bits v.toNat 15 8))))) ∧
         (∀ k, s.hart.asked = some k → s.m.shoot.any (·.stamp == k) = false →
           takes 0x180 (fun t => (t.ctx s.hart.ctx).ptEn = mine.ptEn ∧ (t.ctx s.hart.ctx).ptTable = mine.ptTable ∧ t.hart.asked = none) ∧
           (may184 → takes 0x184 (fun t => t.m.shoot = s.m.shoot ∧ t.hart.asked = none)))) ∧
        ((s.taskQ s.hart.ctx s.hart.ctl.tqsel.toNat).l1 = [] → (s.taskQ s.hart.ctx s.hart.ctl.tqsel.toNat).ring = [] →
          takes 0x18B (fun t => (t.taskQ s.hart.ctx s.hart.ctl.tqsel.toNat).cfg = v.setWidth 48)) ∧
        (let line := v &&& ~~~(0x3F#64)
         (s.hart.asked = none → s.wanted s.hart.ctx line = false → takes 0x191 (fun t => t.m.ldreqs = s.m.ldreqs)) ∧
         (s.hart.asked = none → s.wanted s.hart.ctx line = true →
           begins 0x191 (fun t => ∃ r, t.m.ldreqs = s.m.ldreqs ++ [r] ∧ r.ctx = s.hart.ctx ∧ r.line = line ∧ t.hart.asked = some r.stamp)) ∧
         (∀ k, s.hart.asked = some k → (∀ r ∈ s.m.ldreqs, r.stamp = k → s.wanted r.ctx r.line = false) →
           takes 0x191 (fun t => t.m.ldreqs = s.m.ldreqs.filter (·.stamp != k))))))

/-- R340 to R346: TIME, OPREQ, CTX.SET, WFI, SAFEPT and MIGRATE complete where the level or RWPERM lets the hart run them, and
trap with PRIVILEGED elsewhere; WFI completes once a cause is pending, SAFEPT unless the hart is to stop. R355: at level K, F or
with bit 5 of RWPERM ERRINJ plants the error its descriptor names: it flips bit BIT of an L1 word or a facet record, which leaves the byte and the record as they are until their code
finds it, plants an error for the next MX.MMA or the next exchange, or poisons an HBM sector; a kind above 5 or a bit that must be zero traps with
HANDLE_STATE, REASON 12. The model's own choices in it: log 30. -/
def Obligations.SystemInstructionsComplete : Prop :=
  (∀ (s : State) (n : Fin 4) (a b : CReg) (map : Fin 4096),
     let refused (i : Instr) (info : Word) : Prop := Traps s i 0x04 (insnWord i) info
     (s.may (.perm 0) → s.hart.pair.on = false → WritesX s (.time n a) a s.time) ∧
     (¬ s.may (.perm 0) → refused (.time n a) 0x100) ∧
     (s.may (.perm 2) → s.ReadsC [b] →
       ∃ t, exec (.opreq n b) s = .next t ∧ t.hart.ctl.opreq = (s.ra b).setWidth 4 ∧ t.hart.c = s.hart.c ∧ t.hart.v = s.hart.v ∧ MovesOn s t ∧ SameMem s t) ∧
     (¬ s.may (.perm 2) → refused (.opreq n b) 0x100) ∧
     (s.hart.lvl ≠ .u → s.ReadsC [b] → (s.rc b).tag = true → (s.rc b).seal = false → (s.rc b).malformed = false →
       Done s (.ctxSet n b) fun t => SameMem s t ∧ (t.ctx s.hart.ctx).wakeC3 = s.rc b ∧ (t.ctx s.hart.ctx).wakeRound = s.hart.ctl.round ∧
         (t.ctx s.hart.ctx).wakeFlush = s.hart.ctl.flush) ∧
     (s.hart.lvl = .u → refused (.ctxSet n b) 0 ∧ refused (.migrate n a b) 0) ∧
     (s.hart.pending s.time ≠ [] → Done s (.wfi n) (SameMem s)) ∧
     (s.hart.pending s.time = [] → s.stopPending = false → ∃ t, exec (.wfi n) s = .next t ∧ t.hart.pc = s.hart.pc ∧ t.hart.waiting = true ∧ t.hart.wfi = true) ∧
     (s.stopPending = false ∨ s.hart.slot ≠ none → Done s (.safept n map) fun t => t.hart.atSafept = none ∧ SameMem s t) ∧
     (s.stopPending = true → s.hart.slot = none →
       ∃ t, exec (.safept n map) s = .next t ∧ t.hart.pc = s.hart.pc ∧ t.hart.waiting = true ∧ t.hart.safeWait = true ∧ t.hart.atSafept = some (map.val, n.val)) ∧
     (s.hart.lvl ≠ .u → s.ReadsC [a, b] →
       let l := (s.ra a).toNat
       let to0 := (s.ra b).toNat
       (s.hart.size ≤ l → Traps s (.migrate n a b) 0x33 (s.ra b) 0x600) ∧
       (∀ g core, l < s.hart.size → s.gang? s.hart.gang = some g → g.cores[l]? = some core →
         (s.hart.id.gangsz.getLsbD 14 = true ∨ 4096 ≤ to0 ∨ dieOf to0 ≠ dieOf core → Traps s (.migrate n a b) 0x34 (s.ra b) 0x100) ∧
         (s.hart.id.gangsz.getLsbD 14 = false → to0 < 4096 → dieOf to0 = dieOf core → (s.hartAt to0).place = .idle → (s.tray (trayOf to0)).wd = false →
           (∀ c ∈ s.cores, c ≠ core → (s.hartAt c).migrateTo ≠ some to0) → (s.hartAt core).pair.on = false → (s.hartAt core).migrateTo = none →
           Done s (.migrate n a b) fun t => (t.hartAt core).migrateTo = some to0 ∧ SameMem s t)))) ∧
  (∀ (s : State) (n : Fin 4) (a b : CReg), s.may (.perm 5) → s.ReadsC [a, b] →
     (s.rc a).tag = true → (s.rc a).seal = false → (s.rc a).malformed = false →
     let d := (s.ra b).toNat
     let bit0 := bits d 9 4
     let row := bits d 15 10
     (d / 2 ^ 22 ≠ 0 ∨ 5 < d % 16 → Traps s (.errinj n a b) 0x22 (s.ra b) 0xC00) ∧
     (d / 2 ^ 22 = 0 →
       (∀ k, d % 16 = 0 → s.injectL1 (s.ra a) = some k →
         Done s (.errinj n a b) fun t => SameMem s t ∧ tget 0 t.m.flips (k / 8) = tget 0 s.m.flips (k / 8) ^^^ BitVec.ofNat 64 (2 ^ bit0) ∧
           ∀ w, w ≠ k / 8 → tget? t.m.flips w = tget? s.m.flips w) ∧
       (d % 16 = 1 → s.miller = true ∨ (32 ≤ bit0 ∧ s.hart.narrowNext = true) → Traps s (.errinj n a b) 0x22 (s.ra b) 0xC00) ∧
       (d % 16 = 1 → s.miller = false → bit0 < 32 ∨ s.hart.narrowNext = false → Done s (.errinj n a b) fun t => t.hart.mx.inj = some (bit0, row, bits d 21 16) ∧ SameMem s t) ∧
       (∀ k i tile, d % 16 = 2 → s.injectL1 (s.ra a) = some k → (s.hearth (keyHearth k)).tileAt (keyOff k) = some (i, tile) → bit0 < 32 → row < tile.rows →
         Done s (.errinj n a b) fun t => SameMem s t ∧ (t.hearth (keyHearth k)).facets = (s.hearth (keyHearth k)).facets ∧
           tget 0 t.m.flipF (flipKey (keyHearth k) (tile.run + row)) =
             tget 0 s.m.flipF (flipKey (keyHearth k) (tile.run + row)) ^^^ BitVec.ofNat 32 (2 ^ bit0)) ∧
       (∀ s1 k, d % 16 = 3 → s.injectAt (s.ra b) (s.ra a) = .ok (s1, k) →
         Done s (.errinj n a b) fun t => k / 64 ∈ t.m.poisonS ∧ tget? t.m.l2 (lineKey k) = none ∧ SameMem s1 t) ∧
       (∀ s1 k, d % 16 = 4 → s.injectAt (s.ra b) (s.ra a) = .ok (s1, k) → Done s (.errinj n a b) (SameMem s1)) ∧
       (d % 16 = 5 → Done s (.errinj n a b) fun t => t.hart.pair.inject = true ∧ SameMem s t)))

/-- R332, R205, R373 to R376: TRAP enters the next level, with EPC behind it, and BREAK and an undefined instruction trap at themselves.
In a delay slot every control transfer traps with BRANCH_IN_SLOT, EVAL being the address of the branch whose slot it is. Entering a trap writes the bank of its level, whose entry it goes to; a trap from level K
into K keeps the old bank in the shadow pair, and one more goes to level F as TRAP_NEST. R333, R206: ERET goes to EPC, into the
delay slot where DS is set, with the target it had and the address of its branch; the level and IE return, or, in a nested K bank, the shadow pair does. At
level U it traps. The model's own choices in it: log 6. -/
def Obligations.TrapsAndReturnsComplete : Prop :=
  (∀ (s : State) (n : Fin 4) (imm : Fin 256) (reason : Fin 5) (head : BitVec 16) (tail : BitVec 64),
     (s.hart.slot = none → exec (.trap n imm) s = .next (s.trapAfter 0x06 (w64 imm.val) 0 false (nextPc s.hart.pc s.hart.hc))) ∧
     (s.hart.slot = none → Traps s (.brk n imm) 0x05 (w64 imm.val) 0) ∧
     (∀ (sl : Slot) (a b : CReg) (idx : Fin 32) (disp : BitVec 11) (far : BitVec 27) (q : QReg), s.hart.slot = some sl →
       ∀ i ∈ ([.trap n imm, .brk n imm, .eret n, .beq n a b idx disp, .bne n a b idx disp, .blt n a b idx disp, .bge n a b idx disp,
           .bltu n a b idx disp, .bgeu n a b idx disp, .jal n a far idx, .jr n a b, .brTok n q] : List Instr),
         let line := s.hart.pc &&& ~~~(0x3F#64)
         (∀ src, sl.src = some src → Traps s i 0x02 src 0) ∧
         (sl.src = none → 1 < s.hart.pc.toNat / 2 % 32 → Traps s i 0x02 (s.hart.pc - 2) 0) ∧
         (∀ s1 l, sl.src = none → s.hart.pc.toNat / 2 % 32 ≤ 1 → s.fetchLine (line - 64) 0 = .ok (s1, l) → checkLine l = none →
           exec i s = .next (s1.trap 0x02 (line - 64 + w64 (2 * lineHC l)) 0))) ∧
     Traps s (.illegalInstruction reason head tail) 0x00 (w64 (head.toNat + tail.toNat % 2 ^ 48 * 2 ^ 16)) (w64 (0x100 * reason.val)) ∧
     (∀ (cause : Nat) (val info epc : Word) (asy : Bool), cause < 128 →
       let old := s.hart
       -- the hart after a trap into level T, with the bank it had there
       let entered (h : Hart) (t : Level) (b : Bank) (code : Nat) (eval einfo pc : Word) (as0 ds : Bool) : Prop :=
         let nb := h.bank t
         h.lvl = t ∧ nb.ppl = old.lvl ∧ nb.ds = ds ∧ nb.pie = b.ie ∧ nb.ie = false ∧ nb.epc = pc ∧ nb.code.toNat = code ∧ nb.asy = as0 ∧
           nb.eval = eval ∧ nb.einfo = einfo ∧ nb.vec = b.vec ∧ nb.base = b.base ∧ h.slot = none ∧
           h.pc = (b.base.setWidth 64 <<< 6) + (if b.vec then w64 (64 * (code / 16)) else 0) + 2 ∧ h.c = old.c ∧ h.v = old.v ∧ h.q = old.q ∧
           nb.src = (if ds then old.slot.bind Slot.src else none) ∧ (∀ r, h.latencyMet false r ∧ h.latencyMet true r)
       let goes (h : Hart) (pc : Word) (ds as0 : Bool) : Prop :=
         let t := targetLevel cause old.lvl
         (¬ (t = .k ∧ old.lvl = .k) → entered h t (old.bank t) cause val info pc as0 ds ∧ (t ≠ .k → h.kb = old.kb) ∧ (t ≠ .f → h.fb = old.fb)) ∧
         (t = .k → old.lvl = .k → old.kb.nest = false → entered h .k old.kb cause val info pc as0 ds ∧ h.kb.nest = true ∧ h.shadow = some old.kb ∧ h.fb = old.fb) ∧
         (t = .k → old.lvl = .k → old.kb.nest = true → entered h .f old.fb 0x54 val (w64 cause) pc false ds ∧ h.kb = old.kb)
       goes (s.trap cause val info).hart old.pc old.slot.isSome false ∧
       (∀ sl, old.slot = some sl → ((s.trap cause val info).hart.bank (s.trap cause val info).hart.lvl).ebt = sl.target) ∧
       goes (s.trapAfter cause val info asy epc).hart epc false asy) ∧
     (∀ l, targetLevel 0x06 .u = .k ∧ targetLevel 0x06 .k = .f ∧ targetLevel 0x06 .f = .f ∧ targetLevel 0x51 l = .f ∧ targetLevel 0x54 l = .f ∧
       ∀ c, c ≠ 0x06 → c ≠ 0x51 → c ≠ 0x54 → targetLevel c l = if l = .f then .f else .k)) ∧
  (∀ (s : State) (n : Fin 4), s.hart.slot = none →
     (s.hart.lvl = .u → Traps s (.eret n) 0x04 (insnWord (.eret n)) 0) ∧
     (s.hart.lvl ≠ .u → ∃ t, exec (.eret n) s = .next t ∧
       let b := s.hart.bank s.hart.lvl
       t.hart.pc = b.epc ∧ t.hart.slot = (if b.ds then some { target := b.ebt, src := b.src } else none) ∧ t.hart.c = s.hart.c ∧ t.hart.v = s.hart.v ∧
         t.hart.q = s.hart.q ∧ SameMem s t ∧
         (¬ (s.hart.lvl = .k ∧ b.nest = true) → t.hart.lvl = b.ppl ∧ t.hart.bank s.hart.lvl = { b with ie := b.pie } ∧ t.hart.shadow = s.hart.shadow) ∧
         (∀ o, s.hart.lvl = .k → b.nest = true → s.hart.shadow = some o →
           t.hart.lvl = .k ∧ t.hart.kb = { o with nest := false, vec := b.vec, base := b.base } ∧ t.hart.shadow = none)))

/-- R352 to R354: the replay instructions complete in the phases R352 gives them, once the hart's engine operations and stores are done:
BEGIN and AGAIN open a pass after the resets of REPLAYCTL, AGAIN over the restored pages; END answers the signature, and keeps it of pass 1
and compares it later; DONE closes. In another phase they trap with HANDLE_STATE, REASON 13. The model's own choices in it: log 31. -/
def Obligations.ReplayCompletes : Prop :=
  ∀ (s : State) (n : Fin 4) (a : CReg), s.may (.perm 4) →
    let r := s.hart.rep
    let wrong (i : Instr) : Prop := Traps s i 0x22 0 0xD00
    let opened (t : State) : Prop :=
      t.hart.rep.phase = 1 ∧ t.hart.rep.count = 0 ∧ t.hart.rep.crc = 0xFFFFFFFF ∧ (r.rsttlb = true → ∀ e ∈ t.m.tlb, ∀ x ∈ e.2, x.2.ctx ≠ s.hart.ctx) ∧
        (r.rstl2 = true → ∀ e ∈ t.m.l2, e.1 / 0x800000 / 64 ≠ s.die) ∧ (r.rstl2 = false → r.pages = [] → t.m.l2 = s.m.l2)
    (r.phase ≠ 0 → wrong (.replayBegin n)) ∧ (r.phase ≠ 2 → wrong (.replayAgain n)) ∧ (r.phase ≠ 1 → wrong (.replayEnd n a)) ∧
    (r.phase = 0 → wrong (.replayDone n)) ∧
    (r.en = true → r.backed = true →
      (r.phase = 0 → s.EnginesIdle → s.hart.sb = [] → s.hart.posted = [] → s.hart.pair.held = [] →
        Done s (.replayBegin n) fun t => opened t ∧ t.hart.rep.pass = 1 ∧ t.hart.rep.pages = [] ∧ t.hart.rep.mismatch = false ∧ t.hart.rep.ovf = false ∧ SameMem s t) ∧
      (r.phase = 2 → s.EnginesIdle → s.hart.sb = [] → s.hart.posted = [] → s.hart.pair.held = [] →
        Done s (.replayAgain n) fun t => opened t ∧ t.hart.rep.pass = r.pass + 1 ∧ t.hart.rep.pages = r.pages ∧
          SameMem (r.pages.zipIdx.foldl (fun s p => s.restorePage s.cur p.2 p.1) s) t) ∧
      (r.phase = 1 → Gives s (.replayEnd n a) a (r.signature.setWidth 64) fun t => SameMem s t ∧ t.hart.rep.phase = 2 ∧ t.hart.rep.pages = r.pages ∧
        (r.pass = 1 → t.hart.rep.sig = r.signature ∧ t.hart.rep.mismatch = r.mismatch) ∧
        (r.pass ≠ 1 → t.hart.rep.sig = r.sig ∧ t.hart.rep.mismatch = (r.mismatch || r.sig != r.signature))) ∧
      (r.phase = 1 ∨ r.phase = 2 → Done s (.replayDone n) fun t => t.hart.rep.phase = 0 ∧ t.hart.rep.pages = [] ∧ SameMem s t))

/-- R347, R393 to R395, R402: PAIR.ON answers 1 where the other core of the pair runs no hart of the gang, and 0 on the even core once both have
come, with which the paired stream begins and the odd core is parked; PAIR.OFF ends the stream and gives the odd core its state back. A WAKE
of the stream enters the held buffer, and its mask leaves once the interval has matched, after the stores held before it. An
exchange that agrees commits what is held and begins the next interval; one that does not goes back to the checkpoint, control registers
and all. The model's own choices in it: logs 22, 23. -/
def Obligations.PairingCompletes : Prop :=
  ∀ (s : State) (n : Fin 4) (a : CReg),
    let other := s.cur ^^^ 1
    let p := s.hart.pair
    (s.miller = true → Traps s (.pairOn n a) 0x00 (insnWord (.pairOn n a)) 0x400) ∧
    (s.miller = false → s.may (.perm 3) → p.result = none → p.on = false →
      ((s.hartAt other).gang ≠ s.hart.gang ∨ (s.hartAt other).place = .idle ∨ (s.hartAt other).place = .halted →
        Gives s (.pairOn n a) a 1 fun t => t.hart.pair.on = false ∧ SameMem s t) ∧
      ((s.hartAt other).gang = s.hart.gang → (s.hartAt other).place = .placed → (s.hartAt other).pair.waiting = true → s.cur % 2 = 0 →
        Gives s (.pairOn n a) a 0 fun t => t.hart.pair.on = true ∧ (t.hartAt other).place = .parked ∧ (tget? t.m.parkedPair other).isSome = true ∧
          (tget? t.m.checkpoint s.cur).isSome = true ∧ SameMem s t) ∧
      ((s.hartAt other).gang = s.hart.gang → (s.hartAt other).place = .placed → (s.hartAt other).pair.waiting = false →
        ∃ t, exec (.pairOn n a) s = .next t ∧ t.hart.pc = s.hart.pc ∧ t.hart.waiting = true ∧ t.hart.pair.waiting = true)) ∧
    (∀ r, s.miller = false → s.may (.perm 3) → p.result = some r → p.on = false → Gives s (.pairOn n a) a (w64 r) fun t => t.hart.pair.result = none ∧ SameMem s t) ∧
    (s.may (.perm 3) → p.on = false → Passes s (.pairOff n)) ∧
    (∀ o, s.may (.perm 3) → p.on = true → p.flushing = false → tget? s.m.parkedPair other = some o →
      let parted (sb : List SbEntry) : Prop :=
        Done s (.pairOff n) fun t => t.hart.pair.on = false ∧ t.hart.sb = sb ∧ (t.hartAt other).place = .placed ∧ (t.hartAt other).pc = o.pc ∧
          (t.hartAt other).c = o.c ∧ tget? t.m.parkedPair other = none ∧ SameMem s t
      (p.off = false → p.inject = false → p.differs = false → p.acts = [] → parted (s.hart.sb ++ p.held)) ∧
      (p.off = true → parted s.hart.sb) ∧
      (p.off = false → p.inject = false → p.differs = false → p.acts ≠ [] →
        ∃ t, exec (.pairOff n) s = .next t ∧ t.hart.pc = s.hart.pc ∧ t.hart.waiting = true ∧ t.hart.pair.off = true ∧ t.hart.pair.flushing = true ∧ SameMem s t)) ∧
    (∀ b : CReg, s.ReadsC [a, b] → p.on = true → (s.ra a).toNat < s.hart.size →
      Done s (.wake n a b) fun t => SameMem s t ∧ t.m.wakes = s.m.wakes ∧ t.hart.pair.held = p.held ∧
        t.hart.pair.acts = p.acts ++ [(p.held.length, .wake { hart := s.coreOfLogical s.cur (s.ra a).toNat, mask := s.ra b })]) ∧
    (∀ k x rest, p.acts = (k, .wake x) :: rest → (∀ c ∈ s.hart.cpq, c.inL1 = false) →
      (∀ e ∈ s.hart.sb ++ p.held.take k ++ s.hart.posted, (if dieOf x.hart = s.die then 1 else 2) < e.scope) →
      s.heldTurn.m.wakes = s.m.wakes ++ [x] ∧ s.heldTurn.hart.sb = s.hart.sb ++ p.held.take k ∧ s.heldTurn.hart.pair.held = p.held.drop k ∧
        s.heldTurn.hart.pair.acts.length = rest.length) ∧
    (∀ core, core < 4352 →
      let h := s.hartAt core
      h.place = .placed → h.pair.on = true → h.pair.due = true → h.pair.flushing = false → h.slot = none →
      (h.pair.inject = false → h.pair.differs = false → h.pair.acts ≠ [] → Acts s (.fingerprintExchange core) fun t => SameMem s t ∧
        (t.hartAt core).pair.flushing = true ∧ (t.hartAt core).pair.acts = h.pair.acts ∧ (t.hartAt core).pair.held = h.pair.held) ∧
      (h.pair.inject = false → h.pair.differs = false → h.pair.acts = [] → Acts s (.fingerprintExchange core) fun t => SameMem s t ∧
        let g := t.hartAt core
        g.sb = h.sb ++ h.pair.held ∧ g.pair.held = [] ∧ g.pair.notes = [] ∧ g.pair.due = false ∧ g.pair.mat = min (h.pair.mat + 1) 0xFFFFFFFF ∧ g.pc = h.pc ∧ g.c = h.c) ∧
      (∀ o, h.pair.inject = true ∨ h.pair.differs = true → h.pair.run = 0 → tget? s.m.checkpoint core = some o → Acts s (.fingerprintExchange core) fun t => SameMem s t ∧
        let g := t.hartAt core
        g.sb = h.sb ∧ g.pair.held = [] ∧ g.pair.acts = [] ∧ g.pc = o.pc ∧ g.c = o.c ∧ g.v = o.v ∧ g.ctl = o.ctl ∧ g.id = o.id ∧ g.pair.run = 1 ∧ g.pair.mism = min (h.pair.mism + 1) 65535))

/-! ## Events: registers that units hold, and the memory system (01 R19, R32 to R39; 02 R45 to R63; 03 R75 to R84; 04 R89, R90) -/

/-- R38, R39, R32: a write of TLBINV or PTROOT, no shootdown being under way, takes the translations it names out of every TLB and
begins a shootdown; each unit's acknowledgement takes it out of the fetch micro-TLB of its hart, and the last one ends the
shootdown. R19, R184, R422, R387, R384, R372: writes of L1RTVAL, TQCFG, LDREQ, WDMAP and ACK, and an external interrupt,
have their effect; a withdrawal clears only from level F or the host. R340: once TIME has reached TIMECMP of a hart, TIMER (0x53) is
pending for it, whose clock catches up by whole cycles. R392: ROLLCMD changes nothing for a gang that is not POISONED; of one that is,
it makes a gang to be restored from its snapshots, or discards it where the undo area has an error.
The model's own choices in it: logs 5, 44, 53. -/
def Obligations.ShootdownsAndUnitRegisters : Prop :=
  (∀ (s : State) (ctx page count unit : Nat) (v : Word),
     let begun (i : Instr) (gone : TlbE → Prop) (P : State → Prop) : Prop :=
       Acts s i fun t => SameMem s t ∧ t.hart = s.hart ∧ (∀ e ∈ t.m.tlb, ∀ x ∈ e.2, ¬ gone x.2) ∧
         (∃ x, t.m.shoot = some x ∧ ∀ u, u < 5888 → u ∈ x.units) ∧ P t
     (s.m.shoot = none →
       begun .tlbinvAll (fun _ => True) (fun _ => True) ∧
       (ctx < 16 →
         begun (.tlbinvContext ctx) (fun x => x.ctx = ctx) (fun _ => True) ∧
         begun (.tlbinvPages ctx page count)
           (fun x => x.ctx = ctx ∧ (if x.block then page / 8192 ≤ x.vpn ∧ x.vpn ≤ (page + count) / 8192 else page ≤ x.vpn ∧ x.vpn ≤ page + count)) (fun _ => True) ∧
         begun (.ptrootWrite ctx v) (fun x => x.ctx = ctx)
           (fun t => (t.ctx ctx).ptEn = v.getLsbD 0 ∧ (t.ctx ctx).ptTable.toNat = bits v.toNat 47 16))) ∧
     (∀ x, s.m.shoot = some x → unit ∈ x.units → unit < 5888 →
       (unit < 768 → ∀ o ∈ s.m.ops, o.1 / 32 = unit → o.2.restMeta = [] ∧ ∀ d ∈ o.2.dels, d.rest = []) →
       (1280 ≤ unit → unit < 1536 → let h := s.hartAt (4096 + (unit - 1280)); h.sb = [] ∧ h.posted = [] ∧ h.entering = none) →
       Acts s (.shootdownAck unit) fun t => SameMem s t ∧
         ((∀ u ∈ x.units, u = unit) → t.m.shoot = none) ∧
         ((∃ u ∈ x.units, u ≠ unit) → ∃ y, t.m.shoot = some y ∧ y.what = x.what ∧ ∀ u, u ∈ y.units ↔ u ∈ x.units ∧ u ≠ unit) ∧
         (1536 ≤ unit → ∀ e ∈ (t.hartAt (unit - 1536)).utlb, x.what.hits e = false))) ∧
  (∀ (s : State) (ctx idx hd gang unit core : Nat) (v line : Word) (atF : Bool) (w : BitVec 512),
     (ctx < 16 → idx < 32 → Acts s (.l1rtvalWrite ctx idx v) fun t => tget 0 (t.ctx ctx).regions idx = v &&& 0xFFFFFF1F ∧ SameMem s t) ∧
     (ctx < 16 → hd < 4 → (s.taskQ ctx hd).l1 = [] → (s.taskQ ctx hd).ring = [] →
       Acts s (.tqcfgWrite ctx hd v) fun t => (t.taskQ ctx hd).cfg = v.setWidth 48 ∧ SameMem s t) ∧
     (ctx < 16 → s.wanted ctx (line &&& ~~~(0x3F#64)) = true →
       Acts s (.ldreqWrite ctx line) fun t => (∃ r, t.m.ldreqs = s.m.ldreqs ++ [r] ∧ r.ctx = ctx ∧ r.line = line &&& ~~~(0x3F#64)) ∧ SameMem s t) ∧
     (Acts s (.wdmapWrite atF w) fun t => SameMem s t ∧ ∀ i, i < 512 → (t.tray i).wd = (w.getLsbD i || ((s.tray i).wd && !atF))) ∧
     (Acts s (.rollcmdWrite gang) fun t => (∀ g, s.gang? (gang % 4096) = some g → g.st ≠ .poisoned → t = s) ∧
       (∀ g r, s.gang? (gang % 4096) = some g → g.roll = some r → g.st = .poisoned → s.undoBad g r = none →
         ∃ g', t.gang? (gang % 4096) = some g' ∧ g'.st = .rollRestoring ∧ g'.saved = r.cur) ∧
       (∀ g r pa, s.gang? (gang % 4096) = some g → g.roll = some r → g.st = .poisoned → s.undoBad g r = some pa → t.gang? (gang % 4096) = none)) ∧
     (unit ≤ 0x51B → Acts s (.errorBankAck unit v) fun t => SameMem s t ∧
       let b := tget {} s.m.banks unit
       let b' := tget {} t.m.banks unit
       (bits v.toNat 15 0 = b.seq → b'.first = b.first.map (fun r => { r with v := false }) ∧ b'.latest = b.latest.map (fun r => { r with v := false }) ∧
         b'.count = 0 ∧ b'.overflow = false) ∧
       (bits v.toNat 15 0 ≠ b.seq → b' = { b with nack := true })) ∧
     (core < 4352 → Acts s (.external core) fun t => (t.hartAt core).ext = true ∧ SameMem s t) ∧
     (core < 4352 → (s.hartAt core).place = .placed → (s.hartAt core).ctl.timecmp ≤ s.time →
       let k := (s.m.now - (s.hartAt core).clock) / cycleUnits (s.coreStep core)
       ∃ t, exec (.timer core) s = .next t.tickEvent ∧ SameMem s t ∧ t.time = s.time ∧ (∃ a ∈ (t.hartAt core).pending t.time, a.cause = 0x53) ∧
         (t.hartAt core).clock = (s.hartAt core).clock + k * cycleUnits (s.coreStep core) ∧ (t.hartAt core).cyc = (s.hartAt core).cyc + k))

/-- R89, R90, R95, R60, R23: the oldest entry of a store buffer leaves it: a die-local one is performed, a release only once every earlier
store is acknowledged; one elsewhere is posted, and one to an address that answers nothing then is reported. What is performed clears the tags of the
granules written, but for a capability store, which sets its own. A posted store that no older one
overlaps, a release once it is the oldest, is performed at its target, refused there with a report, or times out with one. The model's
own choices in it: logs 10, 60: a turn that splits nothing performs an entry whole. -/
def Obligations.StoresLeaveAndArrive : Prop :=
  ∀ (s : State) (core i : Nat) (e : SbEntry), core < 4352 → s.MemWf →
    let h := s.hartAt core
    -- the bytes of the entry are in memory, and all others as they were
    let written (t : State) : Prop :=
      (∀ c ∈ e.cells, mget t.m.mem c.1 = c.2) ∧ (∀ k, (∀ c ∈ e.cells, c.1 ≠ k) → mget t.m.mem k = mget s.m.mem k) ∧
      ∀ k, t.tagAt k = if (∃ c ∈ e.cells, c.1 / 16 = k / 16) then e.cap && e.tag && k / 16 == (e.cells.headD (noKey, 0)).1 / 16 else s.tagAt k
    let plain := (e.cells.map (·.1)).Nodup ∧ (∀ c ∈ e.cells, isL1 c.1 = true ∨ isHbm c.1 = true) ∧ e.pass = false ∧ e.done = 0 ∧
      s.splits = [] ∧ s.entryWaits e = false ∧ (s.entryFills e).2 = true ∧ ∀ g ∈ s.m.gangs, g.2.roll = none
    (∀ rest, h.sb = e :: rest →
      (e.scope = 1 → (e.rel = true → h.posted = []) → (e.device = true → h.posted.any SbEntry.device = false) → plain →
        Acts s (.storeBufferDrain core) fun t => written t ∧ (t.hartAt core).sb = rest ∧ (t.hartAt core).posted = h.posted) ∧
      (e.scope ≠ 1 → s.answers e = true →
        Acts s (.storeBufferDrain core) fun t => SameMem s t ∧ (t.hartAt core).sb = rest ∧ (t.hartAt core).posted = h.posted ++ [e]) ∧
      (e.scope ≠ 1 → s.answers e = false →
        Acts s (.storeBufferDrain core) fun t => SameMem s t ∧ (t.hartAt core).sb = rest ∧ (t.hartAt core).posted = h.posted ∧
          ∃ a, (t.hartAt core).asy = h.asy ++ [a] ∧ a.cause = 0x1A ∧ a.val = e.va)) ∧
    (h.posted[i]? = some e → (e.rel = true → i = 0) → (∀ o ∈ h.posted.take i, o.overlaps (e.cells.map (·.1)) = false ∧ (o.device && e.device) = false) →
      s.overdue e = false →
      (s.lockHit (e.cells.map (·.1)) = none → s.answers e = true → plain →
        Acts s (.remoteResponse core i) fun t => written t ∧ (t.hartAt core).posted = h.posted.eraseIdx i) ∧
      (∀ n reason hd, e.done = 0 → s.lockHit (e.cells.map (·.1)) = some (n, reason, hd) →
        Acts s (.remoteStoreRefused core i) fun t => SameMem s t ∧ (t.hartAt core).posted = h.posted.eraseIdx i ∧
          ∃ a, (t.hartAt core).asy = h.asy ++ [a] ∧ a.cause = 0x19 ∧ a.val = e.va)) ∧
    (h.posted[i]? = some e →
      (e.limit ≠ 0 → e.issued + e.limit * (256 * mclkUnits) ≤ s.m.now → (∀ c ∈ e.cells, isDev c.1 = false) →
        Acts s (.remoteTimeout core i) fun t => (t.hartAt core).posted = h.posted.eraseIdx i ∧
          ∃ a, (t.hartAt core).asy = h.asy ++ [a] ∧ a.cause = 0x1A ∧ a.val = e.va))

/-- R46 to R48, R53, R58, R33: a bank grants a request that stands at it alone, performs it, moves its pointer behind it and answers a
read with what its bytes were; a plain load and a plain store of one word are granted together, and the load gets what the word was. An
access of the host or of a peer
is performed where no range-lock entry refuses it and no landing entry holds it up, and refused with an event to the host otherwise; a walk
installs the leaf it finds. The model's own choices in it: logs 9, 49. -/
def Obligations.BanksAndPeersServe : Prop :=
  ∀ (s s1 : State) (hd die ctx : Nat) (r : BankReq) (p : PeerReq) (va : Word) (acc : AccKind) (e : TlbE) (x : Nat), s.MemWf →
    let noGang := ∀ g ∈ s.m.gangs, g.2.roll = none
    let stored (t : State) (keys : List Nat) (v : Nat) : Prop :=
      ∀ k, mget t.m.mem k = if k ∈ keys then BitVec.ofNat 8 (v / 256 ^ keys.idxOf k) else mget s.m.mem k
    (hd < 4 → r.input < 11 → r.off + r.n ≤ 0x4000000 → r.valid = true → r.up = [] → noGang →
      let keys := (List.range r.n).map fun i => l1Key hd (r.off + i)
      let old := joinBytes (keys.map s.byteAt)
      let granted (t : State) : Prop := tget 0 (t.hearth hd).arb (bits r.off 15 3) = (r.input + 1) % 11
      let bank := bits r.off 15 3
      ((r.op = .load ∨ r.op = .capLoad) →
        Acts s (.bankGrant hd [r]) fun t => granted t ∧ SameMem s t ∧ tget [] (t.hearth hd).answers bank = [(r.input, old)]) ∧
      (∀ w : BankReq, r.op = .load → w.op = .store x → w.valid = true → w.up = [] → w.input < 11 → w.input ≠ r.input → w.off / 8 = r.off / 8 →
        Acts s (.bankGrant hd [r, w]) fun t => tget [] (t.hearth hd).answers bank = [(r.input, old)] ∧
          stored t ((List.range w.n).map fun i => l1Key hd (w.off + i)) x) ∧
      (r.op = .store x → Acts s (.bankGrant hd [r]) fun t => granted t ∧ stored t keys x) ∧
      (∀ c, r.op = .amo c x → Acts s (.bankGrant hd [r]) fun t => granted t ∧ stored t keys (amoNew c r.n old x)) ∧
      (∀ y, r.op = .cas y x → Acts s (.bankGrant hd [r]) fun t => granted t ∧ if old = y % 2 ^ (8 * r.n) then stored t keys x else SameMem s t) ∧
      (∀ (y : BitVec 128) tag, r.op = .capStore y tag → Acts s (.bankGrant hd [r]) fun t => granted t ∧ stored t keys y.toNat ∧ t.tagAt (l1Key hd r.off) = tag)) ∧
    (∀ keys, peerValid p = true → peerKeys p s.m = some keys → noGang → (∀ k ∈ keys, isL1 k = true ∨ isHbm k = true) → keys.Nodup →
      (∀ n reason h, peerWrites p = true → p ∉ s.m.peerRest → s.lockHit keys = some (n, reason, h) →
        Acts s (.peerAccess p) fun t => SameMem s t ∧ ∃ m, t.m.host.out = s.m.host.out ++ [m] ∧ m.event = true ∧ m.body.headD 0 = 0x19) ∧
      ((peerWrites p = true → s.lockHit keys = none) →
        (peerReads p = true → s.marks keys = .pass ∧ ((s.scrub keys).channelRead .other s.m.now keys (p.op != .load) true).2 = true) →
        (peerReads p = false → s.writeWaits keys false true = false) →
        (p.op = .load → p ∉ s.m.peerRest → Acts s (.peerAccess p) (SameMem s)) ∧
        (p.op = .store x → s.splits = [] → s.m.peerRest = [] → (∀ k ∈ keys, isHbm k = true → (s.chan (keyCh k)).reads = []) →
          Acts s (.peerAccess p) fun t => stored t keys x) ∧
        (∀ c, p.op = .amo c x → p ∉ s.m.peerRest → Acts s (.peerAccess p) fun t => stored t keys (amoNew c p.n (joinBytes (keys.map s.byteAt)) x)))) ∧
    (die < 4 → ctx < 16 → inSpan va = false →
      translate s .other s.m.now die ctx va (match acc with | .load => { rd := true } | .store => { wr := true } | .fetch => { x := true }) = .ok (s1, e) →
      Acts s (.pageWalk die ctx va acc) fun t => t = s1 ∧ (tlbFind t.m die ctx (a55 va)).isSome = true)

/-! ## Events: engines (02 R63; 05 R112, R123, R127, R128; 12 R262, R273) -/

/-- R63, R262, R112, R123, R127, R128, R23: an entry becomes active once no earlier store to its range is left; the command at the head of a copy
queue begins as an operation; a piece lands at its destination, clearing the tags of the granules it writes, and the watermark follows it; the
landed operation ends and its slot is FULL; a buffer-free message counts the next tile once every receiver has freed it; a read stream fetches
its next strip. The model's own choices in it: logs 13, 18, 60. -/
def Obligations.EnginesWork : Prop :=
  ∀ (s s1 s2 : State) (hd i core opn : Nat), hd < 4 → core < 4352 → opn < 0x6000 →
    (∀ e, i < 256 → tget? (s.hearth hd).locks i = some e → e.active = false → s.quiet hd e.range = true →
      Acts s (.rangeLockActivate hd i) fun t => tget? (t.hearth hd).locks i = some { e with active := true } ∧ SameMem s t) ∧
    (∀ e, i < 256 → tget? (s.hearth hd).lands i = some e → e.active = false → s.quiet hd e.range = true →
      Acts s (.rangeLockActivate hd (256 + i)) fun t => tget? (t.hearth hd).lands i = some { e with active := true } ∧ SameMem s t) ∧
    (i < 1024 → i ∈ (s.hearth hd).stale →
      Acts s (.filterBitClear hd i) fun t => i ∉ (t.hearth hd).filter ∧ i ∉ (t.hearth hd).stale ∧ SameMem s t) ∧
    (∀ c rest plans, (s.hartAt core).cpq = c :: rest → s.plans c = some plans →
      (c.it.total = 0 → Acts s (.engineOpBegin core) fun t => (t.hartAt core).cpq = rest ∧ SameMem s t) ∧
      (c.it.total ≠ 0 →
        let dsts := plans.flatMap (·.segs) ++ s.metaSegs c
        c.pass = false → s.busy (fun _ => false) (s.srcSegs c) dsts = false → s.freeOpn core = some opn → s.entriesFree (s.srcSegs c ++ dsts) dsts = true →
        (∀ e ∈ (s.hartAt core).sb, e.scope ≠ 1) →
        Acts s (.engineOpBegin core) fun t => (t.hartAt core).cpq = rest ∧
          ∃ o, tget? t.m.ops opn = some o ∧ o.cmd = c ∧ o.stream = false ∧ o.dels.length = plans.length ∧
            ∀ d ∈ o.dels, d.done = 0 ∧ d.count = 0 ∧ d.final = false ∧ d.frozen = false)) ∧
    (∀ o d b keys mt, tget? s.m.ops opn = some o → o.stream = false → o.dels = [d] → d.final = false → d.frozen = false → o.paused = false →
      o.aborted = false → o.cmd.xf = 0 → o.cmd.fac = false → d.part = 0 → s.splits = [] → s.pausedByMove opn = false →
      (d.done < o.cmd.it.total → s.allActive (o.srcLocks ++ d.locks) (d.lands ++ o.metaLands) = true →
        let len := o.pieceLen d
        s.engReads (o.cmd.agent (some opn)) (o.cmd.srcRuns d.done len) = .ok (s1, b) →
        s1.pieceKeys (o.cmd.agent (some opn)) d (o.cmd.it.runs o.cmd.it.d1 o.cmd.it.d2 len d.done len) = .ok (s2, keys, mt) →
        s2.MemWf → s2.writeWaits keys false (mt == 0) = false → keys.Nodup → b.length = keys.length → (∀ k ∈ keys, isL1 k = true ∨ isHbm k = true) → (∀ g ∈ s.m.gangs, g.2.roll = none) →
        Acts s (.enginePieceLand opn 0) fun t =>
          (∀ k, mget t.m.mem k = if k ∈ keys then b.getD (keys.idxOf k) 0 else mget s2.m.mem k) ∧ ClearsTags s2 t keys ∧
          ∃ o' d', tget? t.m.ops opn = some o' ∧ o'.dels = [d'] ∧ d'.done = d.done + len ∧ d'.count = countOf o.cmd.it d.mode (d.done + len)) ∧
      (o.cmd.it.total ≤ d.done →
        (d.slot = none → Acts s (.landingComplete opn 0) fun t => tget? t.m.ops opn = none ∧ SameMem s t) ∧
        (∀ r x, d.slot = some r → r.hearth < 4 → r.handle < 1024 → s.slot? r = some x → x.st = .filling → x.clm = false → x.popped = false →
          Acts s (.landingComplete opn 0) fun t => tget? t.m.ops opn = none ∧ SameMem s t ∧ ∃ y, t.slot? r = some y ∧ y.st = .full ∧ y.start = x.start))) ∧
    (∀ h, i < 1024 → s.handle? (hd * 1024 + i) = some h → h.trays ≠ [] →
      ((∀ tr ∈ h.trays, (tr, h.told) ∈ h.freed) →
        Acts s (.bufferFreeMessage hd i) fun t => SameMem s t ∧ ∃ h', t.handle? (hd * 1024 + i) = some h' ∧ h'.mbox = h.mbox + 1 ∧
          h'.told = h.told + 1 ∧ ∀ tr n, (tr, n) ∈ h'.freed ↔ (tr, n) ∈ h.freed ∧ n ≠ h.told) ∧
      (∀ tr ∈ h.trays, (tr, h.told) ∉ h.freed → exec (.bufferFreeMessage hd i) s = .next s)) ∧
    (∀ (v : VReg) x o b, tget? (s.hartAt core).streams v.val = some x → x.opn = opn → tget? s.m.ops opn = some o → o.write = false → o.frozen = false →
      o.paused = false → o.aborted = false → s.allActive o.srcLocks (o.dels.flatMap (·.lands)) = true → s.pausedByMove opn = false → s.splits = [] → o.strips.length < 4 → o.fetched < o.stripCount →
      s.engReads (o.cmd.agent (some opn)) (o.cmd.srcRuns (64 * o.fetched) (min 64 (o.cmd.it.total - 64 * o.fetched))) = .ok (s1, b) →
      Acts s (.streamRefill core v) fun t => SameMem s1 t ∧
        ∃ o', tget? t.m.ops opn = some o' ∧ o'.strips = o.strips ++ [BitVec.ofNat 512 (joinBytes b)] ∧ o'.fetched = o.fetched + 1)

/-! ## Events: the matrix unit and the Kneader (12 R286 to R299; 13 R300 to R310; 06 R149; 17 R404) -/

/-- R300, R301: a command enters the window while it holds fewer than eight; with CMASK clear it may dispatch at once, else it
stays eligible unless a rule rewrites; a window whose oldest command is 64 cycles old flushes. R302, R304, R306 to R308: a rule that matches the
newest commands and forms puts in their place its replacements, each with the kind and the fields of its base but for its overrides, and the
counters tell it; without a permit it counts a denial. R286, R291, R293, R296, R299: the front
command of a queue claims the head slot of its operand's ring, and leaves for the array once it holds its slots, MX.UPROG with its
image stored and a transpose with its TAIL slot; a Tray's grant of a tile step goes in rotation; R149, R287: a block of MX.MMA adds its group sums
to its accumulators, MX.TRN takes each element from its place in the source, MX.SCALE multiplies each; with every part done the command retires
in its queue's order, each element of its result written back at its place, its sequence number and its token made known; a faulted one ends with
FLT. R404: a ballast step, which a unit without a runnable tile step takes while the current would fall too fast, charges energy only.
The model's own choices in it: logs 5, 19, 21, 47. -/
def Obligations.KneaderWindowsAndMatrixCommandsRun : Prop :=
  (∀ (s : State) (core : Nat) (c : MxCmd), core < 4096 →
     let x := (s.hartAt core).mx
     let tray := s.tray (trayOf core)
     (x.queue.find? (·.stage == .queued) = some c → x.window.length < 8 →
       (tray.cmask.getLsbD (core % 8) = false → Acts s (.kneaderEntry core) fun t => SameMem s t ∧
         ∃ d ∈ (t.hartAt core).mx.queue, d.stamp = c.stamp ∧ d.stage = .ready ∧ d.enteredAt = s.m.now) ∧
       (tray.cmask.getLsbD (core % 8) = true → tray.rmask = 0 → (∀ d ∈ x.queue, d.stage = .queued → d.stamp = c.stamp) →
         Acts s (.kneaderEntry core) fun t => SameMem s t ∧
           ∃ d ∈ (t.hartAt core).mx.queue, d.stamp = c.stamp ∧ d.stage = .eligible ∧ d.enteredAt = s.m.now)) ∧
     (∀ rest, x.window = c :: rest → (∃ d ∈ x.window, d.stage = .eligible) → c.enteredAt + 64 * mclkUnits ≤ s.m.now →
       Acts s (.kneaderAgeFlush core) fun t => SameMem s t ∧ (∀ d ∈ (t.hartAt core).mx.queue, d.stage ≠ .eligible) ∧
         (t.hartAt core).mx.age = min (x.age + 1) 65535)) ∧
  (∀ (s : State) (core idx : Nat) (c : MxCmd) (win : List MxCmd), core < 4096 → idx < 64 →
     let x := (s.hartAt core).mx
     let tray := s.tray (trayOf core)
     let r := tray.rule idx
     let c' : MxCmd := { c with stage := .eligible, enteredAt := s.m.now }
     let s' := s.modHart core fun h => { h with mx := { h.mx with queue := win ++ [c'] } }
     let w := (win ++ [c']).filter fun d => d.stage == .eligible || d.stage == .ready
     let run : Run := { before := w.take (w.length - rNpat r), s := w.drop (w.length - rNpat r) }
     let hit := knKinds r run && s'.knEqs core r run && s'.knPred core r run && s'.knConditions core r run
     x.queue = win ++ [c] → c.stage = .queued → (∀ d ∈ win, d.stage ≠ .queued) → (x.queue.map (·.stamp)).Nodup → x.window.length < 8 →
     tray.cmask.getLsbD (core % 8) = true → (∀ i < 64, tray.rmask.getLsbD i = decide (i = idx)) → rCls r ≠ 3 → rNpat r ≠ 0 →
     rNpat r ≤ (w.filter (·.stage == .eligible)).length →
     (hit = false ∨ s'.knForm core r idx run = none →
       Acts s (.kneaderEntry core) fun t => SameMem s t ∧ (t.hartAt core).mx = { x with queue := win ++ [c'] }) ∧
     (∀ l, hit = true → s'.knForm core r idx run = some l → knPermitted r run = false →
       Acts s (.kneaderEntry core) fun t => SameMem s t ∧ (t.hartAt core).mx = { x with queue := win ++ [c'], den := min (x.den + 1) 65535 }) ∧
     (∀ l, ruleBad r = none → hit = true → s'.knForm core r idx run = some l → knPermitted r run = true →
       Acts s (.kneaderEntry core) fun t => SameMem s t ∧
         let y := (t.hartAt core).mx
         y.queue.length + rNpat r = win.length + 1 + rReps r ∧ (∀ d ∈ run.before, d.kn = false → d ∈ y.queue) ∧
         (∃ d ∈ y.queue, d.kn = true ∧ d.seqs = run.s.flatMap (·.seqs)) ∧
         y.rw = min (x.rw + 1) 65535 ∧ y.absd = min (x.absd + rNpat r - rReps r) 65535 ∧ y.den = x.den ∧
         y.ex = (if rCls r = 0 then min (x.ex + 1) 65535 else x.ex) ∧ y.rd = (if rCls r = 1 then min (x.rd + 1) 65535 else x.rd) ∧
         y.ra = (if rCls r = 2 then min (x.ra + 1) 65535 else x.ra) ∧
         tget 0 (t.tray (trayOf core)).hits idx = min (tget 0 tray.hits idx + 1) 0xFFFFFFFF ∧
         ∀ i < rReps r, ∀ b, run.s[rBase r i]? = some b →
           let ovrs := (rOvrs r).filter fun o => bit o 0 == i
           ∃ d ∈ y.queue, d.kn = true ∧ d.rule = idx ∧ d.stage = .eligible ∧ d.kind = b.kind ∧
             (∀ f < 14, (b.kind = .mma ∨ f < 7 ∨ 9 < f) → (∀ o ∈ ovrs, bits o 4 1 ≠ f ∧ (f = 3 → bits o 4 1 ≠ 2)) → t.knField core [] d f = s'.knField core [] b f) ∧
             ((ovrs.map fun o => bits o 4 1).Nodup → (∀ o ∈ ovrs, bits o 4 1 ≠ 2) → ∀ o ∈ ovrs, (b.kind = .mma ∨ bits o 4 1 < 7 ∨ 9 < bits o 4 1) →
               (bits o 6 5 = 1 → t.knField core [] d (bits o 4 1) = s'.runField core run (bits o 8 7) (bits o 12 9)) ∧
               (bits o 6 5 = 3 → t.knField core [] d 10 = (s'.runField core run (rBase r i) 10).bind fun p =>
                 (s'.runField core run (bits o 8 7) 10).bind fun q => exactMul p q)))) ∧
  (∀ (s : State) (core : Nat) (c : MxCmd) (p : MxPart), core < 4096 →
     let part (t : State) (P : MxPart → Prop) : Prop := ∃ d ∈ (t.hartAt core).mx.queue, d.stamp = c.stamp ∧ ∃ q ∈ d.parts, P q
     s.frontPart core = some (core, c, p) → (s.hartAt core).mx.queue.head? = some c → c.parts = [p] → p.p = 0 → p.q = 0 → c.stage = .dispatched →
     c.fault = none → c.dead = false → p.done = false → p.frozen = false → s.allActive c.locks c.lands = true →
     s.pausedByMove (mxOwner core c.seq) = false → s.m.flips = [] →
     (∀ ra rb a b c0, c.kind = .mma → p.aSlot = some ra → p.bSlot = some rb → c.sp = false → c.up = 0 → c.fc = false → c.inj = none →
       let len := min 512 (c.k - p.kdone)
       let ks := (List.range len).map (p.kdone + ·)
       let m := c.pm 0
       let n := c.pn 0
       s.readOp core c.env c.afmt (c.shapeA 0).2 ra ((List.range m).flatMap fun i => ks.map fun k => if c.ta then (k, i) else (i, k)) = .ok a →
       s.readOp core c.env c.bfmt (c.shapeB 0).2 rb (ks.flatMap fun k => (List.range n).map fun j => if c.tb then (j, k) else (k, j)) = .ok b →
       (if c.acc && p.kdone == 0 then s.readC core c p else .ok []) = .ok c0 →
       ∃ t, s.coreStep1 core = some t ∧ SameMem s t ∧ part t fun q =>
         q.kdone = p.kdone + len ∧ q.done = decide (c.k ≤ p.kdone + len) ∧ ∀ i < m, ∀ j < n,
           let product (k : Nat) : CVal := cmul (mxGroup c.afmt == 4) (a.getD (i * len + (k - p.kdone)) (.fin false 0 0, .fin false 0 0))
             (b.getD ((k - p.kdone) * n + j) (.fin false 0 0, .fin false 0 0))
           let start := if p.kdone = 0 then (if c.acc then (c0.map (accInit (accFmt c.afmt) c.cfmt)).getD (i * n + j) 0 else 0) else p.acc.getD (i * n + j) 0
           q.acc.getD (i * n + j) 0 = (kGroups (min (mxGroupLen c.afmt) (mxGroupLen c.bfmt)) ks).foldl (fun acc g =>
             accAdd c.env (accFmt c.afmt) acc (sumVals c.env.rm (g.map fun k => (product k).1), sumVals c.env.rm (g.map fun k => (product k).2))) start) ∧
     (∀ (r : SlotRef) (b : Nat → List Byte), c.kind = .trn → p.aSlot = some r → s.trnSource c r = none →
       (∀ i < c.m, ∀ j < c.n,
         let offs := opBytes c.afmt c.n i j
         s.mxRead core (fun x => s.slotVa r (offs.getD x 0)) (offs.map (s.slotKey r)) = .ok (b (j * c.m + i))) →
       ∃ t, s.coreStep1 core = some t ∧ SameMem s t ∧ part t fun q =>
         q.done = true ∧ ∀ i < c.m, ∀ j < c.n, q.acc.getD (j * c.m + i) 0 = joinBytes ((b (j * c.m + i)).take (c.wC / 8))) ∧
     (∀ l, c.kind = .scale → s.readC core c p = .ok l →
       ∃ t, s.coreStep1 core = some t ∧ SameMem s t ∧ part t fun q =>
         q.done = true ∧ q.acc = l.map fun v => (wbElem c.env c.cfmt (fp32.dec c.scale.toNat) (opValue c.env c.cfmt 0 (splitBytes (c.wC / 8) v))).1)) ∧
  (∀ (s : State) (core tray i width : Nat) (c : MxCmd) (rest : List MxCmd), core < 4096 → tray < 512 → i < 8 → width < 4 →
     let x := (s.hartAt core).mx
     let front (t : State) (P : MxCmd → Prop) : Prop := ∃ d ∈ (t.hartAt core).mx.queue, d.stamp = c.stamp ∧ P d
     let gone (t : State) : Prop := ∀ d ∈ (t.hartAt core).mx.queue, d.stamp ≠ c.stamp
     (x.queue = c :: rest →
       (c.stage = .ready → (∀ e ∈ (s.hartAt core).sb, e.scope ≠ 1) → c.dead = false → c.fault = none → (∀ p ∈ c.parts, s.mxFront c.stamp p.core = true) →
         (c.kind = .scale → Acts s (.mxDispatch core) fun t => SameMem s t ∧ front t (·.stage = .dispatched)) ∧
         (c.kind = .uprog → Acts s (.mxDispatch core) fun t => SameMem s t ∧ front t (·.stage = .dispatched) ∧
           tget? (t.tray (trayOf core)).uprog c.up = some c.image) ∧
         (∀ p h r, c.kind = .mma → c.parts = [p] → p.core = core → p.done = false → p.frozen = false → p.aSlot = none →
           s.ownHandle (s.hartAt core).ctx (dieOf core * 1024 + c.ah) = some h → c.ah < 1024 → h.ring (h.keyFor core) = some r → (r.slot r.head).st = .full →
           Acts s (.mxDispatch core) fun t => SameMem s t ∧
             (front t fun d => ∃ p' ∈ d.parts, p'.aSlot = some { hearth := dieOf core, handle := c.ah, key := h.keyFor core, slot := r.head }) ∧
             ∃ h' r', t.handle? (dieOf core * 1024 + c.ah) = some h' ∧ h'.ring (h.keyFor core) = some r' ∧ r'.head = (r.head + 1) % max h.nslot 1) ∧
         (c.kind = .mma → (∀ p ∈ c.parts, p.aSlot.isSome = true ∧ p.bSlot.isSome = true ∧ s.mxDispatchFault core c p = none) →
           Acts s (.mxDispatch core) fun t => SameMem s t ∧ front t (·.stage = .dispatched)) ∧
         (c.kind = .trn → (∀ p ∈ c.parts, p.aSlot.isSome = true ∧ s.mxDispatchFault core c p = none) →
           (c.dh = 0x3FF → Acts s (.mxDispatch core) fun t => SameMem s t ∧ front t (·.stage = .dispatched)) ∧
           (∀ h r, c.dh < 0x3FF → c.pass = false → s.ownHandle (s.hartAt core).ctx (dieOf core * 1024 + c.dh) = some h →
             h.ring (h.keyFor core) = some r → (r.slot r.tail).st = .free →
             let seg := s.nearForm (dieOf core, h.range (h.keyFor core) (r.tail * h.slotsz) c.boxLen)
             s.entriesFree [seg] [seg] = true →
             Acts s (.mxDispatch core) fun t => SameMem s t ∧
               let ref : SlotRef := { hearth := dieOf core, handle := c.dh, key := h.keyFor core, slot := r.tail }
               (front t fun d => d.stage = .dispatched ∧ d.dstSlot = some ref) ∧ ∃ y, t.slot? ref = some y ∧ y.st = .filling))) ∧
       (c.stage = .dispatched → c.fault = none → c.dead = false → (∀ p ∈ c.parts, p.done = true) → s.allActive c.locks c.lands = true →
         (c.tok = true → x.tokens.length < 8) → c.seqs ≠ [] → s.splits = [] → s.pausedByMove (mxOwner core c.seq) = false →
         Acts s (.mxRetire core) fun t => SameMem (s.mxWriteback core c) t ∧ gone t ∧ (t.hartAt core).mx.seq = c.seqs.getLastD c.seq ∧
           ((t.hartAt core).mx.tokens = x.tokens ++ if c.tok then [c.token] else []) ∧
           ∀ (p : MxPart) (key : Nat → Nat), c.kind ≠ .uprog → c.parts = [p] → p.p = 0 → p.q = 0 → p.landed = 0 → c.m ≤ 64 → c.n ≤ 64 → 0 < c.wC → c.wC % 8 = 0 →
             s.destTile core c = none → s.MemWf → (∀ g ∈ s.m.gangs, g.2.roll = none) →
             (∀ o n, o + n ≤ c.boxLen → s.destKeys core c o n = (List.range n).map fun b => key (o + b)) →
             (∀ o < c.boxLen, isL1 (key o) = true) → (∀ o < c.boxLen, ∀ o' < c.boxLen, key o = key o' → o = o') →
             let w := c.wC / 8
             let written (k : Nat) : Prop := ∃ a < c.rows, ∃ b < c.cols * w, key (a * c.pitch + b) = k
             (∀ a < c.rows, ∀ j < c.cols, ∀ b < w,
               mget t.m.mem (key (a * c.pitch + j * w + b)) =
                 (splitBytes w (if c.kind = .mma then
                     (wbElem c.env c.cfmt (if c.up = 0 then fp32.dec c.scale.toNat else .fin false 1 0) (accValue (c.resultFmt p) (p.acc.getD (a * c.cols + j) 0))).1
                   else p.acc.getD (a * c.cols + j) 0)).getD b 0) ∧
             (∀ k, ¬ written k → mget t.m.mem k = mget s.m.mem k) ∧
             ∀ k, (∃ j, written j ∧ j / 16 = k / 16) → t.tagAt k = false) ∧
       (c.fault.isSome = true → (∀ p ∈ c.parts, p.done = true ∨ c.claimed p = true) → (∀ p ∈ c.parts, p.frozen = false) → c.kn = false → c.undo = [] →
         Acts s (.mxCommandFault core) fun t => SameMem s t ∧ gone t ∧ (t.hartAt core).mx.flt = true)) ∧
     (∀ s1, (s.tray tray).droop = none → s.coreStep1 (8 * tray + i) = some s1 →
       ((s.tray tray).credit ≠ 0 → (s.tray tray).arb = i →
         Acts s (.tileStep tray) fun t => SameMem s1 t ∧ (t.tray tray).arb = (s1.tray tray).arb ∧ (t.tray tray).credit = (s1.tray tray).credit - 1) ∧
       (∀ d, (s.tray tray).credit = 0 → d < 8 → i = ((s.tray tray).arb + 1 + d) % 8 →
         (∀ k < d, s.coreStep1 (8 * tray + ((s.tray tray).arb + 1 + k) % 8) = none) →
         Acts s (.tileStep tray) fun t => SameMem s1 t ∧ (t.tray tray).arb = i ∧ (t.tray tray).credit = (s.hartAt (8 * tray + i)).ctl.mxwgt.toNat - 1)) ∧
     (s.falling = true → (s.tray tray).droop = none → s.tileStep tray = none →
       Acts s (.ballastStep tray width) fun t => t = s.energyAt (8 * tray) 0x3A width ∧ SameMem s t ∧ t.hart = s.hart) ∧
     (s.falling = false → exec (.ballastStep tray width) s = .next s))

/-! ## Events: channels, power and heat (03 R75 to R84; 17 R402 to R408) -/

/-- R75 to R84: a read that its sector does not hold waits at the channel, and the fill makes the sector of its line valid, or
poisoned; a read that meets a refresh waits, and the end of the refresh adds the time to STALL; a refresh slot refreshes a bank while no read is pending, else owes one, and with eight owed refreshes every bank once
the reads have left. R402 to R408: a transition ends at its target step; a droop holds a Tray for DROOPHOLD cycles; at the end of
a window the cap lowers or raises CAPSTEP; a peer bounds SLKSTEP while it is throttled; at 95, 105 and 115 degrees a Tray's harts
are warned, its ceiling falls, and the module stops. The model's own choices in it: logs 5, 42, 46, 47. -/
def Obligations.ChannelsAndPowerFollowTheirRules : Prop :=
  (∀ (s : State) (ch l k : Nat) (bad far : Bool), ch < 256 → l + k ≤ 0x60000000 →
     let c : Chan := tget {} s.m.chans ch
     let chan (t : State) : Chan := tget {} t.m.chans ch
     let line := lineKey (hbmKey ch l)
     let sec := l / 64 % 4
     let key := hbmKey ch l / 64
     let pending : Prop := c.reads ≠ [] ∨ s.waitsAt ch s.m.mxStamp = true
     (k ≠ 0 → l % 64 + k ≤ 64 →
       (s.writeWaits (keysFrom (hbmKey ch l) k) false (!far) = false → Acts s (.l2Access ch l k true far) (SameMem s)) ∧
       ((∃ j < k, s.needsFill (hbmKey ch l + j) false = true) → s.bankHeld .other (hbmKey ch l) = false → s.outrun .other (hbmKey ch l) = false →
         (far = false → (s.l2Line line true).isSome = true) →
         Acts s (.l2Access ch l k false far) fun t => key ∈ (chan t).reads ∧ (far = false → (tget? t.m.l2 line).isSome = true) ∧ SameMem s t) ∧
       ((∃ j < k, s.needsFill (hbmKey ch l + j) false = true) → s.readerWait .other (hbmKey ch l) = none →
         (s.bankHeld .other (hbmKey ch l) = true →
           Acts s (.l2Access ch l k false far) fun t => (chan t).reads = c.reads ∧ (chan t).stallFrom = c.stallFrom.or (some s.m.now) ∧
             (chan t).others = c.others ++ [(key, s.m.mxStamp)] ∧ t.m.l2 = s.m.l2 ∧ SameMem s t) ∧
         (s.bankHeld .other (hbmKey ch l) = false → s.outrun .other (hbmKey ch l) = true →
           Acts s (.l2Access ch l k false far) fun t => (chan t).reads = c.reads ∧ (chan t).stallFrom = c.stallFrom ∧
             (chan t).others = c.others ++ [(key, s.m.mxStamp)] ∧ t.m.l2 = s.m.l2 ∧ SameMem s t)) ∧
       ((∀ j < k, s.needsFill (hbmKey ch l + j) false = false) → Acts s (.l2Access ch l k false far) fun t => (chan t).reads = c.reads ∧ SameMem s t)) ∧
     (l < 0x60000000 → (key ∈ c.reads ∨ s.othersGo ch = some key) → tget? s.m.l2 line = none →
       Acts s (.sectorFill ch l bad) fun t => key ∉ (chan t).reads ∧ key ∈ (chan t).served ∧ SameMem s t) ∧
     (∀ ln, l < 0x60000000 → (key ∈ c.reads ∨ s.othersGo ch = some key) → tget? s.m.l2 line = some ln → ln.v.getLsbD sec = false →
       Acts s (.sectorFill ch l bad) fun t => key ∉ (chan t).reads ∧ SameMem s t ∧
         ∃ y, tget? t.m.l2 line = some y ∧ y.v.getLsbD sec = true ∧ (bad = true → y.poison.getLsbD sec = true)) ∧
     (Acts s (.refreshSlot ch) fun t => SameMem s t ∧ (chan t).reads = c.reads ∧
       (c.all = true ∨ c.allWait = true → (chan t).p = (c.p + 1) % 16 ∧ (chan t).owed = c.owed) ∧
       (c.all = false → c.allWait = false →
         (pending → c.owed < 7 → (chan t).owed = c.owed + 1 ∧ (chan t).banks = c.banks ∧ (chan t).p = c.p) ∧
         (pending → c.owed = 7 → (chan t).allWait = true ∧ (chan t).owed = 7 ∧ (chan t).forced = min (c.forced + 1) 255) ∧
         (¬ pending → c.owed = 0 → c.p ∈ (chan t).banks ∧ (chan t).p = (c.p + 1) % 16) ∧
         (¬ pending → 0 < c.owed → c.p ∈ (chan t).banks ∧ (c.p + 1) % 16 ∈ (chan t).banks ∧ (chan t).p = (c.p + 2) % 16 ∧ (chan t).owed = c.owed - 1))) ∧
     (c.allWait = true → c.reads = [] → s.waitsAt ch c.allAt = false → Acts s (.allBankRefreshStart ch) fun t => (chan t).all = true ∧ (chan t).allWait = false ∧ (chan t).owed = 0 ∧ SameMem s t) ∧
     (c.all = true → Acts s (.refreshEnd ch) fun t => (chan t).all = false ∧ SameMem s t ∧
       ∀ t0, c.stallFrom = some t0 → (chan t).stall = min (c.stall + (s.m.now - t0) / mclkUnits) (2 ^ 48 - 1)) ∧
     (c.all = false → c.banks ≠ [] → Acts s (.refreshEnd ch) fun t => (chan t).banks = [] ∧ SameMem s t)) ∧
  (∀ (s : State) (tray temp port st : Nat), tray < 512 → port < 16 →
     let x := s.tray tray
     let p := s.m.power
     let told (cause : Nat) (t : State) : Prop := ∀ j < 8,
       (t.hartAt (8 * tray + j)).asy = (s.hartAt (8 * tray + j)).asy ++
         if (s.hartAt (8 * tray + j)).placed then [{ cause := cause, val := w64 tray, info := w64 (temp % 256) }] else []
     (∀ step at0, x.trans = some (step, at0) → Acts s (.opTransitionEnd tray) fun t => (t.tray tray).grant = step ∧ SameMem s t) ∧
     (Acts s (.droopDetect tray) fun t => t.m.power.droops = min (p.droops + 1) 65535 ∧ SameMem s t ∧
       (p.droophold ≠ 0 → (t.tray tray).droop = some (s.m.now + p.droophold * cycleUnits (s.coreStep (8 * tray)))) ∧ (p.droophold = 0 → (t.tray tray).droop = x.droop)) ∧
     (∀ at0, x.droop = some at0 → Acts s (.droopHoldEnd tray) fun t => (t.tray tray).droop = none ∧ at0 ≤ t.m.now ∧ SameMem s t) ∧
     (Acts s .capWindowEnd fun t => SameMem s t ∧
       let b := p.pcap * 16000000000
       let e := heldEnergy s.m.windowEnergy b
       t.m.power.window = p.window + 1 ∧ t.m.power.carry = s.m.windowEnergy - e ∧
       (b < e → t.m.power.capstep = p.capstep - 1 ∧ t.m.power.wover = min (p.wover + 1) 65535 ∧
         t.m.power.ovsh = max p.ovsh (min 65535 ((e - b) * 10000 / b))) ∧
       (e ≤ b → t.m.power.wover = p.wover ∧ t.m.power.ovsh = p.ovsh ∧
         t.m.power.capstep = if 10 * e < 9 * b then min 15 (p.capstep + 1) else p.capstep)) ∧
     ((tget {} s.m.host.links port).st = .active →
       (Acts s (.peerThrottled port st true) fun t => tget? t.m.power.peerFloor port = some (min st 15) ∧ SameMem s t) ∧
       (Acts s (.peerThrottled port st false) fun t => tget? t.m.power.peerFloor port = none ∧ SameMem s t)) ∧
     (x.hot = false → 95 ≤ temp → Acts s (.thermalWarn tray temp) fun t => (t.tray tray).hot = true ∧ told 0x50 t ∧ SameMem s t) ∧
     (x.crit = false → 105 ≤ temp → Acts s (.thermalCrit tray temp) fun t => (t.tray tray).crit = true ∧ (t.tray tray).ceiling = 0 ∧ told 0x51 t ∧ SameMem s t) ∧
     (115 ≤ temp → Acts s (.thermalTrip tray temp) fun t => t.m.stopped = true ∧ t.m.garnet.store = s.m.garnet.sram ∧ SameMem s t) ∧
     ((x.hot = true ∧ temp < 90) ∨ (x.crit = true ∧ temp < 100) →
       Acts s (.thermalClear tray temp) fun t => (t.tray tray).hot = (x.hot && decide (90 ≤ temp)) ∧ (t.tray tray).crit = (x.crit && decide (100 ≤ temp)) ∧ SameMem s t))

/-! ## Events: scheduling, placing, stopping and moving (08 R173, R178, R186 to R188; 15 R356 to R371; 16 R391) -/

/-- R178, R186 to R188: a barrier all of whose members have arrived completes: its generation grows, its phase flips and no one
has arrived at the next; a dispenser gives a waiting hart the record that goes next; the Opal token passes a hart that waits, and
a white round with no record left ends the task graph; BUDGET runs out at an interlock with a report. R356 to R359, R173: the
Distributor selects the first head that can be placed, fixes its plan, reserves one Tray after another, and releases them to an
arrival of higher PRIO; COMMIT places a launch in every core of the plan as R173 to R177 say, its argument bytes in the L1 of LCORE 0's Hearth, and a
saved gang as its image says, R366 and R367, a bad image poisoning it; the wake flood lets the harts go on. The model's own choices in it: logs 13,
32, 33, 34, 35, 56, 72. -/
def Obligations.UnitsScheduleAndPlaceGangs : Prop :=
  (∀ (s : State) (gang lvl dom hd core : Nat), lvl ≤ 4 → hd < 4 → gang < 4096 → core < 4352 →
     (∀ r x, s.gangBar gang lvl dom = some r → s.barAt r = some x → x.members ≠ [] → (∀ m ∈ x.members, m ∈ x.arrived) →
       Acts s (.barrierComplete gang lvl dom) fun t => t.barAt r = some { x with gen := (x.gen + 1) % 65536, arrived := [], phase := !x.phase } ∧ SameMem s t) ∧
     (∀ ctx r c, s.nextRecord hd = some (ctx, r, c) →
       Acts s (.dispenseCycle hd) fun t => (t.hartAt c).sync.given = some (.task r) ∧ SameMem s t) ∧
     (∀ g, s.gang? gang = some g → g.mset = false → g.terminated = false → g.st = .running → g.cores.Nodup →
       (∀ c, g.cores[g.opalAt]? = some c → s.opalWaits c = true → tget? s.m.parkedPair c = none →
         let black := g.opalBlack || (s.hartAt c).sync.blk
         (g.opalAt + 1 < g.cores.length → Acts s (.opalTokenPass gang) fun t => SameMem s t ∧ (t.hartAt c).sync.blk = false ∧
           (t.gang? gang).map (fun x => (x.opalAt, x.opalBlack, x.terminated)) = some (g.opalAt + 1, black, false)) ∧
         (g.opalAt + 1 = g.cores.length → Acts s (.opalTokenPass gang) fun t => SameMem s t ∧
           (t.gang? gang).map (fun x => (x.opalAt, x.opalBlack)) = some (0, false) ∧
           ((t.gang? gang).map (·.terminated) = some true ↔ black = false ∧ (∀ c ∈ g.cores, s.opalWaits c = true) ∧ s.noRecords gang = true)))) ∧
     (let h := s.hartAt core
      h.place = .placed → h.waiting = true → h.safeWait = false → h.sync.slice.isSome = true → h.lvl ≠ .f → h.sync.budget ≠ 0 →
       Acts s (.budgetExhausted core) fun t => SameMem s t ∧ (t.hartAt core).sync.budget = 0 ∧
         (t.hartAt core).asy = h.asy ++ [{ cause := 0x30, val := 0, info := 0 }])) ∧
  (∀ (s s1 : State),
     let x := s.m.dist.txn
     let txn (t : State) : Txn := t.m.dist.txn
     (∀ prio c rest plan, x.st = .idle → s.allHeads = (prio, c) :: rest → s.planFor prio c [] = some plan →
       Acts s .placementSelect fun t => (txn t).st = .select ∧ (txn t).cand = some c ∧ (txn t).prio = prio ∧ SameMem s t) ∧
     (∀ c, x.st = .select → x.cand = some c →
       (∀ plan, s.planFor x.prio c x.reserved = some plan →
         Acts s .placementSelect fun t => (txn t).st = .reserve ∧ (txn t).plan = plan ∧ (txn t).cand = some c ∧ SameMem s t) ∧
       (s.planFor x.prio c x.reserved = none → Acts s .placementSelect fun t => (txn t).st = .idle ∧ (txn t).reserved = [] ∧ SameMem s t)) ∧
     (x.st = .reserve → x.arrive ≤ x.prio + 1 →
       (∀ tr before after, x.plan = before ++ tr :: after → (∀ k ∈ before, k ∈ x.reserved) → tr ∉ x.reserved →
         Acts s .trayReserve fun t => (txn t).reserved = x.reserved ++ [tr] ∧ SameMem s t ∧
           ((txn t).st = .commit ↔ ∀ k ∈ x.plan, k ∈ x.reserved ++ [tr]))) ∧
     (x.st = .reserve → x.prio + 1 < x.arrive → Acts s .reservationRelease fun t => (txn t).st = .idle ∧ (txn t).reserved = [] ∧ SameMem s t) ∧
     (∀ l bytes m doms n, x.st = .commit → x.cand = some (.launch l) →
       let r := LRec.of l.lrec
       let cores := coresOf r.mset x.plan
       let h0 := dieOf (cores.headD 0)
       let from0 := ((l.parent.bind s.gang?).bind fun g => g.cores.head?).getD (cores.headD 0)
       s.argGranted r.ctx h0 r.argOff r.argLen = true → s.engRead { core := from0, near := 0, ctx := l.ctx, user := false } (w64 r.argSrc) r.argLen = .ok (s1, bytes) →
       s1.m.reserveAll cores r.levels = some (m, doms) → tfree s1.m.gangs 4096 = some n → cores.Nodup → cores.length ≤ 4096 →
       s1.MemWf → r.argOff + r.argLen ≤ 0x4000000 → (∀ g ∈ s1.m.gangs, g.2.roll = none) →
       Acts s .placementCommit fun t => (txn t).st = .wake ∧ (txn t).gang = n ∧
         (∀ i < r.argLen, mget t.m.mem (l1Key h0 (r.argOff + i)) = bytes.getD i 0) ∧
         (∀ k, k ∉ keysFrom (l1Key h0 r.argOff) r.argLen → mget t.m.mem k = mget s1.m.mem k) ∧ ClearsTags s1 t (keysFrom (l1Key h0 r.argOff) r.argLen) ∧
         (∃ g, t.gang? n = some g ∧ g.ctx = r.ctx ∧ g.cores = cores ∧ g.handle = r.obj ∧ g.prio = r.prio) ∧
         ∀ (lc c : Nat), cores[lc]? = some c →
           let h := t.hartAt c
           let text := (((s1.ctx r.ctx).objs.find? (·.handle == r.obj)).map (·.textVa)).getD 0
           h.place = .stopped ∧ h.gang = n ∧ h.ctx = r.ctx ∧ h.lvl = .u ∧ h.pc = text + w64 r.entry ∧ h.slot = none ∧ h.c[3] = (s1.ctx r.ctx).wakeC3 ∧
             (∀ i : CReg, i ≠ 3 → i ≠ 4 → h.c[i] = {}) ∧ h.c[4].tag = true ∧ h.c[4].addr = apertureVa h0 r.argOff ∧ h.v = Vector.replicate 32 0 ∧
             h.ctl.arstat = 0 ∧ h.ctl.round = (s1.ctx r.ctx).wakeRound ∧ h.ctl.flush = (s1.ctx r.ctx).wakeFlush ∧
             h.q = Vector.replicate 8 none ∧ h.streams = [] ∧ h.sync = {} ∧
             h.id.lcore = BitVec.ofNat 13 lc ∧ h.id.physcore = BitVec.ofNat 13 c ∧
             h.id.gangsz = BitVec.ofNat 28 (r.size + 0x2000 * b2n (cores.any fun d => dieOf d != h0) + 0x4000 * b2n r.mset + 0x10000 * n) ∧
             h.id.devcore = BitVec.ofNat 23 ((if r.mset then 4096 + lc else lc) + 0x2000 * s.m.dist.dev) ∧
             ∀ k < 4,
               let d := (h.domAt k).toNat
               let log := if k = 3 then topLog r.size else r.log k
               let valid : Prop := k = 3 ∨ r.valid k = true
               bits d 15 12 = log ∧ (bit d 16 = 1 ↔ valid) ∧ bit d 17 = 0 ∧
                 (valid → bits d 11 0 = lc / (8 * 2 ^ log) ∧ bits d 31 19 = min (8 * 2 ^ log) (cores.length - lc / (8 * 2 ^ log) * (8 * 2 ^ log)))) ∧
     (∀ n g, x.st = .commit → x.cand = some (.restore n) → s.gang? n = some g → n < 4096 → g.st = .saved →
       (s.imageOk g = false → isDev (paKey s.m (s.imagePa g + 0x50)) = false → Acts s .placementCommit fun t => (txn t).st = .idle ∧ (t.gang? n).map (·.st) = some .poisoned) ∧
       (s.imageOk g = true → s.barsFree g = false → Acts s .placementCommit fun t => (txn t).st = .idle ∧ t.m.gangs = s.m.gangs ∧ SameMem s t) ∧
       (let cores := coresOf g.mset x.plan
        s.imageOk g = true → s.barsFree g = true → cores.Nodup → (g.saved.map (·.1)).Nodup → (∀ e ∈ g.saved, e.1 < cores.length ∧ e.2.pair.on = false) →
        Acts s .placementCommit fun t => (txn t).st = .wake ∧ (txn t).gang = n ∧
          (t.gang? n).map (fun y => (y.st, y.cores, y.image)) = some (.restoring, cores, none) ∧
          ∀ e ∈ g.saved,
            let h := t.hartAt (cores.getD e.1 0)
            let o := e.2.ofRecord (s.paBytes (s.recordPa g e.1) 0x3400)
            h.pc = o.pc ∧ h.slot = o.slot ∧ h.lvl = o.lvl ∧ h.c = o.c ∧ h.v = o.v ∧ h.place = (if o.place = .placed then .stopped else o.place) ∧
              h.id = { o.id with physcore := BitVec.ofNat 13 (cores.getD e.1 0) })) ∧
     (∀ g, x.st = .wake → s.gang? x.gang = some g →
       Acts s .wakeFlood fun t => (txn t).st = .idle ∧ (t.gang? x.gang).map (·.st) = some .running ∧ SameMem s t ∧
         ∀ c ∈ g.cores, (s.hartAt c).place = .stopped → (t.hartAt c).place = .placed))

/-- R361 to R365, R371, R366, R389, R391: a hart of a stopping gang stops at a safe point, and at the next boundary once 100,000 ns have passed; a
gang whose harts have stopped drains, and drained it is saved, its launch record and its harts' registers at their places in its image, and its cores
are idle; a hart at a safe point stops to migrate, and drained it moves to its target core with its registers; a gang that rolls back returns to the
registers of its snapshots, and the L1 blocks with their tags and the facet records of its undo log to what their oldest entry holds, or it is poisoned where its
undo area has an error. The model's own choices in it: logs 24, 25, 35, 37. -/
def Obligations.GangsStopMoveAndReturn : Prop :=
  ∀ (s : State) (core gang : Nat), core < 4352 → gang < 4096 →
    let h := s.hartAt core
    let quiet : Prop := (∀ c ∈ h.mx.queue, c.stage ≠ .eligible) ∧ h.pair.on = false ∧ h.drained = true
    (∀ g, s.gang? h.gang = some g → g.st = .stopping → quiet →
      (h.place = .placed → h.slot = none → (h.atSafept.isSome = true ∨ (h.waiting = true ∧ h.safeWait = true)) → h.sync.given = none →
        Acts s (.hartStop core) fun t => (t.hartAt core).place = .stopped ∧ SameMem s t ∧
          (t.hartAt core).pc = (if h.atSafept.isSome then nextPc h.pc h.hc else h.pc)) ∧
      (h.place = .placed → g.stopAt + 100000 ≤ s.nowNs → h.stoppable = false → h.midway = false →
        Acts s (.forcedStop core) fun t => (t.hartAt core).place = .stopped ∧ (t.hartAt core).pc = h.pc ∧ (t.hartAt core).slot = h.slot ∧ (t.hartAt core).c = h.c ∧
          (t.hartAt core).v = h.v ∧ (t.hartAt core).forced = true ∧ (t.gang? h.gang).map (·.forced) = some true ∧ SameMem s t)) ∧
    (∀ g, s.gang? gang = some g →
      (g.st = .stopping → s.allStopped g = true → (∃ c ∈ g.cores, (s.hartAt c).place ≠ .halted) →
        Acts s (.gangSave gang) fun t => (t.gang? gang).map (·.st) = some .draining ∧ SameMem s t) ∧
      (g.st = .draining → s.workDone gang g = true → (∀ k j, k < 16 + 64 * g.size → j < 4096 → isDev (paKey s.m (s.imagePa g + 4096 * k) + j) = false) →
        Acts s (.gangSave gang) fun t => ∃ g', t.gang? gang = some g' ∧ g'.st = .saved ∧ g'.cores = [] ∧ g'.prio = g.prio ∧
          (∀ c ∈ g.cores, (t.hartAt c).place = .idle) ∧
          gang ∈ tget [] t.m.dist.restores (queueKey g.ctx g.prio) ∧
          (let pa := s.imagePa g
           let total := 0x10000 + 0x2000 * (if g.mset then 0 else g.size / 8) + 0x20000 * g.size
           let key (i : Nat) : Nat := paKey s.m (pa + i)
           g.cores.length = g.size → s.MemWf → (∀ i < total, isHbm (key i) = true ∧ key i = key (i / 4096 * 4096) + i % 4096) →
           (∀ i < total, ∀ j < total, key i = key j → i = j) →
           joinBytes (t.paBytes pa 64) = g.lrec.toNat ∧ crcGood (t.paBytes pa 0x10000) = true ∧
             ∀ (lc c : Nat), g.cores[lc]? = some c →
               let at0 := t.recordPa g' lc
               (∀ i : CReg, joinBytes (t.paBytes (at0 + 0x1000 + 32 * i.val) 16) = (s.recordOf c).c[i].addr.toNat + (s.recordOf c).c[i].md.toNat * 2 ^ 64) ∧
               ∀ v : VReg, joinBytes (t.paBytes (at0 + 0x1200 + 64 * v.val) 64) = (s.recordOf c).v[v].toNat)) ∧
      (∀ r pa, g.roll = some r → g.st = .rolling → (s.discard gang g).undoBad g r = some pa →
        Acts s (.rollbackRestore gang) fun t => (t.gang? gang).map (·.st) = some .poisoned) ∧
      (∀ r, g.roll = some r → g.st = .rolling → g.stopLater = false → (s.discard gang g).undoBad g r = none → g.cores.Nodup → g.mset = false →
        (∀ e ∈ r.cur, e.2.pair.on = false) → s.MemWf →
        let s1 := s.discard gang g
        let log := s1.undoLog g r
        let first (i : Nat) (u : Undo) : Prop := log[i]? = some u ∧ ∀ j < i, ∀ w, log[j]? = some w → w.kind = u.kind → w.hearth = u.hearth → w.index ≠ u.index
        let block (u : Undo) : Nat := l1Key u.hearth (u.index * 256)
        (∀ u ∈ log, u.kind = 0 → u.index < 0x40000) →
        Acts s (.rollbackRestore gang) fun t =>
          (∀ i u, first i u → u.kind = 0 → (∀ x < 256, mget t.m.mem (block u + x) = BitVec.ofNat 8 (u.bytes.getD x 0)) ∧
            ∀ x < 16, t.tagAt (block u + 16 * x) = decide (block u / 16 + x ∈ u.tags)) ∧
          (∀ k, isL1 k = true → (∀ u ∈ log, u.kind = 0 → k / 256 ≠ block u / 256) → mget t.m.mem k = mget s1.m.mem k) ∧
          (∀ i u, first i u → u.kind = 1 → ∀ x < 16, tget? (t.hearth u.hearth).facets (u.index * 16 + x) = some (BitVec.ofNat 128 (u.bytes.getD x 0))) ∧
          (t.gang? gang).map (·.st) = some .running ∧ ((t.gang? gang).bind (·.roll)).map (·.retry) = some (r.retry + 1) ∧
          ∀ (lc c : Nat) o, g.cores[lc]? = some c → tget? r.cur lc = some o →
            (t.hartAt c).pc = o.pc ∧ (t.hartAt c).c = (s1.snapHart g r lc o).c ∧ (t.hartAt c).v = (s1.snapHart g r lc o).v ∧ (t.hartAt c).lvl = o.lvl)) ∧
    (∀ to0, h.migrateTo = some to0 → h.moving = false → h.stoppable = true → h.pair.on = false →
      Acts s (.migration core) fun t => t.hartAt core = { h with moving := true } ∧ SameMem s t) ∧
    (∀ to0, h.migrateTo = some to0 → h.moving = true → h.pausing = false → quiet → h.mx.queue = [] →
      Acts s (.migration core) fun t => t.hartAt core = { h with pausing := true } ∧ SameMem s t) ∧
    (∀ to0, h.migrateTo = some to0 → to0 ≠ core → h.moving = true → h.pausing = true → h.atSafept = none → quiet → h.mx.queue = [] → s.windowQuiet = true →
      (s.ctx h.ctx).objs = [] →
      Acts s (.migration core) fun t => (t.hartAt to0).place = .placed ∧ (t.hartAt to0).pc = h.pc ∧ (t.hartAt to0).c = h.c ∧ (t.hartAt to0).v = h.v ∧
        (t.hartAt to0).id = { h.id with physcore := BitVec.ofNat 13 to0 } ∧ (t.hartAt core).place = .idle ∧ (h.nearOn = false → SameMem s t))

/-! ## Events: fetch, errors, the host (09 R190 to R193; 16 R375 to R387; 18 R409 to R423) -/

/-- R192, R375, R379, R386, R416: the line of the PC is fetched and its head bits kept; a pending cause is taken at a boundary, in the order
of R375; a corrected error is logged, and an uncorrectable one in L1 poisons its word; the Garnet log is flushed, survives loss of supply and a
reset, which returns every other unit of the module to its reset value. The model's own choices in it: logs 1, 2, 48, 50. -/
def Obligations.ErrorsAndResetsHappen : Prop :=
  ∀ (s s1 : State) (va : Word) (line unit : Nat) (a : Async) (e : ErrEvent) (img : BootImage),
    (s.hart.place = .placed → va.toNat / 64 = s.hart.pc.toNat / 64 → s.fetchPc s.hart.pc s.hart.fetchReg = .ok (s1, line) →
      Acts s (.lineFetch va) fun t => t.hart.hc = lineHC line ∧ t.hart.pc = s.hart.pc ∧ SameMem s1 t) ∧
    (s.hart.place = .placed → va.toNat / 64 ≠ s.hart.pc.toNat / 64 → s.fetchLine va 0 = .ok (s1, line) →
      Acts s (.lineFetch va) fun t => t = s1) ∧
    (s.hart.place = .placed → s.hart.pair.on = false → s.hart.slot = none → s.hart.sync.given = none → s.hart.wfi = false → s.hart.entering = none → s.hart.checking = none →
      s.hart.pick s.time = some a →
      (a ∈ s.hart.pending s.time ∧ s.hart.open a.cause = true ∧ ∀ b ∈ s.hart.pending s.time, s.hart.open b.cause = true → asyRank a.cause ≤ asyRank b.cause) ∧
      Acts s .trapEntry fun t => t = s.takeAsync a s.hart.pc) ∧
    (unit ≤ 0x51B → e.site ≠ 3 → e.site ≠ 4 → e.site ≠ 5 →
      Acts s (.errorDetected unit e) fun t => SameMem s t ∧
        (∃ r, (tget {} t.m.banks unit).latest = some r ∧ r.site = e.site ∧ r.sub = e.sub ∧ r.addr = e.addr ∧ r.sev = (if e.uncorrectable then 1 else 0)) ∧
        (e.uncorrectable = true → e.site = 0 → e.addr % 0x10000000 / 8 ∈ t.m.poisonW)) ∧
    (Acts s .garnetFlush fun t => t.m.garnet.store = s.m.garnet.sram ∧ t.hart = s.hart ∧ SameMem s t) ∧
    (Acts s .powerFailure fun t => t.m.stopped = true ∧ t.m.garnet.sram = s.m.garnet.store ∧ t.hart = State.reset.hart ∧ t.parked = State.reset.parked ∧
      t.m = { State.reset.m with garnet := t.m.garnet, stopped := true, host := s.m.host.fuses }) ∧
    (Acts s (.reset img) fun t => t.hart = State.reset.hart ∧ t.parked = State.reset.parked ∧ t.cur = State.reset.cur ∧
      t.m = { State.reset.m with garnet := t.m.garnet, host := t.m.host, power := { State.reset.m.power with table := t.m.power.table } } ∧
      t.m.host.fuses = s.m.host.fuses ∧ (t.m.host.recovery = true → t.m.power.table = []) ∧
      (t.m.host.recovery = false → t.m.host.fwVersion = img.version ∧ ∀ i < 4096, i < img.energy.length → tget 0 t.m.power.table i = img.energy.getD i 0 % 65536) ∧
      (let g := if s.m.stopped then s.m.garnet.store else s.m.garnet.sram
       t.m.garnet.sram.counters = g.counters ∧ t.m.garnet.sram.boot = g.boot + 1 ∧ t.m.garnet.sram.journal = g.journal) ∧
      (t.m.host.recovery = false ↔ img.rsaOk = true ∧ img.slhOk = true ∧ img.rsaKey = s.m.host.fuseRsa ∧ img.slhKey = s.m.host.fuseSlh ∧
        s.m.host.fuseVersion ≤ img.version))

/-- R410 to R412, R416 to R420: a frame of a context that comes over a port that is up, protected, is no replica, new and not overtaken is performed
and answered; a replica does nothing, one already performed is answered again and does nothing else, one overtaken is refused. A LOAD's parts make a code
object at an address of its own, in recovery firmware, which starts where the boot ROM accepts it; a COPY writes at its destination what its source
holds; the signatures of a signed answer cover the transcript. R413, R415: the ports, the rate of the time base: a port trains on its signal,
negotiates, and is active or down; and a function that the loader publishes has the 64 bytes of each of its lines at its address.
The model's own choices in it: logs 26, 33, 38, 40, 41, 48. -/
def Obligations.HostCommandsPortsAndLoader : Prop :=
  (∀ (s : State) (f : Frame), f.ctx < 16 → s.frameOk f = true → (∀ c ∈ s.m.host.copies, c.frame.ctx ≠ f.ctx) →
     let s0 := (s.frameSeen f).1
     let plain (i : Instr) : Prop := i = Instr.ccpTimeRead f ∨ (∃ l, i = .ccpLaunch f l) ∨ (∃ p b, i = .ccpMapBind f p b) ∨ (∃ o, i = .ccpLoad f o)
     ((s.frameSeen f).2 = false → ∀ i, plain i → Acts s i fun t => t = s0) ∧
     ((s.frameSeen f).2 = true →
       let answered := (s.ctx f.ctx).answered
       let all0 (obj : CodeImage) : CodeImage := { obj with bytes := (s.ctx f.ctx).loading ++ obj.bytes }
       (∀ i msg, answered.find? (·.1 == frameNum f) = some (frameNum f, msg) → plain i → Acts s i fun t => t = s0.toHost { msg with stamp := s.nowNs }) ∧
       (answered.find? (·.1 == frameNum f) = none →
       -- the last frame to the host answers f
       let answers (typ status : Nat) (body : List Nat) (t : State) : Prop :=
         t.m.host.out = s.m.host.out ++ [{ typ := typ, ctx := f.ctx, seq := frameNum f, event := false, status := status, body := body, stamp := t.nowNs }]
       let replies (i : Instr) (typ status : Nat) (body : List Nat) (P : State → Prop) : Prop := Acts s i fun t => answers typ status body t ∧ SameMem s t ∧ P t
       ((∃ e ∈ answered, seqAfter e.1 (frameNum f) = true) → s.m.host.recovery = false →
         replies (.ccpTimeRead f) 7 7 [] (fun _ => True) ∧ ∀ l, replies (.ccpLaunch f l) 1 7 [] fun t => t.m.dist.queues = s.m.dist.queues) ∧
       ((∀ e ∈ answered, seqAfter e.1 (frameNum f) = false) →
       (s.m.host.recovery = false → ∀ (l : BitVec 512) (page buf base units pa lines bar dev : Nat) (va v : Word),
         (∀ code, s.checkLaunch (LRec.of l) none = some code → replies (.ccpLaunch f l) 1 (code * 2 ^ 8) [] fun t => t.m.dist.queues = s.m.dist.queues) ∧
         (s.checkLaunch (LRec.of l) none = none → replies (.ccpLaunch f l) 1 0 [] fun t =>
           tget [] t.m.dist.queues (queueKey (bits l.toNat 3 0) (bits l.toNat 10 8)) =
             tget [] s.m.dist.queues (queueKey (bits l.toNat 3 0) (bits l.toNat 10 8)) ++ [{ lrec := l, ctx := f.ctx, parent := none, host := true }]) ∧
         (page < 2 ^ 28 → replies (.ccpMapBind f page buf) 3 0 [] fun t => tget? t.m.host.binds page = some (buf % 2 ^ 32)) ∧
         replies (.ccpMapSaveArea f base units) 3 0 [] (fun t => (t.ctx f.ctx).saveBase = base / 0x10000 * 0x10000 ∧ (t.ctx f.ctx).saveUnits = units) ∧
         (s.codeOfOther f.ctx (pa / 64 * 64) (64 * lines) = false → replies (.ccpMapCodeHeap f va pa lines) 3 0 [] fun t =>
           (t.ctx f.ctx).heapVa = va &&& ~~~(0x3F#64) ∧ (t.ctx f.ctx).heapPa = pa / 64 * 64 ∧ (t.ctx f.ctx).heapLines = lines ∧ (t.ctx f.ctx).objs = (s.ctx f.ctx).objs) ∧
         (s.codeOfOther f.ctx (pa / 64 * 64) (64 * lines) = true → replies (.ccpMapCodeHeap f va pa lines) 3 7 [] fun t =>
           (t.ctx f.ctx).heapPa = (s.ctx f.ctx).heapPa ∧ (t.ctx f.ctx).heapLines = (s.ctx f.ctx).heapLines) ∧
         (bar < 64 → replies (.ccpMapCollective f bar) 3 0 [] fun t => (t.ctx f.ctx).collective = some (1024 + bar)) ∧
         ((∀ g ∈ s.m.gangs, g.2.cores = []) → dev < 1024 → replies (.ccpMapDeviceIndex f dev) 3 0 [] fun t => t.m.dist.dev = dev) ∧
         ((∃ g ∈ s.m.gangs, g.2.cores ≠ []) → replies (.ccpMapDeviceIndex f dev) 3 7 [] fun t => t.m.dist.dev = s.m.dist.dev) ∧
         (s.m.dist.everPlaced = false → replies (.ccpTimeSet f v) 7 0 [] fun t => t.nowNs = v.toNat) ∧
         (s.m.dist.everPlaced = true → replies (.ccpTimeSet f v) 7 7 [] fun t => t.nowNs = s.nowNs) ∧
         replies (.ccpTimeRead f) 7 0 [s.nowNs] (fun _ => True)) ∧
       (∀ (obj : CodeImage) (handle index nonce sub arg : Nat),
         let objs (t : State) : List CodeObj := (t.ctx f.ctx).objs
         let old := (s.ctx f.ctx).spdm
         (obj.bytes.length = 8192 → replies (.ccpLoad f obj) 4 0 [] fun t => objs t = objs s ∧ (t.ctx f.ctx).loading = (all0 obj).bytes) ∧
         (obj.bytes.length < 8192 →
           (∀ code, s.m.host.recovery = false → loadRefusal (all0 obj) = some code → replies (.ccpLoad f obj) 4 (code * 2 ^ 8) [] fun t =>
             objs t = objs s ∧ (t.ctx f.ctx).loading = []) ∧
           (s.m.host.recovery = false → loadRefusal (all0 obj) = none → replies (.ccpLoad f obj) 4 0 [(s.ctx f.ctx).nextHandle] fun t =>
             (t.ctx f.ctx).loading = [] ∧ ∃ o, objs t = objs s ++ [o] ∧ o.handle = (s.ctx f.ctx).nextHandle ∧ o.img = all0 obj ∧ (∀ e ∈ o.fns, e.2.2 = .unpublished) ∧
               ∀ x ∈ objs s, o.textPa + 64 * o.lines ≤ x.textPa ∨ x.textPa + 64 * x.lines ≤ o.textPa) ∧
           (s.m.host.recovery = true →
             let img := imageOf ((all0 obj).bytes.map (·.toNat))
             (s.m.host.accepts img = true → replies (.ccpLoad f obj) 4 0 [] fun t => t.m.host.recovery = false ∧ t.m.host.fwVersion = img.version) ∧
             (s.m.host.accepts img = false → replies (.ccpLoad f obj) 4 7 [] fun t => t.m.host.recovery = true))) ∧
         (s.m.host.recovery = false → replies (.ccpUnload f handle false) 4 0 [] fun t => s.imaged f.ctx handle = false → ∀ o ∈ objs t, o.handle ≠ handle) ∧
         (s.m.host.recovery = false → replies (.ccpUnload f handle true) 4 0 [] fun t => ∀ o ∈ objs t, o.handle = handle → ∀ e ∈ o.fns, e.2.2 = .retired) ∧
         (∀ b, s.query sub arg = some b → replies (.ccpQuery f sub arg) 5 0 b fun _ => True) ∧
         (s.query sub arg = none → replies (.ccpQuery f sub arg) 5 7 [] fun _ => True) ∧
         replies (.spdmGetVersion f) 6 0 [Config.spdmBody 0x04 0] (fun t => (t.ctx f.ctx).spdm = [0x04, Config.spdmBody 0x04 0]) ∧
         replies (.spdmGetCapabilities f) 6 0 [Config.spdmBody 0x61 0] (fun t => (t.ctx f.ctx).spdm = old ++ [0x61, Config.spdmBody 0x61 0]) ∧
         replies (.spdmNegotiateAlgorithms f) 6 0 [Config.spdmBody 0x63 0] (fun t => (t.ctx f.ctx).spdm = old ++ [0x63, Config.spdmBody 0x63 0]) ∧
         replies (.spdmGetDigests f) 6 0 [Config.spdmBody 0x01 0] (fun t => (t.ctx f.ctx).spdm = old ++ [0x01, Config.spdmBody 0x01 0]) ∧
         replies (.spdmGetCertificate f) 6 0 [Config.spdmBody 0x02 0] (fun t => (t.ctx f.ctx).spdm = old ++ [0x02, Config.spdmBody 0x02 0]) ∧
         replies (.spdmChallenge f nonce) 6 0 (Config.spdmBody 0x03 nonce :: signatures (old ++ [0x03, nonce, Config.spdmBody 0x03 nonce])) (fun _ => True) ∧
         (index ≠ 0xFF →
           let body := Config.spdmBody 0x60 nonce :: s.measure index
           replies (.spdmGetMeasurements f index nonce) 6 0 (body ++ signatures (old ++ [0x60, nonce, index] ++ body)) fun _ => True)) ∧
       (∀ (dev off len : Nat) (toDevice : Bool), s.m.host.recovery = false →
         let x : HostCopy := { frame := f, dev := dev, off := off, len := len, toDevice := toDevice }
         let done (s1 : State) (status : Nat) (t : State) : Prop := SameMem s1 t ∧
           ∃ m, t.m.host.out = s1.m.host.out ++ [m] ∧ m.typ = 2 ∧ m.ctx = f.ctx ∧ m.seq = frameNum f ∧ m.status = status
         (∀ s1 y status, s0.copyTurn (len / 32 + 4) x = (s1, y, some status) → Acts s (.ccpCopy f dev off len toDevice) (done s1 status)) ∧
         (∀ from0 to0, len ≠ 0 → (if toDevice then dev else off) % 64 + len ≤ 64 → x.keys s0.m (!toDevice) len = some from0 → x.keys s0.m toDevice len = some to0 →
           to0.Nodup → (∀ k ∈ to0, isL1 k = true ∨ isHbm k = true) → s.MemWf → (∀ g ∈ s.m.gangs, g.2.roll = none) → s.splits = [] → s.m.flips = [] →
           s0.marks from0 = .pass →
           let read := s0.channelRead .other s.m.now from0 false true
           read.2 = true → (∀ k ∈ from0, (read.1.l2Sectors from0 false false true).poisonedFor false k = false ∧ read.1.poisonedFor false k = false) →
           (read.1.l2Sectors from0 false false true).lockHit to0 = none → (read.1.l2Sectors from0 false false true).writeWaits to0 false true = false →
           Acts s (.ccpCopy f dev off len toDevice) fun t =>
             (∀ j < len, mget t.m.mem (to0.getD j 0) = s.byteAt (from0.getD j 0)) ∧ (∀ k, k ∉ to0 → mget t.m.mem k = mget s.m.mem k) ∧
             ∃ m, t.m.host.out = s.m.host.out ++ [m] ∧ m.typ = 2 ∧ m.seq = frameNum f ∧ m.status = 0)))))) ∧
  (∀ (s : State) (port lanes : Nat) (ppm : Int), port < 16 →
     let l : Link := tget {} s.m.host.links port
     let link (t : State) : Link := tget {} t.m.host.links port
     (l.st = .down → l.retry = false → 4 ≤ lanes → Acts s (.linkSignalDetect port lanes) fun t => (link t).st = .train ∧ SameMem s t) ∧
     (l.st = .train → lanes = 4 ∨ lanes = 8 → Acts s (.linkTrainDone port lanes) fun t => (link t).st = .negotiate ∧ (link t).lanes = lanes ∧ SameMem s t) ∧
     (l.st = .train → Acts s (.linkTrainFail port) fun t => (link t).st = .down ∧ (link t).retry = true ∧ SameMem s t) ∧
     (l.st = .down → l.retry = true → Acts s (.linkRetry port) fun t => (link t).retry = false ∧ (link t).st = .down ∧ SameMem s t) ∧
     (l.st = .negotiate → (Acts s (.linkNegotiate port true) fun t => (link t).st = .active ∧ SameMem s t) ∧
       (Acts s (.linkNegotiate port false) fun t => (link t).st = .down ∧ SameMem s t ∧ ∃ r, (tget {} t.m.banks (0x508 + port)).latest = some r ∧ r.site = 7)) ∧
     (l.st = .active → Acts s (.linkDown port) fun t => (link t).st = .down ∧ tget? t.m.power.peerFloor port = none ∧ SameMem s t ∧
       ∀ c ∈ s.cores, ∀ e ∈ (t.hartAt c).posted, ∀ b ∈ e.cells, inPeer port b.1 = false) ∧
     (port < 2 → (Acts s (.hostPortLinkUp port) fun t => tget? t.m.host.ports port = some true ∧ SameMem s t) ∧
       (Acts s (.hostPortLinkDown port) fun t => tget? t.m.host.ports port = some false ∧ SameMem s t)) ∧
     (-100 ≤ ppm → ppm ≤ 100 → Acts s (.timeSync ppm) fun t => t.m.ppm = ppm ∧ t.nowNs = s.nowNs ∧ SameMem s t) ∧
     (∀ ctx handle fn o e, ctx < 16 → (s.ctx ctx).objs.find? (·.handle == handle) = some o → o.fns[fn]? = some e → e.2.2 = .unpublished →
       (s.ctx ctx).hasRoom o e = true →
       let at0 (k : Nat) : Nat := paKey s.m (o.textPa + 64 * (e.1 + k))
       (∀ k < e.2.1, ∀ j < 64, isHbm (at0 k + j) = true) → (∀ k < e.2.1, ∀ k' < e.2.1, k ≠ k' → at0 k + 64 ≤ at0 k' ∨ at0 k' + 64 ≤ at0 k) →
       (∀ k < e.2.1, s.writeWaits (keysFrom (at0 k) 64) false false = false) → s.MemWf → (∀ g ∈ s.m.gangs, g.2.roll = none) →
       Acts s (.functionPublish ctx handle fn) fun t =>
         (∀ k < e.2.1, ∀ j < 64, mget t.m.mem (at0 k + j) = (splitBytes 64 (textLine o.img (e.1 + k))).getD j 0) ∧
         ∃ o', (t.ctx ctx).objs.find? (·.handle == handle) = some o' ∧ o'.fns[fn]? = some (e.1, e.2.1, .published)))

/-! ## The whole machine (08 R169; 09 R190 to R202; 10, 14, 16, 17 reset columns) -/

/-- R199, R202: with CHK = 1 an instruction that reads a register before the latency of its youngest writer is met traps with
STALL_SHORT, which names the register, how much is short and the writer's major; with CHK = 0 it reads the value before that writer.
The model's own choices in it: logs 7, 8. -/
def Obligations.EarlyReadsTrapOrSeeTheOlderValue : Prop :=
  ∀ (s : State) (n : Fin 4) (a b c : CReg) (i16 : BitVec 16) (o : VOp) (p : Pend) (older : List Pend),
    let short (r : Nat) (i : Instr) : Prop := Traps s i 0x03 (w64 r) (w64 (p.lat - p.dist + 0x100 * p.major))
    (b ≠ 0 → s.hart.pend.filter (fun x => !x.vec && x.reg == b.val) = p :: older → p.dist < p.lat →
      (s.hart.ctl.chk = true →
        short b.val (.mov n a b) ∧ short b.val (.addi16 n a b i16) ∧ short b.val (.add n a b c) ∧ short b.val (.cclone n a b) ∧
        short b.val (.creadBase n a b)) ∧
      (s.hart.ctl.chk = false → older = [] → b.val ∉ s.hart.poison → WritesX s (.mov n a b) a p.prevC.addr ∧ WritesC s (.cclone n a b) a p.prevC)) ∧
    (s.hart.pend.filter (fun x => x.vec && x.reg == o.va.val) = p :: older → p.dist < p.lat → s.hart.streams = [] → wholeFmt o.fmt.val →
      (s.hart.ctl.chk = true → short (o.va.val + 32) (.vand o) ∧ short (o.va.val + 32) (.vmov o)) ∧
      (s.hart.ctl.chk = false → older = [] → (∀ r ∈ [o.va] ++ o.maskReg ++ o.oldReg, r.val + 32 ∉ s.hart.poison) →
        WritesV s (.vmov o) o 2 o.w fun i => (velem p.prevV o.w i, 0)))

/-- The values that the reset columns of the register maps (R17, R32, R82, R141, R144, R166, R175, R177, R184, R295, R345, R348, R349, R351 and those
of CHK, TIMECMP, OPREQ, RMTCTL.LIMIT, MXWGT and RWPERM) and R312 state: those six as given, RMASK and CMASK all ones, every rule of class 3, GRANT 4,
and the level, the banks and every other field of these maps 0. -/
def Obligations.ResetHasTheStatedValues : Prop :=
  let s := State.reset
  (∀ core, core < 4352 →
    let h := s.hartAt core
    h.lvl = .u ∧ h.kb = {} ∧ h.fb = {} ∧ h.shadow = none ∧ h.ctl.chk = true ∧ h.ctl.timecmp = BitVec.allOnes 64 ∧ h.ctl.opreq = 4 ∧
      h.ctl.rmt = 0x400 ∧ h.ctl.mxwgt = 1 ∧ h.ctl.rwperm = 1 ∧ h.ctl.round = 0 ∧ h.ctl.flush = 0 ∧ h.ctl.arstat = 0 ∧ h.ctl.cycle = 0 ∧
      h.ctl.retired = 0 ∧ h.ctl.nearctl = 0 ∧ h.ctl.rptc = false ∧ h.id.lcore = 0 ∧ h.id.gangsz = 0 ∧ h.id.devcore = 0 ∧ h.id.physcore = 0 ∧
      (∀ k : Fin 4, h.id.dom[k] = 0 ∧ h.perf[k].sel = 0 ∧ h.perf[k].cnt = 0 ∧ h.perf[k].ovf = false) ∧ h.sync.wakereg = 0 ∧ h.sync.budget = 0 ∧
      h.pair.on = false ∧ h.pair.odd = false ∧ h.pair.run = 0 ∧ h.pair.mism = 0 ∧ h.pair.mat = 0 ∧ h.ctl.l1rtidx = 0 ∧ h.ctl.tqsel = 0 ∧
      h.rep.en = false ∧ h.rep.rstl2 = false ∧ h.rep.rsttlb = false ∧ h.rep.save = 0 ∧ h.rep.pass = 0 ∧ h.rep.phase = 0 ∧ h.rep.mismatch = false ∧
      h.rep.ovf = false ∧ h.rep.pages = [] ∧ h.rep.sig = 0 ∧ h.mx.tokens = [] ∧ h.mx.queue = [] ∧
      h.mx.seq = 0 ∧ h.mx.nv = false ∧ h.mx.ovf = false ∧ h.mx.sat = false ∧ h.mx.flt = false) ∧
  (∀ tray, tray < 512 →
    let t := s.tray tray
    t.rmask = BitVec.allOnes 64 ∧ t.cmask = 0xFF#8 ∧ t.grant = 4 ∧ ∀ i, i < 64 → t.rule i % 4 = 3) ∧
  (∀ ctx, ctx < 16 →
    let c := s.ctx ctx
    c.ptEn = false ∧ c.ptTable = 0 ∧ c.wakeC3 = {} ∧ c.wakeRound = 0 ∧ c.wakeFlush = 0 ∧ (∀ i, tget 0 c.regions i = 0) ∧
      ∀ hd, hd < 4 → (s.taskQ ctx hd).cfg = 0 ∧ tget 0 c.facetCorr hd = 0 ∧ tget 0 c.facetMism hd = 0) ∧
  (∀ ch, ch < 256 →
    let c : Chan := tget {} s.m.chans ch
    c.p = 0 ∧ c.owed = 0 ∧ c.stall = 0 ∧ c.forced = 0)

/-- The memory after reset has the canonical form (log 2): the model's invariant holds at reset. -/
def Obligations.ResetMemoryIsCanonical : Prop := State.MemWf State.reset

/-- Every step keeps the canonical form of memory: locations strictly ascending, and no byte listed that an unlisted location reads as
(log 2; the form is the model's own). -/
def Obligations.StepsKeepMemoryCanonical : Prop := ∀ s t : State, s.MemWf → step s = .next t → t.MemWf

/-- R190 to R193, R195, R196: where the hart whose turn it is runs, no asynchronous cause is taken and the line of its PC is fetched, a step
runs the instruction that the head at the PC and its tail decode to, and the PC keeps its place until that instruction moves it; words that
decode to none run as ILLEGAL_INSTRUCTION with their REASON. The line is the 64 bytes at the address that the leaf of the PC gives. An
event of the agenda runs as it stands (log 4). -/
def Obligations.StepRunsTheDecodedInstruction : Prop :=
  ∀ (s s1 : State) (line : Nat), s.m.stopped = false →
    (s.agenda = [] → s.hart.place = .placed → s.hart.moving = false → s.hart.waiting = false → s.hart.pair.flushing = false → s.exchangeDue = false →
      s.boundary = none → { s with idleTurns := 0 }.fetchPc s.hart.pc s.hart.fetchReg = .ok (s1, line) →
      let s2 := s1.onHart fun h => { h with hc := lineHC line, insn := some line, trapEntryOf := none }
      let head := bits line (16 * (s.hart.pc.toNat / 2 % 32) + 15) (16 * (s.hart.pc.toNat / 2 % 32))
      let w := (lineInsn line (s.hart.pc.toNat / 2 % 32)).2
      s2.hart.pc = s.hart.pc ∧ (lineInsn line (s.hart.pc.toNat / 2 % 32)).1 = head ∧
      (∀ i, decode s1.miller head w = .ok i → step s = exec i s2) ∧
      (∀ r, decode s1.miller head w = .error r →
        step s = exec (.illegalInstruction (Fin.ofNat 5 r) (BitVec.ofNat 16 head) (BitVec.ofNat 64 w)) s2)) ∧
    (∀ e, canonical s.hart.pc = true → inSpan s.hart.pc = false → s.fetchXlate s.hart.pc = .ok (s1, e) →
      (s1.ctx s1.hart.ctx).pub (s.hart.pc &&& ~~~(0x3F#64)) = none →
      let k := paKey s1.m (leafPa e (a55 (s.hart.pc &&& ~~~(0x3F#64))))
      let keys := (List.range 64).map (k + ·)
      let bytes := joinBytes (keys.map s1.peek)
      tget? s1.hart.lines k = none → (∀ j ∈ keys, s1.poisonedFor false j = false) →
      (s1.channelRead (.walk s1.cur) s1.hart.clock keys false (bits e.bits 10 9 == 0)).2 = true → checkLine bytes = none →
      pcNamesHead s.hart.pc.toNat (lineHC bytes) = true → ∃ s2, s.fetchPc s.hart.pc s.hart.fetchReg = .ok (s2, bytes)) ∧
    (∀ i rest, s.agenda = .event i :: rest → step s = exec i { s with agenda := rest })

/-- R195, R208 to R213, R219 to R224, R235, R245, R266, R280, R317: words of the spec's programs and examples decode to the instructions they
stand for. -/
def Obligations.WordsDecodeAsTheSpecWritesThem : Prop :=
  decode false 0x1D54 0x0806 = .ok (.cas 0 5 4 true 6) ∧
  decode false 0x2610 0x00000081 = .ok (.jal 0 1 4 1) ∧
  decode false 0x2190 0x4003 = .ok (.bne 0 9 0 8 3) ∧
  decode false 0x0D27 0x0006 = .ok (.seq 0 2 7 6) ∧
  decode false 0x3D50 0x0030 = .ok (.ctlRd 0 5 0x030) ∧
  decode false 0x3CB0 0xB000 = .ok (.taskTake 0 11 0) ∧
  decode false 0x3D00 0x3200 = .ok (.eret 0) ∧
  decode false 0x3C00 0x2001 = .ok (.barSync 0 1) ∧
  decode false 0x3A50 0x4300000000000000 = .ok (.mxWait 0 5) ∧
  decode false 0x39E5 0x04000000 = .ok (.btStat 0 14 5) ∧
  decode false 0x0000 0 = .ok (.addCompact 0 0 0) ∧
  decode false 0x1F00 0 = .error 0 ∧
  decode true 0x3A50 0x4300000000000000 = .error 4

/-- R194 to R196, R208 to R318: the words of a well-formed instruction decode to it, on a Miller too unless it exists on compute cores alone;
and words that decode to an instruction are that instruction's. Of two words of the code space that differ no two decode to one
instruction. -/
def Obligations.EncodingAndDecodingAgree : Prop :=
  (∀ (i : Instr) (head tail : Nat), i.wf = true → encode i = some (head, tail) →
    head < 2 ^ 16 ∧ tail < 2 ^ (16 * tailLen (bits head 13 8)) ∧ decode false head tail = .ok i ∧
      (i.computeOnly = false → decode true head tail = .ok i)) ∧
  (∀ (miller : Bool) (head tail : Nat) (i : Instr), head < 2 ^ 16 → decode miller head tail = .ok i → encode i = some (head, tail) ∧ i.wf = true)
end

