-- ==== Sys2Proof/Laws/Exec.lean ====
section
/-! SUPPORT. Each arm of the dispatch as an equation. -/

namespace Sys2Proof.Machine

theorem exec_addCompact : ∀ n a b s, exec (.addCompact n a b) s = execAddCompact n a b s := by intros; rfl
theorem exec_subCompact : ∀ n a b s, exec (.subCompact n a b) s = execSubCompact n a b s := by intros; rfl
theorem exec_andCompact : ∀ n a b s, exec (.andCompact n a b) s = execAndCompact n a b s := by intros; rfl
theorem exec_orCompact : ∀ n a b s, exec (.orCompact n a b) s = execOrCompact n a b s := by intros; rfl
theorem exec_xorCompact : ∀ n a b s, exec (.xorCompact n a b) s = execXorCompact n a b s := by intros; rfl
theorem exec_mov : ∀ n a b s, exec (.mov n a b) s = execMov n a b s := by intros; rfl
theorem exec_mulCompact : ∀ n a b s, exec (.mulCompact n a b) s = execMulCompact n a b s := by intros; rfl
theorem exec_shlCompact : ∀ n a b s, exec (.shlCompact n a b) s = execShlCompact n a b s := by intros; rfl
theorem exec_add : ∀ n a b c s, exec (.add n a b c) s = execAdd n a b c s := by intros; rfl
theorem exec_sub : ∀ n a b c s, exec (.sub n a b c) s = execSub n a b c s := by intros; rfl
theorem exec_and : ∀ n a b c s, exec (.and n a b c) s = execAnd n a b c s := by intros; rfl
theorem exec_or : ∀ n a b c s, exec (.or n a b c) s = execOr n a b c s := by intros; rfl
theorem exec_xor : ∀ n a b c s, exec (.xor n a b c) s = execXor n a b c s := by intros; rfl
theorem exec_andn : ∀ n a b c s, exec (.andn n a b c) s = execAndn n a b c s := by intros; rfl
theorem exec_shl : ∀ n a b c s, exec (.shl n a b c) s = execShl n a b c s := by intros; rfl
theorem exec_shr : ∀ n a b c s, exec (.shr n a b c) s = execShr n a b c s := by intros; rfl
theorem exec_sar : ∀ n a b c s, exec (.sar n a b c) s = execSar n a b c s := by intros; rfl
theorem exec_ror : ∀ n a b c s, exec (.ror n a b c) s = execRor n a b c s := by intros; rfl
theorem exec_mul : ∀ n a b c s, exec (.mul n a b c) s = execMul n a b c s := by intros; rfl
theorem exec_mulh : ∀ n a b c s, exec (.mulh n a b c) s = execMulh n a b c s := by intros; rfl
theorem exec_mulhu : ∀ n a b c s, exec (.mulhu n a b c) s = execMulhu n a b c s := by intros; rfl
theorem exec_mulhsu : ∀ n a b c s, exec (.mulhsu n a b c) s = execMulhsu n a b c s := by intros; rfl
theorem exec_div : ∀ n a b c s, exec (.div n a b c) s = execDiv n a b c s := by intros; rfl
theorem exec_divu : ∀ n a b c s, exec (.divu n a b c) s = execDivu n a b c s := by intros; rfl
theorem exec_rem : ∀ n a b c s, exec (.rem n a b c) s = execRem n a b c s := by intros; rfl
theorem exec_remu : ∀ n a b c s, exec (.remu n a b c) s = execRemu n a b c s := by intros; rfl
theorem exec_min : ∀ n a b c s, exec (.min n a b c) s = execMin n a b c s := by intros; rfl
theorem exec_max : ∀ n a b c s, exec (.max n a b c) s = execMax n a b c s := by intros; rfl
theorem exec_minu : ∀ n a b c s, exec (.minu n a b c) s = execMinu n a b c s := by intros; rfl
theorem exec_maxu : ∀ n a b c s, exec (.maxu n a b c) s = execMaxu n a b c s := by intros; rfl
theorem exec_seq : ∀ n a b c s, exec (.seq n a b c) s = execSeq n a b c s := by intros; rfl
theorem exec_sne : ∀ n a b c s, exec (.sne n a b c) s = execSne n a b c s := by intros; rfl
theorem exec_slt : ∀ n a b c s, exec (.slt n a b c) s = execSlt n a b c s := by intros; rfl
theorem exec_sltu : ∀ n a b c s, exec (.sltu n a b c) s = execSltu n a b c s := by intros; rfl
theorem exec_selnz : ∀ n a b c s, exec (.selnz n a b c) s = execSelnz n a b c s := by intros; rfl
theorem exec_selz : ∀ n a b c s, exec (.selz n a b c) s = execSelz n a b c s := by intros; rfl
theorem exec_clz : ∀ n a b s, exec (.clz n a b) s = execClz n a b s := by intros; rfl
theorem exec_ctz : ∀ n a b s, exec (.ctz n a b) s = execCtz n a b s := by intros; rfl
theorem exec_popc : ∀ n a b s, exec (.popc n a b) s = execPopc n a b s := by intros; rfl
theorem exec_bswap : ∀ n a b s, exec (.bswap n a b) s = execBswap n a b s := by intros; rfl
theorem exec_li16 : ∀ n a imm s, exec (.li16 n a imm) s = execLi16 n a imm s := by intros; rfl
theorem exec_li32 : ∀ n a imm s, exec (.li32 n a imm) s = execLi32 n a imm s := by intros; rfl
theorem exec_li64 : ∀ n a imm s, exec (.li64 n a imm) s = execLi64 n a imm s := by intros; rfl
theorem exec_addi16 : ∀ n a b imm s, exec (.addi16 n a b imm) s = execAddi16 n a b imm s := by intros; rfl
theorem exec_addi32 : ∀ n a b imm s, exec (.addi32 n a b imm) s = execAddi32 n a b imm s := by intros; rfl
theorem exec_caddReg : ∀ n a b c s, exec (.caddReg n a b c) s = execCaddReg n a b c s := by intros; rfl
theorem exec_cadd16 : ∀ n a b imm s, exec (.cadd16 n a b imm) s = execCadd16 n a b imm s := by intros; rfl
theorem exec_cadd32 : ∀ n a b imm s, exec (.cadd32 n a b imm) s = execCadd32 n a b imm s := by intros; rfl
theorem exec_ld : ∀ n a b ord sz off s, exec (.ld n a b ord sz off) s = execLd n a b ord sz off s := by intros; rfl
theorem exec_st : ∀ n a b ord sz off s, exec (.st n a b ord sz off) s = execSt n a b ord sz off s := by intros; rfl
theorem exec_ldFar : ∀ n a b ord sz off s, exec (.ldFar n a b ord sz off) s = execLdFar n a b ord sz off s := by intros; rfl
theorem exec_stFar : ∀ n a b ord sz off s, exec (.stFar n a b ord sz off) s = execStFar n a b ord sz off s := by intros; rfl
theorem exec_amoAdd : ∀ n a b w c s, exec (.amoAdd n a b w c) s = execAmoAdd n a b w c s := by intros; rfl
theorem exec_amoAnd : ∀ n a b w c s, exec (.amoAnd n a b w c) s = execAmoAnd n a b w c s := by intros; rfl
theorem exec_amoOr : ∀ n a b w c s, exec (.amoOr n a b w c) s = execAmoOr n a b w c s := by intros; rfl
theorem exec_amoXor : ∀ n a b w c s, exec (.amoXor n a b w c) s = execAmoXor n a b w c s := by intros; rfl
theorem exec_amoSmin : ∀ n a b w c s, exec (.amoSmin n a b w c) s = execAmoSmin n a b w c s := by intros; rfl
theorem exec_amoSmax : ∀ n a b w c s, exec (.amoSmax n a b w c) s = execAmoSmax n a b w c s := by intros; rfl
theorem exec_amoUmin : ∀ n a b w c s, exec (.amoUmin n a b w c) s = execAmoUmin n a b w c s := by intros; rfl
theorem exec_amoUmax : ∀ n a b w c s, exec (.amoUmax n a b w c) s = execAmoUmax n a b w c s := by intros; rfl
theorem exec_amoSwap : ∀ n a b w c s, exec (.amoSwap n a b w c) s = execAmoSwap n a b w c s := by intros; rfl
theorem exec_amoCadd : ∀ n a b w c s, exec (.amoCadd n a b w c) s = execAmoCadd n a b w c s := by intros; rfl
theorem exec_amoBadd : ∀ n a b w c s, exec (.amoBadd n a b w c) s = execAmoBadd n a b w c s := by intros; rfl
theorem exec_cas : ∀ n a b w c s, exec (.cas n a b w c) s = execCas n a b w c s := by intros; rfl
theorem exec_fence : ∀ n mask scope s, exec (.fence n mask scope) s = execFence n mask scope s := by intros; rfl
theorem exec_fenceE : ∀ n s, exec (.fenceE n) s = execFenceE n s := by intros; rfl
theorem exec_fenceI : ∀ n s, exec (.fenceI n) s = execFenceI n s := by intros; rfl
theorem exec_beq : ∀ n a b idx disp s, exec (.beq n a b idx disp) s = execBeq n a b idx disp s := by intros; rfl
theorem exec_bne : ∀ n a b idx disp s, exec (.bne n a b idx disp) s = execBne n a b idx disp s := by intros; rfl
theorem exec_blt : ∀ n a b idx disp s, exec (.blt n a b idx disp) s = execBlt n a b idx disp s := by intros; rfl
theorem exec_bge : ∀ n a b idx disp s, exec (.bge n a b idx disp) s = execBge n a b idx disp s := by intros; rfl
theorem exec_bltu : ∀ n a b idx disp s, exec (.bltu n a b idx disp) s = execBltu n a b idx disp s := by intros; rfl
theorem exec_bgeu : ∀ n a b idx disp s, exec (.bgeu n a b idx disp) s = execBgeu n a b idx disp s := by intros; rfl
theorem exec_jal : ∀ n a disp idx s, exec (.jal n a disp idx) s = execJal n a disp idx s := by intros; rfl
theorem exec_jr : ∀ n a b s, exec (.jr n a b) s = execJr n a b s := by intros; rfl
theorem exec_brTok : ∀ n q s, exec (.brTok n q) s = execBrTok n q s := by intros; rfl
theorem exec_cnarrow : ∀ n a b c s, exec (.cnarrow n a b c) s = execCnarrow n a b c s := by intros; rfl
theorem exec_cnarrowX : ∀ n a b c s, exec (.cnarrowX n a b c) s = execCnarrowX n a b c s := by intros; rfl
theorem exec_cdrop : ∀ n a b c s, exec (.cdrop n a b c) s = execCdrop n a b c s := by intros; rfl
theorem exec_cfmt : ∀ n a b blog fmt s, exec (.cfmt n a b blog fmt) s = execCfmt n a b blog fmt s := by intros; rfl
theorem exec_creadBase : ∀ n a b s, exec (.creadBase n a b) s = execCreadBase n a b s := by intros; rfl
theorem exec_creadTop : ∀ n a b s, exec (.creadTop n a b) s = execCreadTop n a b s := by intros; rfl
theorem exec_creadLen : ∀ n a b s, exec (.creadLen n a b) s = execCreadLen n a b s := by intros; rfl
theorem exec_creadPerm : ∀ n a b s, exec (.creadPerm n a b) s = execCreadPerm n a b s := by intros; rfl
theorem exec_creadFmt : ∀ n a b s, exec (.creadFmt n a b) s = execCreadFmt n a b s := by intros; rfl
theorem exec_creadBlog : ∀ n a b s, exec (.creadBlog n a b) s = execCreadBlog n a b s := by intros; rfl
theorem exec_creadTag : ∀ n a b s, exec (.creadTag n a b) s = execCreadTag n a b s := by intros; rfl
theorem exec_creadShut : ∀ n a b s, exec (.creadShut n a b) s = execCreadShut n a b s := by intros; rfl
theorem exec_creadMeta : ∀ n a b s, exec (.creadMeta n a b) s = execCreadMeta n a b s := by intros; rfl
theorem exec_cshut : ∀ n a b s, exec (.cshut n a b) s = execCshut n a b s := by intros; rfl
theorem exec_copen : ∀ n a b s, exec (.copen n a b) s = execCopen n a b s := by intros; rfl
theorem exec_cmint : ∀ n a b s, exec (.cmint n a b) s = execCmint n a b s := by intros; rfl
theorem exec_cclone : ∀ n a b s, exec (.cclone n a b) s = execCclone n a b s := by intros; rfl
theorem exec_cwithin : ∀ n a b c s, exec (.cwithin n a b c) s = execCwithin n a b c s := by intros; rfl
theorem exec_vadd : ∀ o s, exec (.vadd o) s = execVadd o s := by intros; rfl
theorem exec_vsub : ∀ o s, exec (.vsub o) s = execVsub o s := by intros; rfl
theorem exec_vmul : ∀ o s, exec (.vmul o) s = execVmul o s := by intros; rfl
theorem exec_vmulh : ∀ o s, exec (.vmulh o) s = execVmulh o s := by intros; rfl
theorem exec_vmin : ∀ o s, exec (.vmin o) s = execVmin o s := by intros; rfl
theorem exec_vmax : ∀ o s, exec (.vmax o) s = execVmax o s := by intros; rfl
theorem exec_vabs : ∀ o s, exec (.vabs o) s = execVabs o s := by intros; rfl
theorem exec_vneg : ∀ o s, exec (.vneg o) s = execVneg o s := by intros; rfl
theorem exec_vaddSat : ∀ o s, exec (.vaddSat o) s = execVaddSat o s := by intros; rfl
theorem exec_vsubSat : ∀ o s, exec (.vsubSat o) s = execVsubSat o s := by intros; rfl
theorem exec_vabsSat : ∀ o s, exec (.vabsSat o) s = execVabsSat o s := by intros; rfl
theorem exec_vand : ∀ o s, exec (.vand o) s = execVand o s := by intros; rfl
theorem exec_vor : ∀ o s, exec (.vor o) s = execVor o s := by intros; rfl
theorem exec_vxor : ∀ o s, exec (.vxor o) s = execVxor o s := by intros; rfl
theorem exec_vandn : ∀ o s, exec (.vandn o) s = execVandn o s := by intros; rfl
theorem exec_vshl : ∀ o s, exec (.vshl o) s = execVshl o s := by intros; rfl
theorem exec_vshr : ∀ o s, exec (.vshr o) s = execVshr o s := by intros; rfl
theorem exec_vsar : ∀ o s, exec (.vsar o) s = execVsar o s := by intros; rfl
theorem exec_vshli : ∀ o s, exec (.vshli o) s = execVshli o s := by intros; rfl
theorem exec_vshri : ∀ o s, exec (.vshri o) s = execVshri o s := by intros; rfl
theorem exec_vsari : ∀ o s, exec (.vsari o) s = execVsari o s := by intros; rfl
theorem exec_vfadd : ∀ o s, exec (.vfadd o) s = execVfadd o s := by intros; rfl
theorem exec_vfsub : ∀ o s, exec (.vfsub o) s = execVfsub o s := by intros; rfl
theorem exec_vfmul : ∀ o s, exec (.vfmul o) s = execVfmul o s := by intros; rfl
theorem exec_vfmin : ∀ o s, exec (.vfmin o) s = execVfmin o s := by intros; rfl
theorem exec_vfmax : ∀ o s, exec (.vfmax o) s = execVfmax o s := by intros; rfl
theorem exec_vfabs : ∀ o s, exec (.vfabs o) s = execVfabs o s := by intros; rfl
theorem exec_vfneg : ∀ o s, exec (.vfneg o) s = execVfneg o s := by intros; rfl
theorem exec_vfdiv : ∀ o s, exec (.vfdiv o) s = execVfdiv o s := by intros; rfl
theorem exec_vfsqrt : ∀ o s, exec (.vfsqrt o) s = execVfsqrt o s := by intros; rfl
theorem exec_vfma : ∀ o s, exec (.vfma o) s = execVfma o s := by intros; rfl
theorem exec_vfms : ∀ o s, exec (.vfms o) s = execVfms o s := by intros; rfl
theorem exec_vfnma : ∀ o s, exec (.vfnma o) s = execVfnma o s := by intros; rfl
theorem exec_vcmul : ∀ o s, exec (.vcmul o) s = execVcmul o s := by intros; rfl
theorem exec_vcmac : ∀ o s, exec (.vcmac o) s = execVcmac o s := by intros; rfl
theorem exec_vcmulj : ∀ o s, exec (.vcmulj o) s = execVcmulj o s := by intros; rfl
theorem exec_vcmacj : ∀ o s, exec (.vcmacj o) s = execVcmacj o s := by intros; rfl
theorem exec_vcconj : ∀ o s, exec (.vcconj o) s = execVcconj o s := by intros; rfl
theorem exec_vcmpEq : ∀ o s, exec (.vcmpEq o) s = execVcmpEq o s := by intros; rfl
theorem exec_vcmpNe : ∀ o s, exec (.vcmpNe o) s = execVcmpNe o s := by intros; rfl
theorem exec_vcmpLt : ∀ o s, exec (.vcmpLt o) s = execVcmpLt o s := by intros; rfl
theorem exec_vcmpLe : ∀ o s, exec (.vcmpLe o) s = execVcmpLe o s := by intros; rfl
theorem exec_vsel : ∀ o s, exec (.vsel o) s = execVsel o s := by intros; rfl
theorem exec_vmov : ∀ o s, exec (.vmov o) s = execVmov o s := by intros; rfl
theorem exec_vsplat : ∀ o s, exec (.vsplat o) s = execVsplat o s := by intros; rfl
theorem exec_vext : ∀ o s, exec (.vext o) s = execVext o s := by intros; rfl
theorem exec_vins : ∀ o s, exec (.vins o) s = execVins o s := by intros; rfl
theorem exec_vperm : ∀ o s, exec (.vperm o) s = execVperm o s := by intros; rfl
theorem exec_vshuf : ∀ o s, exec (.vshuf o) s = execVshuf o s := by intros; rfl
theorem exec_vslide : ∀ o s, exec (.vslide o) s = execVslide o s := by intros; rfl
theorem exec_vmpopc : ∀ o s, exec (.vmpopc o) s = execVmpopc o s := by intros; rfl
theorem exec_vmfirst : ∀ o s, exec (.vmfirst o) s = execVmfirst o s := by intros; rfl
theorem exec_vredsum : ∀ o s, exec (.vredsum o) s = execVredsum o s := by intros; rfl
theorem exec_vredmin : ∀ o s, exec (.vredmin o) s = execVredmin o s := by intros; rfl
theorem exec_vredmax : ∀ o s, exec (.vredmax o) s = execVredmax o s := by intros; rfl
theorem exec_vredand : ∀ o s, exec (.vredand o) s = execVredand o s := by intros; rfl
theorem exec_vredor : ∀ o s, exec (.vredor o) s = execVredor o s := by intros; rfl
theorem exec_vredxor : ∀ o s, exec (.vredxor o) s = execVredxor o s := by intros; rfl
theorem exec_vfredsum : ∀ o s, exec (.vfredsum o) s = execVfredsum o s := by intros; rfl
theorem exec_vfredmin : ∀ o s, exec (.vfredmin o) s = execVfredmin o s := by intros; rfl
theorem exec_vfredmax : ∀ o s, exec (.vfredmax o) s = execVfredmax o s := by intros; rfl
theorem exec_vcvt : ∀ o s, exec (.vcvt o) s = execVcvt o s := by intros; rfl
theorem exec_vld : ∀ o s, exec (.vld o) s = execVld o s := by intros; rfl
theorem exec_vst : ∀ o s, exec (.vst o) s = execVst o s := by intros; rfl
theorem exec_vlds : ∀ o s, exec (.vlds o) s = execVlds o s := by intros; rfl
theorem exec_vsts : ∀ o s, exec (.vsts o) s = execVsts o s := by intros; rfl
theorem exec_vldx : ∀ o s, exec (.vldx o) s = execVldx o s := by intros; rfl
theorem exec_vstx : ∀ o s, exec (.vstx o) s = execVstx o s := by intros; rfl
theorem exec_vldDec : ∀ o s, exec (.vldDec o) s = execVldDec o s := by intros; rfl
theorem exec_vstEnc : ∀ o s, exec (.vstEnc o) s = execVstEnc o s := by intros; rfl
theorem exec_cpCopy : ∀ o s, exec (.cpCopy o) s = execCpCopy o s := by intros; rfl
theorem exec_cpMcast : ∀ o s, exec (.cpMcast o) s = execCpMcast o s := by intros; rfl
theorem exec_cpWm : ∀ n a b s, exec (.cpWm n a b) s = execCpWm n a b s := by intros; rfl
theorem exec_cpResume : ∀ n b s, exec (.cpResume n b) s = execCpResume n b s := by intros; rfl
theorem exec_cpAbort : ∀ n b s, exec (.cpAbort n b) s = execCpAbort n b s := by intros; rfl
theorem exec_btAlloc : ∀ n a b hrt s, exec (.btAlloc n a b hrt) s = execBtAlloc n a b hrt s := by intros; rfl
theorem exec_btFree : ∀ n b s, exec (.btFree n b) s = execBtFree n b s := by intros; rfl
theorem exec_btWaitf : ∀ n a b s, exec (.btWaitf n a b) s = execBtWaitf n a b s := by intros; rfl
theorem exec_btRel : ∀ n b s, exec (.btRel n b) s = execBtRel n b s := by intros; rfl
theorem exec_btStat : ∀ n a b s, exec (.btStat n a b) s = execBtStat n a b s := by intros; rfl
theorem exec_tileDecl : ∀ n a b s, exec (.tileDecl n a b) s = execTileDecl n a b s := by intros; rfl
theorem exec_tileUndecl : ∀ n b s, exec (.tileUndecl n b) s = execTileUndecl n b s := by intros; rfl
theorem exec_tileChk : ∀ n b s, exec (.tileChk n b) s = execTileChk n b s := by intros; rfl
theorem exec_tileFix : ∀ n b s, exec (.tileFix n b) s = execTileFix n b s := by intros; rfl
theorem exec_mxMma : ∀ o s, exec (.mxMma o) s = execMxMma o s := by intros; rfl
theorem exec_mxTrn : ∀ n a ah dh mc nc fmt s, exec (.mxTrn n a ah dh mc nc fmt) s = execMxTrn n a ah dh mc nc fmt s := by intros; rfl
theorem exec_mxScale : ∀ n a b mc nc s, exec (.mxScale n a b mc nc) s = execMxScale n a b mc nc s := by intros; rfl
theorem exec_mxUprog : ∀ n b up s, exec (.mxUprog n b up) s = execMxUprog n b up s := by intros; rfl
theorem exec_mxWait : ∀ n a s, exec (.mxWait n a) s = execMxWait n a s := by intros; rfl
theorem exec_mxStat : ∀ n a clr s, exec (.mxStat n a clr) s = execMxStat n a clr s := by intros; rfl
theorem exec_knLoad : ∀ n b s, exec (.knLoad n b) s = execKnLoad n b s := by intros; rfl
theorem exec_knCtlRmask : ∀ n b s, exec (.knCtlRmask n b) s = execKnCtlRmask n b s := by intros; rfl
theorem exec_knCtlCmask : ∀ n b s, exec (.knCtlCmask n b) s = execKnCtlCmask n b s := by intros; rfl
theorem exec_knCtlClr : ∀ n s, exec (.knCtlClr n) s = execKnCtlClr n s := by intros; rfl
theorem exec_knStatCore : ∀ n a s, exec (.knStatCore n a) s = execKnStatCore n a s := by intros; rfl
theorem exec_knStatRule : ∀ n a b s, exec (.knStatRule n a b) s = execKnStatRule n a b s := by intros; rfl
theorem exec_knStatClass : ∀ n a s, exec (.knStatClass n a) s = execKnStatClass n a s := by intros; rfl
theorem exec_barArrive : ∀ n a lvl s, exec (.barArrive n a lvl) s = execBarArrive n a lvl s := by intros; rfl
theorem exec_barWait : ∀ n b lvl s, exec (.barWait n b lvl) s = execBarWait n b lvl s := by intros; rfl
theorem exec_barSync : ∀ n lvl s, exec (.barSync n lvl) s = execBarSync n lvl s := by intros; rfl
theorem exec_barTest : ∀ n a b lvl s, exec (.barTest n a b lvl) s = execBarTest n a b lvl s := by intros; rfl
theorem exec_wake : ∀ n a b s, exec (.wake n a b) s = execWake n a b s := by intros; rfl
theorem exec_wfw : ∀ n a b s, exec (.wfw n a b) s = execWfw n a b s := by intros; rfl
theorem exec_domSet : ∀ n b lvl s, exec (.domSet n b lvl) s = execDomSet n b lvl s := by intros; rfl
theorem exec_phase : ∀ n a b lvl s, exec (.phase n a b lvl) s = execPhase n a b lvl s := by intros; rfl
theorem exec_send : ∀ n b vr lvl s, exec (.send n b vr lvl) s = execSend n b vr lvl s := by intros; rfl
theorem exec_recv : ∀ n a vr s, exec (.recv n a vr) s = execRecv n a vr s := by intros; rfl
theorem exec_taskSpawn : ∀ n a b hrt own s, exec (.taskSpawn n a b hrt own) s = execTaskSpawn n a b hrt own s := by intros; rfl
theorem exec_taskTake : ∀ n a q s, exec (.taskTake n a q) s = execTaskTake n a q s := by intros; rfl
theorem exec_taskYield : ∀ n a b s, exec (.taskYield n a b) s = execTaskYield n a b s := by intros; rfl
theorem exec_taskDone : ∀ n s, exec (.taskDone n) s = execTaskDone n s := by intros; rfl
theorem exec_taskExit : ∀ n s, exec (.taskExit n) s = execTaskExit n s := by intros; rfl
theorem exec_launch : ∀ n a b s, exec (.launch n a b) s = execLaunch n a b s := by intros; rfl
theorem exec_ctlRd : ∀ n a num s, exec (.ctlRd n a num) s = execCtlRd n a num s := by intros; rfl
theorem exec_ctlWr : ∀ n b num s, exec (.ctlWr n b num) s = execCtlWr n b num s := by intros; rfl
theorem exec_safept : ∀ n map s, exec (.safept n map) s = execSafept n map s := by intros; rfl
theorem exec_trap : ∀ n imm s, exec (.trap n imm) s = execTrap n imm s := by intros; rfl
theorem exec_brk : ∀ n imm s, exec (.brk n imm) s = execBrk n imm s := by intros; rfl
theorem exec_eret : ∀ n s, exec (.eret n) s = execEret n s := by intros; rfl
theorem exec_wfi : ∀ n s, exec (.wfi n) s = execWfi n s := by intros; rfl
theorem exec_time : ∀ n a s, exec (.time n a) s = execTime n a s := by intros; rfl
theorem exec_opreq : ∀ n b s, exec (.opreq n b) s = execOpreq n b s := by intros; rfl
theorem exec_migrate : ∀ n a b s, exec (.migrate n a b) s = execMigrate n a b s := by intros; rfl
theorem exec_pairOn : ∀ n a s, exec (.pairOn n a) s = execPairOn n a s := by intros; rfl
theorem exec_pairOff : ∀ n s, exec (.pairOff n) s = execPairOff n s := by intros; rfl
theorem exec_errinj : ∀ n a b s, exec (.errinj n a b) s = execErrinj n a b s := by intros; rfl
theorem exec_replayBegin : ∀ n s, exec (.replayBegin n) s = execReplayBegin n s := by intros; rfl
theorem exec_replayAgain : ∀ n s, exec (.replayAgain n) s = execReplayAgain n s := by intros; rfl
theorem exec_replayEnd : ∀ n a s, exec (.replayEnd n a) s = execReplayEnd n a s := by intros; rfl
theorem exec_replayDone : ∀ n s, exec (.replayDone n) s = execReplayDone n s := by intros; rfl
theorem exec_ctxSet : ∀ n b s, exec (.ctxSet n b) s = execCtxSet n b s := by intros; rfl
theorem exec_qbind : ∀ n q b kind s, exec (.qbind n q b kind) s = execQbind n q b kind s := by intros; rfl
theorem exec_qunbind : ∀ n q s, exec (.qunbind n q) s = execQunbind n q s := by intros; rfl
theorem exec_qpop : ∀ n c q s, exec (.qpop n c q) s = execQpop n c q s := by intros; rfl
theorem exec_sbind : ∀ n v b s, exec (.sbind n v b) s = execSbind n v b s := by intros; rfl
theorem exec_sunbind : ∀ n v s, exec (.sunbind n v) s = execSunbind n v s := by intros; rfl
theorem exec_illegalInstruction : ∀ reason head tail s, exec (.illegalInstruction reason head tail) s = execIllegalInstruction reason head tail s := by intros; rfl
theorem exec_tlbinvAll : ∀ s, exec .tlbinvAll s = execTlbinvAll s := fun _ => rfl
theorem exec_tlbinvContext : ∀ ctx s, exec (.tlbinvContext ctx) s = execTlbinvContext ctx s := by intros; rfl
theorem exec_tlbinvPages : ∀ ctx page count s, exec (.tlbinvPages ctx page count) s = execTlbinvPages ctx page count s := by intros; rfl
theorem exec_shootdownAck : ∀ unit s, exec (.shootdownAck unit) s = execShootdownAck unit s := by intros; rfl
theorem exec_ptrootWrite : ∀ ctx v s, exec (.ptrootWrite ctx v) s = execPtrootWrite ctx v s := by intros; rfl
theorem exec_l1rtvalWrite : ∀ ctx idx v s, exec (.l1rtvalWrite ctx idx v) s = execL1rtvalWrite ctx idx v s := by intros; rfl
theorem exec_tqcfgWrite : ∀ ctx hearth v s, exec (.tqcfgWrite ctx hearth v) s = execTqcfgWrite ctx hearth v s := by intros; rfl
theorem exec_ldreqWrite : ∀ ctx line s, exec (.ldreqWrite ctx line) s = execLdreqWrite ctx line s := by intros; rfl
theorem exec_wdmapWrite : ∀ atF v s, exec (.wdmapWrite atF v) s = execWdmapWrite atF v s := by intros; rfl
theorem exec_rollcmdWrite : ∀ gang s, exec (.rollcmdWrite gang) s = execRollcmdWrite gang s := by intros; rfl
theorem exec_errorBankAck : ∀ unit v s, exec (.errorBankAck unit v) s = execErrorBankAck unit v s := by intros; rfl
theorem exec_lineFetch : ∀ va s, exec (.lineFetch va) s = execLineFetch va s := by intros; rfl
theorem exec_trapEntry : ∀ s, exec .trapEntry s = execTrapEntry s := fun _ => rfl
theorem exec_storeBufferDrain : ∀ hart s, exec (.storeBufferDrain hart) s = execStoreBufferDrain hart s := by intros; rfl
theorem exec_bankGrant : ∀ hearth reqs s, exec (.bankGrant hearth reqs) s = execBankGrant hearth reqs s := by intros; rfl
theorem exec_remoteResponse : ∀ hart n s, exec (.remoteResponse hart n) s = execRemoteResponse hart n s := by intros; rfl
theorem exec_remoteTimeout : ∀ hart n s, exec (.remoteTimeout hart n) s = execRemoteTimeout hart n s := by intros; rfl
theorem exec_remoteStoreRefused : ∀ hart n s, exec (.remoteStoreRefused hart n) s = execRemoteStoreRefused hart n s := by intros; rfl
theorem exec_rangeLockActivate : ∀ hearth entry s, exec (.rangeLockActivate hearth entry) s = execRangeLockActivate hearth entry s := by intros; rfl
theorem exec_filterBitClear : ∀ hearth row s, exec (.filterBitClear hearth row) s = execFilterBitClear hearth row s := by intros; rfl
theorem exec_engineOpBegin : ∀ hart s, exec (.engineOpBegin hart) s = execEngineOpBegin hart s := by intros; rfl
theorem exec_enginePieceLand : ∀ opn part s, exec (.enginePieceLand opn part) s = execEnginePieceLand opn part s := by intros; rfl
theorem exec_landingComplete : ∀ opn part s, exec (.landingComplete opn part) s = execLandingComplete opn part s := by intros; rfl
theorem exec_bufferFreeMessage : ∀ hearth handle s, exec (.bufferFreeMessage hearth handle) s = execBufferFreeMessage hearth handle s := by intros; rfl
theorem exec_streamRefill : ∀ hart v s, exec (.streamRefill hart v) s = execStreamRefill hart v s := by intros; rfl
theorem exec_pageWalk : ∀ die ctx va acc s, exec (.pageWalk die ctx va acc) s = execPageWalk die ctx va acc s := by intros; rfl
theorem exec_l2Access : ∀ ch l n write far s, exec (.l2Access ch l n write far) s = execL2Access ch l n write far s := by intros; rfl
theorem exec_sectorFill : ∀ ch l poisoned s, exec (.sectorFill ch l poisoned) s = execSectorFill ch l poisoned s := by intros; rfl
theorem exec_refreshSlot : ∀ ch s, exec (.refreshSlot ch) s = execRefreshSlot ch s := by intros; rfl
theorem exec_allBankRefreshStart : ∀ ch s, exec (.allBankRefreshStart ch) s = execAllBankRefreshStart ch s := by intros; rfl
theorem exec_refreshEnd : ∀ ch s, exec (.refreshEnd ch) s = execRefreshEnd ch s := by intros; rfl
theorem exec_kneaderEntry : ∀ hart s, exec (.kneaderEntry hart) s = execKneaderEntry hart s := by intros; rfl
theorem exec_kneaderAgeFlush : ∀ hart s, exec (.kneaderAgeFlush hart) s = execKneaderAgeFlush hart s := by intros; rfl
theorem exec_mxDispatch : ∀ hart s, exec (.mxDispatch hart) s = execMxDispatch hart s := by intros; rfl
theorem exec_tileStep : ∀ tray s, exec (.tileStep tray) s = execTileStep tray s := by intros; rfl
theorem exec_mxRetire : ∀ hart s, exec (.mxRetire hart) s = execMxRetire hart s := by intros; rfl
theorem exec_mxCommandFault : ∀ hart s, exec (.mxCommandFault hart) s = execMxCommandFault hart s := by intros; rfl
theorem exec_ballastStep : ∀ tray width s, exec (.ballastStep tray width) s = execBallastStep tray width s := by intros; rfl
theorem exec_droopDetect : ∀ tray s, exec (.droopDetect tray) s = execDroopDetect tray s := by intros; rfl
theorem exec_droopHoldEnd : ∀ tray s, exec (.droopHoldEnd tray) s = execDroopHoldEnd tray s := by intros; rfl
theorem exec_opTransitionEnd : ∀ tray s, exec (.opTransitionEnd tray) s = execOpTransitionEnd tray s := by intros; rfl
theorem exec_capWindowEnd : ∀ s, exec .capWindowEnd s = execCapWindowEnd s := fun _ => rfl
theorem exec_peerThrottled : ∀ port step on s, exec (.peerThrottled port step on) s = execPeerThrottled port step on s := by intros; rfl
theorem exec_timer : ∀ hart s, exec (.timer hart) s = execTimer hart s := by intros; rfl
theorem exec_budgetExhausted : ∀ hart s, exec (.budgetExhausted hart) s = execBudgetExhausted hart s := by intros; rfl
theorem exec_thermalWarn : ∀ tray temp s, exec (.thermalWarn tray temp) s = execThermalWarn tray temp s := by intros; rfl
theorem exec_thermalCrit : ∀ tray temp s, exec (.thermalCrit tray temp) s = execThermalCrit tray temp s := by intros; rfl
theorem exec_thermalTrip : ∀ tray temp s, exec (.thermalTrip tray temp) s = execThermalTrip tray temp s := by intros; rfl
theorem exec_thermalClear : ∀ tray temp s, exec (.thermalClear tray temp) s = execThermalClear tray temp s := by intros; rfl
theorem exec_external : ∀ hart s, exec (.external hart) s = execExternal hart s := by intros; rfl
theorem exec_barrierComplete : ∀ gang lvl dom s, exec (.barrierComplete gang lvl dom) s = execBarrierComplete gang lvl dom s := by intros; rfl
theorem exec_domainReform : ∀ gang lvl s, exec (.domainReform gang lvl) s = execDomainReform gang lvl s := by intros; rfl
theorem exec_sendDelivery : ∀ n s, exec (.sendDelivery n) s = execSendDelivery n s := by intros; rfl
theorem exec_wakeDelivery : ∀ n s, exec (.wakeDelivery n) s = execWakeDelivery n s := by intros; rfl
theorem exec_dispenseCycle : ∀ hearth s, exec (.dispenseCycle hearth) s = execDispenseCycle hearth s := by intros; rfl
theorem exec_opalTokenPass : ∀ gang s, exec (.opalTokenPass gang) s = execOpalTokenPass gang s := by intros; rfl
theorem exec_placementSelect : ∀ s, exec .placementSelect s = execPlacementSelect s := fun _ => rfl
theorem exec_trayReserve : ∀ s, exec .trayReserve s = execTrayReserve s := fun _ => rfl
theorem exec_reservationRelease : ∀ s, exec .reservationRelease s = execReservationRelease s := fun _ => rfl
theorem exec_placementCommit : ∀ s, exec .placementCommit s = execPlacementCommit s := fun _ => rfl
theorem exec_wakeFlood : ∀ s, exec .wakeFlood s = execWakeFlood s := fun _ => rfl
theorem exec_hartStop : ∀ hart s, exec (.hartStop hart) s = execHartStop hart s := by intros; rfl
theorem exec_forcedStop : ∀ hart s, exec (.forcedStop hart) s = execForcedStop hart s := by intros; rfl
theorem exec_gangSave : ∀ gang s, exec (.gangSave gang) s = execGangSave gang s := by intros; rfl
theorem exec_migration : ∀ hart s, exec (.migration hart) s = execMigration hart s := by intros; rfl
theorem exec_fingerprintExchange : ∀ core s, exec (.fingerprintExchange core) s = execFingerprintExchange core s := by intros; rfl
theorem exec_errorDetected : ∀ unit e s, exec (.errorDetected unit e) s = execErrorDetected unit e s := by intros; rfl
theorem exec_garnetFlush : ∀ s, exec .garnetFlush s = execGarnetFlush s := fun _ => rfl
theorem exec_rollbackRestore : ∀ gang s, exec (.rollbackRestore gang) s = execRollbackRestore gang s := by intros; rfl
theorem exec_functionPublish : ∀ ctx handle fn s, exec (.functionPublish ctx handle fn) s = execFunctionPublish ctx handle fn s := by intros; rfl
theorem exec_peerAccess : ∀ r s, exec (.peerAccess r) s = execPeerAccess r s := by intros; rfl
theorem exec_ccpLaunch : ∀ f rec s, exec (.ccpLaunch f rec) s = execCcpLaunch f rec s := by intros; rfl
theorem exec_ccpCopy : ∀ f dev off len toDevice s, exec (.ccpCopy f dev off len toDevice) s = execCcpCopy f dev off len toDevice s := by intros; rfl
theorem exec_ccpMapBind : ∀ f page buffer s, exec (.ccpMapBind f page buffer) s = execCcpMapBind f page buffer s := by intros; rfl
theorem exec_ccpMapSaveArea : ∀ f base units s, exec (.ccpMapSaveArea f base units) s = execCcpMapSaveArea f base units s := by intros; rfl
theorem exec_ccpMapCodeHeap : ∀ f va pa lines s, exec (.ccpMapCodeHeap f va pa lines) s = execCcpMapCodeHeap f va pa lines s := by intros; rfl
theorem exec_ccpMapCollective : ∀ f bar s, exec (.ccpMapCollective f bar) s = execCcpMapCollective f bar s := by intros; rfl
theorem exec_ccpMapDeviceIndex : ∀ f dev s, exec (.ccpMapDeviceIndex f dev) s = execCcpMapDeviceIndex f dev s := by intros; rfl
theorem exec_ccpLoad : ∀ f obj s, exec (.ccpLoad f obj) s = execCcpLoad f obj s := by intros; rfl
theorem exec_ccpUnload : ∀ f handle forced s, exec (.ccpUnload f handle forced) s = execCcpUnload f handle forced s := by intros; rfl
theorem exec_ccpQuery : ∀ f sub arg s, exec (.ccpQuery f sub arg) s = execCcpQuery f sub arg s := by intros; rfl
theorem exec_ccpTimeSet : ∀ f v s, exec (.ccpTimeSet f v) s = execCcpTimeSet f v s := by intros; rfl
theorem exec_ccpTimeRead : ∀ f s, exec (.ccpTimeRead f) s = execCcpTimeRead f s := by intros; rfl
theorem exec_spdmGetVersion : ∀ f s, exec (.spdmGetVersion f) s = execSpdmGetVersion f s := by intros; rfl
theorem exec_spdmGetCapabilities : ∀ f s, exec (.spdmGetCapabilities f) s = execSpdmGetCapabilities f s := by intros; rfl
theorem exec_spdmNegotiateAlgorithms : ∀ f s, exec (.spdmNegotiateAlgorithms f) s = execSpdmNegotiateAlgorithms f s := by intros; rfl
theorem exec_spdmGetDigests : ∀ f s, exec (.spdmGetDigests f) s = execSpdmGetDigests f s := by intros; rfl
theorem exec_spdmGetCertificate : ∀ f s, exec (.spdmGetCertificate f) s = execSpdmGetCertificate f s := by intros; rfl
theorem exec_spdmChallenge : ∀ f nonce s, exec (.spdmChallenge f nonce) s = execSpdmChallenge f nonce s := by intros; rfl
theorem exec_spdmGetMeasurements : ∀ f index nonce s, exec (.spdmGetMeasurements f index nonce) s = execSpdmGetMeasurements f index nonce s := by intros; rfl
theorem exec_timeSync : ∀ ppm s, exec (.timeSync ppm) s = execTimeSync ppm s := by intros; rfl
theorem exec_linkSignalDetect : ∀ port lanes s, exec (.linkSignalDetect port lanes) s = execLinkSignalDetect port lanes s := by intros; rfl
theorem exec_linkTrainDone : ∀ port lanes s, exec (.linkTrainDone port lanes) s = execLinkTrainDone port lanes s := by intros; rfl
theorem exec_linkTrainFail : ∀ port s, exec (.linkTrainFail port) s = execLinkTrainFail port s := by intros; rfl
theorem exec_linkRetry : ∀ port s, exec (.linkRetry port) s = execLinkRetry port s := by intros; rfl
theorem exec_linkNegotiate : ∀ port agree s, exec (.linkNegotiate port agree) s = execLinkNegotiate port agree s := by intros; rfl
theorem exec_linkDown : ∀ port s, exec (.linkDown port) s = execLinkDown port s := by intros; rfl
theorem exec_reset : ∀ img s, exec (.reset img) s = execReset img s := by intros; rfl
theorem exec_slotOpen : ∀ hart s, exec (.slotOpen hart) s = execSlotOpen hart s := by intros; rfl
theorem exec_powerFailure : ∀ s, exec .powerFailure s = execPowerFailure s := fun _ => rfl
theorem exec_hostPortLinkUp : ∀ port s, exec (.hostPortLinkUp port) s = execHostPortLinkUp port s := by intros; rfl
theorem exec_hostPortLinkDown : ∀ port s, exec (.hostPortLinkDown port) s = execHostPortLinkDown port s := by intros; rfl

end Sys2Proof.Machine
end

