-- ==== Sys2Proof/Laws/Memory.lean ====
section
/-! SUPPORT. The canonical form of memory: every write keeps it, and a read after a write gives what was written there and what was
there elsewhere (log 2). -/

namespace Sys2Proof.Machine

/-- Every location listed lies above k. -/
def Above (k : Nat) (l : List Host.Cell) : Prop := ∀ c ∈ l, k < c.1

theorem memSorted_cons (i : Nat) (x : Byte) (r : List Host.Cell) :
    memSorted ((i, x) :: r) = true ↔ Above i r ∧ x ≠ 0 ∧ memSorted r = true := by
  induction r generalizing i x with
  | nil => simp [memSorted, Above]
  | cons e r ih =>
    obtain ⟨j, y⟩ := e
    simp only [memSorted, Bool.and_eq_true, decide_eq_true_eq, bne_iff_ne]
    constructor
    · rintro ⟨⟨hij, hx⟩, hs⟩
      refine ⟨?_, hx, hs⟩
      intro c hc
      rcases List.mem_cons.mp hc with rfl | hc
      · exact hij
      · exact Nat.lt_trans hij (((ih j y).mp hs).1 c hc)
    · rintro ⟨ha, hx, hs⟩
      exact ⟨⟨ha (j, y) (by simp), hx⟩, hs⟩

/-- A read below every location listed answers 0. -/
theorem mget_above (k : Nat) (l : List Host.Cell) (h : ∀ c ∈ l, k < c.1) : mget l k = 0 := by
  cases l with
  | nil => rfl
  | cons e r =>
    obtain ⟨i, x⟩ := e
    have : k < i := h (i, x) (by simp)
    simp [mget, this, Nat.ne_of_gt this]

theorem mset_above (b k : Nat) (l : List Host.Cell) (x : Byte) (h : Above b l) (hk : b < k) : Above b (mset l k x) := by
  induction l with
  | nil => unfold mset; split <;> simp [Above, hk]
  | cons e r ih =>
    obtain ⟨i, y⟩ := e
    have hi : b < i := h (i, y) (by simp)
    have hr : Above b r := fun c hc => h c (by simp [hc])
    unfold mset
    split
    · split
      · exact hr
      · intro c hc; rcases List.mem_cons.mp hc with rfl | hc
        · exact hk
        · exact hr c hc
    · split
      · split
        · exact h
        · intro c hc; rcases List.mem_cons.mp hc with rfl | hc
          · exact hk
          · exact h c hc
      · intro c hc; rcases List.mem_cons.mp hc with rfl | hc
        · exact hi
        · exact ih hr c hc

/-- A write keeps the canonical form. -/
theorem mset_wf (l : List Host.Cell) (k : Nat) (x : Byte) (h : Memory.wf l = true) : Memory.wf (mset l k x) = true := by
  unfold Memory.wf at *
  induction l with
  | nil =>
    unfold mset; split
    · rfl
    · next hx => simp only [memSorted, bne_iff_ne]; exact hx
  | cons e r ih =>
    obtain ⟨i, y⟩ := e
    obtain ⟨ha, hy, hs⟩ := (memSorted_cons i y r).mp h
    unfold mset
    split
    · next e =>
      subst e
      split
      · exact hs
      · exact (memSorted_cons _ _ _).mpr ⟨ha, ‹_›, hs⟩
    · split
      · next hlt =>
        split
        · exact h
        · refine (memSorted_cons _ _ _).mpr ⟨?_, ‹_›, h⟩
          intro c hc; rcases List.mem_cons.mp hc with rfl | hc
          · exact hlt
          · exact Nat.lt_trans hlt (ha c hc)
      · exact (memSorted_cons _ _ _).mpr ⟨mset_above i k r x ha (by omega), hy, ih hs⟩

/-- Writes of many bytes keep the canonical form. -/
theorem msets_wf (l cells : List Host.Cell) (h : Memory.wf l = true) : Memory.wf (msets l cells) = true := by
  unfold msets
  induction cells generalizing l with
  | nil => exact h
  | cons c r ih => exact ih _ (mset_wf l c.1 c.2 h)

/-- Dropping locations keeps the canonical form. -/
theorem filter_wf (l : List Host.Cell) (p : Host.Cell → Bool) (h : Memory.wf l = true) : Memory.wf (l.filter p) = true := by
  unfold Memory.wf at *
  induction l with
  | nil => rfl
  | cons e r ih =>
    obtain ⟨i, x⟩ := e
    obtain ⟨ha, hx, hs⟩ := (memSorted_cons i x r).mp h
    simp only [List.filter_cons]
    split
    · exact (memSorted_cons _ _ _).mpr ⟨fun c hc => ha c ((List.mem_filter.mp hc).1), hx, ih hs⟩
    · exact ih hs

/-- A read after a write. -/
theorem mget_mset (l : List Host.Cell) (k j : Nat) (x : Byte) (h : Memory.wf l = true) :
    mget (mset l k x) j = if j = k then x else mget l j := by
  unfold Memory.wf at h
  induction l with
  | nil =>
    unfold mset; split
    · next e => subst e; split <;> rfl
    · simp only [mget]
      by_cases hj : j = k
      · subst hj; simp
      · have : ¬ k = j := fun e => hj e.symm
        simp [this, hj]
  | cons e r ih =>
    obtain ⟨i, y⟩ := e
    obtain ⟨ha, hy, hs⟩ := (memSorted_cons i y r).mp h
    unfold mset
    split
    · next e =>
      subst e
      split
      · next hx =>
        by_cases hj : j = i
        · subst hj; simp [mget_above j r ha, hx]
        · have hji : ¬ i = j := fun e => hj e.symm
          simp only [mget, hji, if_false, hj]
          split
          · next hlt => exact mget_above j r fun c hc => Nat.lt_trans hlt (ha c hc)
          · rfl
      · by_cases hj : j = i
        · subst hj; simp [mget]
        · have hji : ¬ i = j := fun e => hj e.symm
          simp [mget, hji, hj]
    · next hik =>
      split
      · next hlt =>
        split
        · next hx =>
          by_cases hj : j = k
          · subst hj; simp [mget, hik, hlt, hx]
          · simp [hj]
        · by_cases hj : j = k
          · subst hj; simp [mget]
          · have hkj : ¬ k = j := fun e => hj e.symm
            simp only [mget, hkj, if_false, hj]
            split
            · next h1 =>
              have : ¬ i = j := by omega
              have h2 : j < i := by omega
              simp [this, h2]
            · rfl
      · next hge =>
        have hki : i < k := by omega
        by_cases hij : i = j
        · subst hij
          have : ¬ i = k := hik
          simp [mget, this]
        · simp only [mget, hij, if_false]
          by_cases hji : j < i
          · have : ¬ j = k := by omega
            simp [hji, this]
          · simp only [hji, if_false]; exact ih hs

/-- A read after writes of distinct locations: the byte written there, else what was there. -/
theorem mget_msets_not (l cells : List Host.Cell) (j : Nat) (h : Memory.wf l = true) (hj : ∀ c ∈ cells, c.1 ≠ j) :
    mget (msets l cells) j = mget l j := by
  unfold msets
  induction cells generalizing l with
  | nil => rfl
  | cons c r ih =>
    have hc : ¬ j = c.1 := fun e => hj c (by simp) e.symm
    rw [List.foldl_cons, ih _ (mset_wf l c.1 c.2 h) fun d hd => hj d (by simp [hd]), mget_mset l c.1 j c.2 h]
    simp [hc]

theorem mget_msets_mem (l cells : List Host.Cell) (c : Host.Cell) (h : Memory.wf l = true) (hn : (cells.map (·.1)).Nodup) (hc : c ∈ cells) :
    mget (msets l cells) c.1 = c.2 := by
  unfold msets
  induction cells generalizing l with
  | nil => simp at hc
  | cons d r ih =>
    simp only [List.map_cons, List.nodup_cons] at hn
    rcases List.mem_cons.mp hc with rfl | hc
    · have := mget_msets_not (mset l c.1 c.2) r c.1 (mset_wf l c.1 c.2 h) fun e he e' => hn.1 (e' ▸ List.mem_map_of_mem he)
      unfold msets at this
      rw [List.foldl_cons, this, mget_mset l c.1 c.1 c.2 h]
      simp
    · rw [List.foldl_cons]
      exact ih _ (mset_wf l d.1 d.2 h) hn.2 hc

end Sys2Proof.Machine
end

