-- ==== Sys2Proof/Laws/PerInstr.lean ====
section
/-! SUPPORT. The fields of every instruction's words fit their places: the bound of each field of the head, and of the tail by its major
(09 R194, R195). One lemma per instruction. -/

namespace Sys2Proof

theorem b2n_le (b : Bool) : b2n b ≤ 1 := by cases b <;> decide

theorem memTail_lt (o : Bool) (sz : Fin 8) (off : BitVec 12) : memTail o sz off < 65536 := by
  have := b2n_le o; have := off.isLt; unfold memTail; omega

theorem amoTail_lt (op : Nat) (w : Bool) (c : CReg) (h : op < 16) : amoTail op w c < 65536 := by
  have := b2n_le w; unfold amoTail; omega

theorem vecTail_lt (o : VOp) : vecTail o < 4294967296 := by
  have := b2n_le o.ag; have := b2n_le o.me; unfold vecTail; omega

theorem copyTail_lt (o : CopyOp) (mc : Nat) (h : mc < 2) : copyTail o mc < 4294967296 := by
  have := b2n_le o.fac; unfold copyTail; omega

theorem mmaTail_lt (o : MmaOp) : mmaTail o < 18446744073709551616 := by
  have := b2n_le o.kpReassoc; have := b2n_le o.kpRound; have := b2n_le o.tok; have := b2n_le o.sp; have := b2n_le o.fc
  have := b2n_le o.acc; have := b2n_le o.tb; have := b2n_le o.ta
  unfold mmaTail; omega

end Sys2Proof

namespace Sys2Proof.Laws.WordFits

/-- The fields of the head and the tail of an instruction lie in their ranges. -/
def Statement (i : Instr) : Prop :=
  ∀ r, rawOf i = some r → r.s < 4 ∧ r.maj < 64 ∧ r.a < 16 ∧ r.b < 16 ∧ r.tail < 2 ^ (16 * tailLen r.maj)

/-- An event has no words. -/
theorem of_none (i : Instr) (h : rawOf i = none) : Statement i := by intro r e; rw [h] at e; simp at e

/-- What has to hold of the fields of an instruction's words. -/
theorem of_some (i : Instr) (s m a b t : Nat) (h : rawOf i = some ⟨s, m, a, b, t⟩) (hs : s < 4) (hm : m < 64) (ha : a < 16) (hb : b < 16)
    (ht : t < 2 ^ (16 * tailLen m)) : Statement i := by
  intro r e; rw [h] at e; cases e; exact ⟨hs, hm, ha, hb, ht⟩

theorem addCompact (s : Fin 4) (a : CReg) (b : CReg) : Statement (.addCompact s a b) :=
  of_some _ _ _ _ _ _ rfl (by omega) (by omega) (by omega) (by omega) (by decide)
theorem subCompact (s : Fin 4) (a : CReg) (b : CReg) : Statement (.subCompact s a b) :=
  of_some _ _ _ _ _ _ rfl (by omega) (by omega) (by omega) (by omega) (by decide)
theorem andCompact (s : Fin 4) (a : CReg) (b : CReg) : Statement (.andCompact s a b) :=
  of_some _ _ _ _ _ _ rfl (by omega) (by omega) (by omega) (by omega) (by decide)
theorem orCompact (s : Fin 4) (a : CReg) (b : CReg) : Statement (.orCompact s a b) :=
  of_some _ _ _ _ _ _ rfl (by omega) (by omega) (by omega) (by omega) (by decide)
theorem xorCompact (s : Fin 4) (a : CReg) (b : CReg) : Statement (.xorCompact s a b) :=
  of_some _ _ _ _ _ _ rfl (by omega) (by omega) (by omega) (by omega) (by decide)
theorem mov (s : Fin 4) (a : CReg) (b : CReg) : Statement (.mov s a b) :=
  of_some _ _ _ _ _ _ rfl (by omega) (by omega) (by omega) (by omega) (by decide)
theorem mulCompact (s : Fin 4) (a : CReg) (b : CReg) : Statement (.mulCompact s a b) :=
  of_some _ _ _ _ _ _ rfl (by omega) (by omega) (by omega) (by omega) (by decide)
theorem shlCompact (s : Fin 4) (a : CReg) (b : CReg) : Statement (.shlCompact s a b) :=
  of_some _ _ _ _ _ _ rfl (by omega) (by omega) (by omega) (by omega) (by decide)
theorem add (s : Fin 4) (a : CReg) (b : CReg) (c : CReg) : Statement (.add s a b c) :=
  of_some _ _ _ _ _ _ rfl (by omega) (by omega) (by omega) (by omega) (show _ < 65536 by unfold regTail; omega)
theorem sub (s : Fin 4) (a : CReg) (b : CReg) (c : CReg) : Statement (.sub s a b c) :=
  of_some _ _ _ _ _ _ rfl (by omega) (by omega) (by omega) (by omega) (show _ < 65536 by unfold regTail; omega)
theorem and (s : Fin 4) (a : CReg) (b : CReg) (c : CReg) : Statement (.and s a b c) :=
  of_some _ _ _ _ _ _ rfl (by omega) (by omega) (by omega) (by omega) (show _ < 65536 by unfold regTail; omega)
theorem or (s : Fin 4) (a : CReg) (b : CReg) (c : CReg) : Statement (.or s a b c) :=
  of_some _ _ _ _ _ _ rfl (by omega) (by omega) (by omega) (by omega) (show _ < 65536 by unfold regTail; omega)
theorem xor (s : Fin 4) (a : CReg) (b : CReg) (c : CReg) : Statement (.xor s a b c) :=
  of_some _ _ _ _ _ _ rfl (by omega) (by omega) (by omega) (by omega) (show _ < 65536 by unfold regTail; omega)
theorem andn (s : Fin 4) (a : CReg) (b : CReg) (c : CReg) : Statement (.andn s a b c) :=
  of_some _ _ _ _ _ _ rfl (by omega) (by omega) (by omega) (by omega) (show _ < 65536 by unfold regTail; omega)
theorem shl (s : Fin 4) (a : CReg) (b : CReg) (c : CReg) : Statement (.shl s a b c) :=
  of_some _ _ _ _ _ _ rfl (by omega) (by omega) (by omega) (by omega) (show _ < 65536 by unfold regTail; omega)
theorem shr (s : Fin 4) (a : CReg) (b : CReg) (c : CReg) : Statement (.shr s a b c) :=
  of_some _ _ _ _ _ _ rfl (by omega) (by omega) (by omega) (by omega) (show _ < 65536 by unfold regTail; omega)
theorem sar (s : Fin 4) (a : CReg) (b : CReg) (c : CReg) : Statement (.sar s a b c) :=
  of_some _ _ _ _ _ _ rfl (by omega) (by omega) (by omega) (by omega) (show _ < 65536 by unfold regTail; omega)
theorem ror (s : Fin 4) (a : CReg) (b : CReg) (c : CReg) : Statement (.ror s a b c) :=
  of_some _ _ _ _ _ _ rfl (by omega) (by omega) (by omega) (by omega) (show _ < 65536 by unfold regTail; omega)
theorem mul (s : Fin 4) (a : CReg) (b : CReg) (c : CReg) : Statement (.mul s a b c) :=
  of_some _ _ _ _ _ _ rfl (by omega) (by omega) (by omega) (by omega) (show _ < 65536 by unfold regTail; omega)
theorem mulh (s : Fin 4) (a : CReg) (b : CReg) (c : CReg) : Statement (.mulh s a b c) :=
  of_some _ _ _ _ _ _ rfl (by omega) (by omega) (by omega) (by omega) (show _ < 65536 by unfold regTail; omega)
theorem mulhu (s : Fin 4) (a : CReg) (b : CReg) (c : CReg) : Statement (.mulhu s a b c) :=
  of_some _ _ _ _ _ _ rfl (by omega) (by omega) (by omega) (by omega) (show _ < 65536 by unfold regTail; omega)
theorem mulhsu (s : Fin 4) (a : CReg) (b : CReg) (c : CReg) : Statement (.mulhsu s a b c) :=
  of_some _ _ _ _ _ _ rfl (by omega) (by omega) (by omega) (by omega) (show _ < 65536 by unfold regTail; omega)
theorem div (s : Fin 4) (a : CReg) (b : CReg) (c : CReg) : Statement (.div s a b c) :=
  of_some _ _ _ _ _ _ rfl (by omega) (by omega) (by omega) (by omega) (show _ < 65536 by unfold regTail; omega)
theorem divu (s : Fin 4) (a : CReg) (b : CReg) (c : CReg) : Statement (.divu s a b c) :=
  of_some _ _ _ _ _ _ rfl (by omega) (by omega) (by omega) (by omega) (show _ < 65536 by unfold regTail; omega)
theorem rem (s : Fin 4) (a : CReg) (b : CReg) (c : CReg) : Statement (.rem s a b c) :=
  of_some _ _ _ _ _ _ rfl (by omega) (by omega) (by omega) (by omega) (show _ < 65536 by unfold regTail; omega)
theorem remu (s : Fin 4) (a : CReg) (b : CReg) (c : CReg) : Statement (.remu s a b c) :=
  of_some _ _ _ _ _ _ rfl (by omega) (by omega) (by omega) (by omega) (show _ < 65536 by unfold regTail; omega)
theorem min (s : Fin 4) (a : CReg) (b : CReg) (c : CReg) : Statement (.min s a b c) :=
  of_some _ _ _ _ _ _ rfl (by omega) (by omega) (by omega) (by omega) (show _ < 65536 by unfold regTail; omega)
theorem max (s : Fin 4) (a : CReg) (b : CReg) (c : CReg) : Statement (.max s a b c) :=
  of_some _ _ _ _ _ _ rfl (by omega) (by omega) (by omega) (by omega) (show _ < 65536 by unfold regTail; omega)
theorem minu (s : Fin 4) (a : CReg) (b : CReg) (c : CReg) : Statement (.minu s a b c) :=
  of_some _ _ _ _ _ _ rfl (by omega) (by omega) (by omega) (by omega) (show _ < 65536 by unfold regTail; omega)
theorem maxu (s : Fin 4) (a : CReg) (b : CReg) (c : CReg) : Statement (.maxu s a b c) :=
  of_some _ _ _ _ _ _ rfl (by omega) (by omega) (by omega) (by omega) (show _ < 65536 by unfold regTail; omega)
theorem seq (s : Fin 4) (a : CReg) (b : CReg) (c : CReg) : Statement (.seq s a b c) :=
  of_some _ _ _ _ _ _ rfl (by omega) (by omega) (by omega) (by omega) (show _ < 65536 by unfold regTail; omega)
theorem sne (s : Fin 4) (a : CReg) (b : CReg) (c : CReg) : Statement (.sne s a b c) :=
  of_some _ _ _ _ _ _ rfl (by omega) (by omega) (by omega) (by omega) (show _ < 65536 by unfold regTail; omega)
theorem slt (s : Fin 4) (a : CReg) (b : CReg) (c : CReg) : Statement (.slt s a b c) :=
  of_some _ _ _ _ _ _ rfl (by omega) (by omega) (by omega) (by omega) (show _ < 65536 by unfold regTail; omega)
theorem sltu (s : Fin 4) (a : CReg) (b : CReg) (c : CReg) : Statement (.sltu s a b c) :=
  of_some _ _ _ _ _ _ rfl (by omega) (by omega) (by omega) (by omega) (show _ < 65536 by unfold regTail; omega)
theorem selnz (s : Fin 4) (a : CReg) (b : CReg) (c : CReg) : Statement (.selnz s a b c) :=
  of_some _ _ _ _ _ _ rfl (by omega) (by omega) (by omega) (by omega) (show _ < 65536 by unfold regTail; omega)
theorem selz (s : Fin 4) (a : CReg) (b : CReg) (c : CReg) : Statement (.selz s a b c) :=
  of_some _ _ _ _ _ _ rfl (by omega) (by omega) (by omega) (by omega) (show _ < 65536 by unfold regTail; omega)
theorem clz (s : Fin 4) (a : CReg) (b : CReg) : Statement (.clz s a b) :=
  of_some _ _ _ _ _ _ rfl (by omega) (by omega) (by omega) (by omega) (by decide)
theorem ctz (s : Fin 4) (a : CReg) (b : CReg) : Statement (.ctz s a b) :=
  of_some _ _ _ _ _ _ rfl (by omega) (by omega) (by omega) (by omega) (by decide)
theorem popc (s : Fin 4) (a : CReg) (b : CReg) : Statement (.popc s a b) :=
  of_some _ _ _ _ _ _ rfl (by omega) (by omega) (by omega) (by omega) (by decide)
theorem bswap (s : Fin 4) (a : CReg) (b : CReg) : Statement (.bswap s a b) :=
  of_some _ _ _ _ _ _ rfl (by omega) (by omega) (by omega) (by omega) (by decide)
theorem li16 (s : Fin 4) (a : CReg) (imm : BitVec 16) : Statement (.li16 s a imm) :=
  of_some _ _ _ _ _ _ rfl (by omega) (by omega) (by omega) (by omega) imm.isLt
theorem li32 (s : Fin 4) (a : CReg) (imm : BitVec 32) : Statement (.li32 s a imm) :=
  of_some _ _ _ _ _ _ rfl (by omega) (by omega) (by omega) (by omega) imm.isLt
theorem li64 (s : Fin 4) (a : CReg) (imm : BitVec 64) : Statement (.li64 s a imm) :=
  of_some _ _ _ _ _ _ rfl (by omega) (by omega) (by omega) (by omega) imm.isLt
theorem addi16 (s : Fin 4) (a : CReg) (b : CReg) (imm : BitVec 16) : Statement (.addi16 s a b imm) :=
  of_some _ _ _ _ _ _ rfl (by omega) (by omega) (by omega) (by omega) imm.isLt
theorem addi32 (s : Fin 4) (a : CReg) (b : CReg) (imm : BitVec 32) : Statement (.addi32 s a b imm) :=
  of_some _ _ _ _ _ _ rfl (by omega) (by omega) (by omega) (by omega) imm.isLt
theorem caddReg (s : Fin 4) (a : CReg) (b : CReg) (c : CReg) : Statement (.caddReg s a b c) :=
  of_some _ _ _ _ _ _ rfl (by omega) (by omega) (by omega) (by omega) (show _ < 65536 by unfold regTail; omega)
theorem cadd16 (s : Fin 4) (a : CReg) (b : CReg) (imm : BitVec 16) : Statement (.cadd16 s a b imm) :=
  of_some _ _ _ _ _ _ rfl (by omega) (by omega) (by omega) (by omega) imm.isLt
theorem cadd32 (s : Fin 4) (a : CReg) (b : CReg) (imm : BitVec 32) : Statement (.cadd32 s a b imm) :=
  of_some _ _ _ _ _ _ rfl (by omega) (by omega) (by omega) (by omega) imm.isLt
theorem ld (s : Fin 4) (a : CReg) (b : CReg) (ord : Bool) (sz : Fin 8) (off : BitVec 12) : Statement (.ld s a b ord sz off) :=
  of_some _ _ _ _ _ _ rfl (by omega) (by omega) (by omega) (by omega) (memTail_lt ..)
theorem st (s : Fin 4) (a : CReg) (b : CReg) (ord : Bool) (sz : Fin 8) (off : BitVec 12) : Statement (.st s a b ord sz off) :=
  of_some _ _ _ _ _ _ rfl (by omega) (by omega) (by omega) (by omega) (memTail_lt ..)
theorem ldFar (s : Fin 4) (a : CReg) (b : CReg) (ord : Bool) (sz : Fin 8) (off : BitVec 12) : Statement (.ldFar s a b ord sz off) :=
  of_some _ _ _ _ _ _ rfl (by omega) (by omega) (by omega) (by omega) (memTail_lt ..)
theorem stFar (s : Fin 4) (a : CReg) (b : CReg) (ord : Bool) (sz : Fin 8) (off : BitVec 12) : Statement (.stFar s a b ord sz off) :=
  of_some _ _ _ _ _ _ rfl (by omega) (by omega) (by omega) (by omega) (memTail_lt ..)
theorem amoAdd (s : Fin 4) (a : CReg) (b : CReg) (w : Bool) (c : CReg) : Statement (.amoAdd s a b w c) :=
  of_some _ _ _ _ _ _ rfl (by omega) (by omega) (by omega) (by omega) (amoTail_lt _ _ _ (by omega))
theorem amoAnd (s : Fin 4) (a : CReg) (b : CReg) (w : Bool) (c : CReg) : Statement (.amoAnd s a b w c) :=
  of_some _ _ _ _ _ _ rfl (by omega) (by omega) (by omega) (by omega) (amoTail_lt _ _ _ (by omega))
theorem amoOr (s : Fin 4) (a : CReg) (b : CReg) (w : Bool) (c : CReg) : Statement (.amoOr s a b w c) :=
  of_some _ _ _ _ _ _ rfl (by omega) (by omega) (by omega) (by omega) (amoTail_lt _ _ _ (by omega))
theorem amoXor (s : Fin 4) (a : CReg) (b : CReg) (w : Bool) (c : CReg) : Statement (.amoXor s a b w c) :=
  of_some _ _ _ _ _ _ rfl (by omega) (by omega) (by omega) (by omega) (amoTail_lt _ _ _ (by omega))
theorem amoSmin (s : Fin 4) (a : CReg) (b : CReg) (w : Bool) (c : CReg) : Statement (.amoSmin s a b w c) :=
  of_some _ _ _ _ _ _ rfl (by omega) (by omega) (by omega) (by omega) (amoTail_lt _ _ _ (by omega))
theorem amoSmax (s : Fin 4) (a : CReg) (b : CReg) (w : Bool) (c : CReg) : Statement (.amoSmax s a b w c) :=
  of_some _ _ _ _ _ _ rfl (by omega) (by omega) (by omega) (by omega) (amoTail_lt _ _ _ (by omega))
theorem amoUmin (s : Fin 4) (a : CReg) (b : CReg) (w : Bool) (c : CReg) : Statement (.amoUmin s a b w c) :=
  of_some _ _ _ _ _ _ rfl (by omega) (by omega) (by omega) (by omega) (amoTail_lt _ _ _ (by omega))
theorem amoUmax (s : Fin 4) (a : CReg) (b : CReg) (w : Bool) (c : CReg) : Statement (.amoUmax s a b w c) :=
  of_some _ _ _ _ _ _ rfl (by omega) (by omega) (by omega) (by omega) (amoTail_lt _ _ _ (by omega))
theorem amoSwap (s : Fin 4) (a : CReg) (b : CReg) (w : Bool) (c : CReg) : Statement (.amoSwap s a b w c) :=
  of_some _ _ _ _ _ _ rfl (by omega) (by omega) (by omega) (by omega) (amoTail_lt _ _ _ (by omega))
theorem amoCadd (s : Fin 4) (a : CReg) (b : CReg) (w : Bool) (c : CReg) : Statement (.amoCadd s a b w c) :=
  of_some _ _ _ _ _ _ rfl (by omega) (by omega) (by omega) (by omega) (amoTail_lt _ _ _ (by omega))
theorem amoBadd (s : Fin 4) (a : CReg) (b : CReg) (w : Bool) (c : CReg) : Statement (.amoBadd s a b w c) :=
  of_some _ _ _ _ _ _ rfl (by omega) (by omega) (by omega) (by omega) (amoTail_lt _ _ _ (by omega))
theorem cas (s : Fin 4) (a : CReg) (b : CReg) (w : Bool) (c : CReg) : Statement (.cas s a b w c) :=
  of_some _ _ _ _ _ _ rfl (by omega) (by omega) (by omega) (by omega) (amoTail_lt _ _ _ (by omega))
theorem fence (s : Fin 4) (mask : Fin 16) (scope : Fin 4) : Statement (.fence s mask scope) :=
  of_some _ _ _ _ _ _ rfl (by omega) (by omega) (by omega) (by omega) (show _ < 65536 by omega)
theorem fenceE (s : Fin 4) : Statement (.fenceE s) :=
  of_some _ _ _ _ _ _ rfl (by omega) (by omega) (by omega) (by omega) (by decide)
theorem fenceI (s : Fin 4) : Statement (.fenceI s) :=
  of_some _ _ _ _ _ _ rfl (by omega) (by omega) (by omega) (by omega) (by decide)
theorem beq (s : Fin 4) (a : CReg) (b : CReg) (idx : Fin 32) (disp : BitVec 11) : Statement (.beq s a b idx disp) :=
  of_some _ _ _ _ _ _ rfl (by omega) (by omega) (by omega) (by omega) (show _ < 65536 by have := disp.isLt; omega)
theorem bne (s : Fin 4) (a : CReg) (b : CReg) (idx : Fin 32) (disp : BitVec 11) : Statement (.bne s a b idx disp) :=
  of_some _ _ _ _ _ _ rfl (by omega) (by omega) (by omega) (by omega) (show _ < 65536 by have := disp.isLt; omega)
theorem blt (s : Fin 4) (a : CReg) (b : CReg) (idx : Fin 32) (disp : BitVec 11) : Statement (.blt s a b idx disp) :=
  of_some _ _ _ _ _ _ rfl (by omega) (by omega) (by omega) (by omega) (show _ < 65536 by have := disp.isLt; omega)
theorem bge (s : Fin 4) (a : CReg) (b : CReg) (idx : Fin 32) (disp : BitVec 11) : Statement (.bge s a b idx disp) :=
  of_some _ _ _ _ _ _ rfl (by omega) (by omega) (by omega) (by omega) (show _ < 65536 by have := disp.isLt; omega)
theorem bltu (s : Fin 4) (a : CReg) (b : CReg) (idx : Fin 32) (disp : BitVec 11) : Statement (.bltu s a b idx disp) :=
  of_some _ _ _ _ _ _ rfl (by omega) (by omega) (by omega) (by omega) (show _ < 65536 by have := disp.isLt; omega)
theorem bgeu (s : Fin 4) (a : CReg) (b : CReg) (idx : Fin 32) (disp : BitVec 11) : Statement (.bgeu s a b idx disp) :=
  of_some _ _ _ _ _ _ rfl (by omega) (by omega) (by omega) (by omega) (show _ < 65536 by have := disp.isLt; omega)
theorem jal (s : Fin 4) (a : CReg) (disp : BitVec 27) (idx : Fin 32) : Statement (.jal s a disp idx) :=
  of_some _ _ _ _ _ _ rfl (by omega) (by omega) (by omega) (by omega) (show _ < 4294967296 by have := disp.isLt; omega)
theorem jr (s : Fin 4) (a : CReg) (b : CReg) : Statement (.jr s a b) :=
  of_some _ _ _ _ _ _ rfl (by omega) (by omega) (by omega) (by omega) (by decide)
theorem brTok (s : Fin 4) (q : QReg) : Statement (.brTok s q) :=
  of_some _ _ _ _ _ _ rfl (by omega) (by omega) (by omega) (by omega) (by decide)
theorem cnarrow (s : Fin 4) (a : CReg) (b : CReg) (c : CReg) : Statement (.cnarrow s a b c) :=
  of_some _ _ _ _ _ _ rfl (by omega) (by omega) (by omega) (by omega) (show _ < 65536 by unfold regTail; omega)
theorem cnarrowX (s : Fin 4) (a : CReg) (b : CReg) (c : CReg) : Statement (.cnarrowX s a b c) :=
  of_some _ _ _ _ _ _ rfl (by omega) (by omega) (by omega) (by omega) (show _ < 65536 by unfold regTail; omega)
theorem cdrop (s : Fin 4) (a : CReg) (b : CReg) (c : CReg) : Statement (.cdrop s a b c) :=
  of_some _ _ _ _ _ _ rfl (by omega) (by omega) (by omega) (by omega) (show _ < 65536 by unfold regTail; omega)
theorem cfmt (s : Fin 4) (a : CReg) (b : CReg) (blog : Fin 8) (fmt : Fin 32) : Statement (.cfmt s a b blog fmt) :=
  of_some _ _ _ _ _ _ rfl (by omega) (by omega) (by omega) (by omega) (show _ < 65536 by omega)
theorem creadBase (s : Fin 4) (a : CReg) (b : CReg) : Statement (.creadBase s a b) :=
  of_some _ _ _ _ _ _ rfl (by omega) (by omega) (by omega) (by omega) (by decide)
theorem creadTop (s : Fin 4) (a : CReg) (b : CReg) : Statement (.creadTop s a b) :=
  of_some _ _ _ _ _ _ rfl (by omega) (by omega) (by omega) (by omega) (by decide)
theorem creadLen (s : Fin 4) (a : CReg) (b : CReg) : Statement (.creadLen s a b) :=
  of_some _ _ _ _ _ _ rfl (by omega) (by omega) (by omega) (by omega) (by decide)
theorem creadPerm (s : Fin 4) (a : CReg) (b : CReg) : Statement (.creadPerm s a b) :=
  of_some _ _ _ _ _ _ rfl (by omega) (by omega) (by omega) (by omega) (by decide)
theorem creadFmt (s : Fin 4) (a : CReg) (b : CReg) : Statement (.creadFmt s a b) :=
  of_some _ _ _ _ _ _ rfl (by omega) (by omega) (by omega) (by omega) (by decide)
theorem creadBlog (s : Fin 4) (a : CReg) (b : CReg) : Statement (.creadBlog s a b) :=
  of_some _ _ _ _ _ _ rfl (by omega) (by omega) (by omega) (by omega) (by decide)
theorem creadTag (s : Fin 4) (a : CReg) (b : CReg) : Statement (.creadTag s a b) :=
  of_some _ _ _ _ _ _ rfl (by omega) (by omega) (by omega) (by omega) (by decide)
theorem creadShut (s : Fin 4) (a : CReg) (b : CReg) : Statement (.creadShut s a b) :=
  of_some _ _ _ _ _ _ rfl (by omega) (by omega) (by omega) (by omega) (by decide)
theorem creadMeta (s : Fin 4) (a : CReg) (b : CReg) : Statement (.creadMeta s a b) :=
  of_some _ _ _ _ _ _ rfl (by omega) (by omega) (by omega) (by omega) (by decide)
theorem cshut (s : Fin 4) (a : CReg) (b : CReg) : Statement (.cshut s a b) :=
  of_some _ _ _ _ _ _ rfl (by omega) (by omega) (by omega) (by omega) (by decide)
theorem copen (s : Fin 4) (a : CReg) (b : CReg) : Statement (.copen s a b) :=
  of_some _ _ _ _ _ _ rfl (by omega) (by omega) (by omega) (by omega) (by decide)
theorem cmint (s : Fin 4) (a : CReg) (b : CReg) : Statement (.cmint s a b) :=
  of_some _ _ _ _ _ _ rfl (by omega) (by omega) (by omega) (by omega) (by decide)
theorem cclone (s : Fin 4) (a : CReg) (b : CReg) : Statement (.cclone s a b) :=
  of_some _ _ _ _ _ _ rfl (by omega) (by omega) (by omega) (by omega) (by decide)
theorem cwithin (s : Fin 4) (a : CReg) (b : CReg) (c : CReg) : Statement (.cwithin s a b c) :=
  of_some _ _ _ _ _ _ rfl (by omega) (by omega) (by omega) (by omega) (show _ < 65536 by unfold regTail; omega)
theorem vadd (o : VOp) : Statement (.vadd o) :=
  of_some _ _ _ _ _ _ rfl (by omega) (by omega) (by omega) (by omega) (vecTail_lt o)
theorem vsub (o : VOp) : Statement (.vsub o) :=
  of_some _ _ _ _ _ _ rfl (by omega) (by omega) (by omega) (by omega) (vecTail_lt o)
theorem vmul (o : VOp) : Statement (.vmul o) :=
  of_some _ _ _ _ _ _ rfl (by omega) (by omega) (by omega) (by omega) (vecTail_lt o)
theorem vmulh (o : VOp) : Statement (.vmulh o) :=
  of_some _ _ _ _ _ _ rfl (by omega) (by omega) (by omega) (by omega) (vecTail_lt o)
theorem vmin (o : VOp) : Statement (.vmin o) :=
  of_some _ _ _ _ _ _ rfl (by omega) (by omega) (by omega) (by omega) (vecTail_lt o)
theorem vmax (o : VOp) : Statement (.vmax o) :=
  of_some _ _ _ _ _ _ rfl (by omega) (by omega) (by omega) (by omega) (vecTail_lt o)
theorem vabs (o : VOp) : Statement (.vabs o) :=
  of_some _ _ _ _ _ _ rfl (by omega) (by omega) (by omega) (by omega) (vecTail_lt o)
theorem vneg (o : VOp) : Statement (.vneg o) :=
  of_some _ _ _ _ _ _ rfl (by omega) (by omega) (by omega) (by omega) (vecTail_lt o)
theorem vaddSat (o : VOp) : Statement (.vaddSat o) :=
  of_some _ _ _ _ _ _ rfl (by omega) (by omega) (by omega) (by omega) (vecTail_lt o)
theorem vsubSat (o : VOp) : Statement (.vsubSat o) :=
  of_some _ _ _ _ _ _ rfl (by omega) (by omega) (by omega) (by omega) (vecTail_lt o)
theorem vabsSat (o : VOp) : Statement (.vabsSat o) :=
  of_some _ _ _ _ _ _ rfl (by omega) (by omega) (by omega) (by omega) (vecTail_lt o)
theorem vand (o : VOp) : Statement (.vand o) :=
  of_some _ _ _ _ _ _ rfl (by omega) (by omega) (by omega) (by omega) (vecTail_lt o)
theorem vor (o : VOp) : Statement (.vor o) :=
  of_some _ _ _ _ _ _ rfl (by omega) (by omega) (by omega) (by omega) (vecTail_lt o)
theorem vxor (o : VOp) : Statement (.vxor o) :=
  of_some _ _ _ _ _ _ rfl (by omega) (by omega) (by omega) (by omega) (vecTail_lt o)
theorem vandn (o : VOp) : Statement (.vandn o) :=
  of_some _ _ _ _ _ _ rfl (by omega) (by omega) (by omega) (by omega) (vecTail_lt o)
theorem vshl (o : VOp) : Statement (.vshl o) :=
  of_some _ _ _ _ _ _ rfl (by omega) (by omega) (by omega) (by omega) (vecTail_lt o)
theorem vshr (o : VOp) : Statement (.vshr o) :=
  of_some _ _ _ _ _ _ rfl (by omega) (by omega) (by omega) (by omega) (vecTail_lt o)
theorem vsar (o : VOp) : Statement (.vsar o) :=
  of_some _ _ _ _ _ _ rfl (by omega) (by omega) (by omega) (by omega) (vecTail_lt o)
theorem vshli (o : VOp) : Statement (.vshli o) :=
  of_some _ _ _ _ _ _ rfl (by omega) (by omega) (by omega) (by omega) (vecTail_lt o)
theorem vshri (o : VOp) : Statement (.vshri o) :=
  of_some _ _ _ _ _ _ rfl (by omega) (by omega) (by omega) (by omega) (vecTail_lt o)
theorem vsari (o : VOp) : Statement (.vsari o) :=
  of_some _ _ _ _ _ _ rfl (by omega) (by omega) (by omega) (by omega) (vecTail_lt o)
theorem vfadd (o : VOp) : Statement (.vfadd o) :=
  of_some _ _ _ _ _ _ rfl (by omega) (by omega) (by omega) (by omega) (vecTail_lt o)
theorem vfsub (o : VOp) : Statement (.vfsub o) :=
  of_some _ _ _ _ _ _ rfl (by omega) (by omega) (by omega) (by omega) (vecTail_lt o)
theorem vfmul (o : VOp) : Statement (.vfmul o) :=
  of_some _ _ _ _ _ _ rfl (by omega) (by omega) (by omega) (by omega) (vecTail_lt o)
theorem vfmin (o : VOp) : Statement (.vfmin o) :=
  of_some _ _ _ _ _ _ rfl (by omega) (by omega) (by omega) (by omega) (vecTail_lt o)
theorem vfmax (o : VOp) : Statement (.vfmax o) :=
  of_some _ _ _ _ _ _ rfl (by omega) (by omega) (by omega) (by omega) (vecTail_lt o)
theorem vfabs (o : VOp) : Statement (.vfabs o) :=
  of_some _ _ _ _ _ _ rfl (by omega) (by omega) (by omega) (by omega) (vecTail_lt o)
theorem vfneg (o : VOp) : Statement (.vfneg o) :=
  of_some _ _ _ _ _ _ rfl (by omega) (by omega) (by omega) (by omega) (vecTail_lt o)
theorem vfdiv (o : VOp) : Statement (.vfdiv o) :=
  of_some _ _ _ _ _ _ rfl (by omega) (by omega) (by omega) (by omega) (vecTail_lt o)
theorem vfsqrt (o : VOp) : Statement (.vfsqrt o) :=
  of_some _ _ _ _ _ _ rfl (by omega) (by omega) (by omega) (by omega) (vecTail_lt o)
theorem vfma (o : VOp) : Statement (.vfma o) :=
  of_some _ _ _ _ _ _ rfl (by omega) (by omega) (by omega) (by omega) (vecTail_lt o)
theorem vfms (o : VOp) : Statement (.vfms o) :=
  of_some _ _ _ _ _ _ rfl (by omega) (by omega) (by omega) (by omega) (vecTail_lt o)
theorem vfnma (o : VOp) : Statement (.vfnma o) :=
  of_some _ _ _ _ _ _ rfl (by omega) (by omega) (by omega) (by omega) (vecTail_lt o)
theorem vcmul (o : VOp) : Statement (.vcmul o) :=
  of_some _ _ _ _ _ _ rfl (by omega) (by omega) (by omega) (by omega) (vecTail_lt o)
theorem vcmac (o : VOp) : Statement (.vcmac o) :=
  of_some _ _ _ _ _ _ rfl (by omega) (by omega) (by omega) (by omega) (vecTail_lt o)
theorem vcmulj (o : VOp) : Statement (.vcmulj o) :=
  of_some _ _ _ _ _ _ rfl (by omega) (by omega) (by omega) (by omega) (vecTail_lt o)
theorem vcmacj (o : VOp) : Statement (.vcmacj o) :=
  of_some _ _ _ _ _ _ rfl (by omega) (by omega) (by omega) (by omega) (vecTail_lt o)
theorem vcconj (o : VOp) : Statement (.vcconj o) :=
  of_some _ _ _ _ _ _ rfl (by omega) (by omega) (by omega) (by omega) (vecTail_lt o)
theorem vcmpEq (o : VOp) : Statement (.vcmpEq o) :=
  of_some _ _ _ _ _ _ rfl (by omega) (by omega) (by omega) (by omega) (vecTail_lt o)
theorem vcmpNe (o : VOp) : Statement (.vcmpNe o) :=
  of_some _ _ _ _ _ _ rfl (by omega) (by omega) (by omega) (by omega) (vecTail_lt o)
theorem vcmpLt (o : VOp) : Statement (.vcmpLt o) :=
  of_some _ _ _ _ _ _ rfl (by omega) (by omega) (by omega) (by omega) (vecTail_lt o)
theorem vcmpLe (o : VOp) : Statement (.vcmpLe o) :=
  of_some _ _ _ _ _ _ rfl (by omega) (by omega) (by omega) (by omega) (vecTail_lt o)
theorem vsel (o : VOp) : Statement (.vsel o) :=
  of_some _ _ _ _ _ _ rfl (by omega) (by omega) (by omega) (by omega) (vecTail_lt o)
theorem vmov (o : VOp) : Statement (.vmov o) :=
  of_some _ _ _ _ _ _ rfl (by omega) (by omega) (by omega) (by omega) (vecTail_lt o)
theorem vsplat (o : VOp) : Statement (.vsplat o) :=
  of_some _ _ _ _ _ _ rfl (by omega) (by omega) (by omega) (by omega) (vecTail_lt o)
theorem vext (o : VOp) : Statement (.vext o) :=
  of_some _ _ _ _ _ _ rfl (by omega) (by omega) (by omega) (by omega) (vecTail_lt o)
theorem vins (o : VOp) : Statement (.vins o) :=
  of_some _ _ _ _ _ _ rfl (by omega) (by omega) (by omega) (by omega) (vecTail_lt o)
theorem vperm (o : VOp) : Statement (.vperm o) :=
  of_some _ _ _ _ _ _ rfl (by omega) (by omega) (by omega) (by omega) (vecTail_lt o)
theorem vshuf (o : VOp) : Statement (.vshuf o) :=
  of_some _ _ _ _ _ _ rfl (by omega) (by omega) (by omega) (by omega) (vecTail_lt o)
theorem vslide (o : VOp) : Statement (.vslide o) :=
  of_some _ _ _ _ _ _ rfl (by omega) (by omega) (by omega) (by omega) (vecTail_lt o)
theorem vmpopc (o : VOp) : Statement (.vmpopc o) :=
  of_some _ _ _ _ _ _ rfl (by omega) (by omega) (by omega) (by omega) (vecTail_lt o)
theorem vmfirst (o : VOp) : Statement (.vmfirst o) :=
  of_some _ _ _ _ _ _ rfl (by omega) (by omega) (by omega) (by omega) (vecTail_lt o)
theorem vredsum (o : VOp) : Statement (.vredsum o) :=
  of_some _ _ _ _ _ _ rfl (by omega) (by omega) (by omega) (by omega) (vecTail_lt o)
theorem vredmin (o : VOp) : Statement (.vredmin o) :=
  of_some _ _ _ _ _ _ rfl (by omega) (by omega) (by omega) (by omega) (vecTail_lt o)
theorem vredmax (o : VOp) : Statement (.vredmax o) :=
  of_some _ _ _ _ _ _ rfl (by omega) (by omega) (by omega) (by omega) (vecTail_lt o)
theorem vredand (o : VOp) : Statement (.vredand o) :=
  of_some _ _ _ _ _ _ rfl (by omega) (by omega) (by omega) (by omega) (vecTail_lt o)
theorem vredor (o : VOp) : Statement (.vredor o) :=
  of_some _ _ _ _ _ _ rfl (by omega) (by omega) (by omega) (by omega) (vecTail_lt o)
theorem vredxor (o : VOp) : Statement (.vredxor o) :=
  of_some _ _ _ _ _ _ rfl (by omega) (by omega) (by omega) (by omega) (vecTail_lt o)
theorem vfredsum (o : VOp) : Statement (.vfredsum o) :=
  of_some _ _ _ _ _ _ rfl (by omega) (by omega) (by omega) (by omega) (vecTail_lt o)
theorem vfredmin (o : VOp) : Statement (.vfredmin o) :=
  of_some _ _ _ _ _ _ rfl (by omega) (by omega) (by omega) (by omega) (vecTail_lt o)
theorem vfredmax (o : VOp) : Statement (.vfredmax o) :=
  of_some _ _ _ _ _ _ rfl (by omega) (by omega) (by omega) (by omega) (vecTail_lt o)
theorem vcvt (o : VOp) : Statement (.vcvt o) :=
  of_some _ _ _ _ _ _ rfl (by omega) (by omega) (by omega) (by omega) (vecTail_lt o)
theorem vld (o : VOp) : Statement (.vld o) :=
  of_some _ _ _ _ _ _ rfl (by omega) (by omega) (by omega) (by omega) (vecTail_lt o)
theorem vst (o : VOp) : Statement (.vst o) :=
  of_some _ _ _ _ _ _ rfl (by omega) (by omega) (by omega) (by omega) (vecTail_lt o)
theorem vlds (o : VOp) : Statement (.vlds o) :=
  of_some _ _ _ _ _ _ rfl (by omega) (by omega) (by omega) (by omega) (vecTail_lt o)
theorem vsts (o : VOp) : Statement (.vsts o) :=
  of_some _ _ _ _ _ _ rfl (by omega) (by omega) (by omega) (by omega) (vecTail_lt o)
theorem vldx (o : VOp) : Statement (.vldx o) :=
  of_some _ _ _ _ _ _ rfl (by omega) (by omega) (by omega) (by omega) (vecTail_lt o)
theorem vstx (o : VOp) : Statement (.vstx o) :=
  of_some _ _ _ _ _ _ rfl (by omega) (by omega) (by omega) (by omega) (vecTail_lt o)
theorem vldDec (o : VOp) : Statement (.vldDec o) :=
  of_some _ _ _ _ _ _ rfl (by omega) (by omega) (by omega) (by omega) (vecTail_lt o)
theorem vstEnc (o : VOp) : Statement (.vstEnc o) :=
  of_some _ _ _ _ _ _ rfl (by omega) (by omega) (by omega) (by omega) (vecTail_lt o)
theorem cpCopy (o : CopyOp) : Statement (.cpCopy o) :=
  of_some _ _ _ _ _ _ rfl (by omega) (by omega) (by omega) (by omega) (copyTail_lt o _ (by omega))
theorem cpMcast (o : CopyOp) : Statement (.cpMcast o) :=
  of_some _ _ _ _ _ _ rfl (by omega) (by omega) (by omega) (by omega) (copyTail_lt o _ (by omega))
theorem cpWm (s : Fin 4) (a : CReg) (b : CReg) : Statement (.cpWm s a b) :=
  of_some _ _ _ _ _ _ rfl (by omega) (by omega) (by omega) (by omega) (by decide)
theorem cpResume (s : Fin 4) (b : CReg) : Statement (.cpResume s b) :=
  of_some _ _ _ _ _ _ rfl (by omega) (by omega) (by omega) (by omega) (by decide)
theorem cpAbort (s : Fin 4) (b : CReg) : Statement (.cpAbort s b) :=
  of_some _ _ _ _ _ _ rfl (by omega) (by omega) (by omega) (by omega) (by decide)
theorem btAlloc (s : Fin 4) (a : CReg) (b : CReg) (hrt : Fin 4) : Statement (.btAlloc s a b hrt) :=
  of_some _ _ _ _ _ _ rfl (by omega) (by omega) (by omega) (by omega) (show _ < 4294967296 by omega)
theorem btFree (s : Fin 4) (b : CReg) : Statement (.btFree s b) :=
  of_some _ _ _ _ _ _ rfl (by omega) (by omega) (by omega) (by omega) (by decide)
theorem btWaitf (s : Fin 4) (a : CReg) (b : CReg) : Statement (.btWaitf s a b) :=
  of_some _ _ _ _ _ _ rfl (by omega) (by omega) (by omega) (by omega) (by decide)
theorem btRel (s : Fin 4) (b : CReg) : Statement (.btRel s b) :=
  of_some _ _ _ _ _ _ rfl (by omega) (by omega) (by omega) (by omega) (by decide)
theorem btStat (s : Fin 4) (a : CReg) (b : CReg) : Statement (.btStat s a b) :=
  of_some _ _ _ _ _ _ rfl (by omega) (by omega) (by omega) (by omega) (by decide)
theorem tileDecl (s : Fin 4) (a : CReg) (b : CReg) : Statement (.tileDecl s a b) :=
  of_some _ _ _ _ _ _ rfl (by omega) (by omega) (by omega) (by omega) (by decide)
theorem tileUndecl (s : Fin 4) (b : CReg) : Statement (.tileUndecl s b) :=
  of_some _ _ _ _ _ _ rfl (by omega) (by omega) (by omega) (by omega) (by decide)
theorem tileChk (s : Fin 4) (b : CReg) : Statement (.tileChk s b) :=
  of_some _ _ _ _ _ _ rfl (by omega) (by omega) (by omega) (by omega) (by decide)
theorem tileFix (s : Fin 4) (b : CReg) : Statement (.tileFix s b) :=
  of_some _ _ _ _ _ _ rfl (by omega) (by omega) (by omega) (by omega) (by decide)
theorem mxMma (o : MmaOp) : Statement (.mxMma o) :=
  of_some _ _ _ _ _ _ rfl (by omega) (by omega) (by omega) (by omega) (mmaTail_lt o)
theorem mxTrn (s : Fin 4) (a : CReg) (ah : Fin 1024) (dh : Fin 1024) (mc : Fin 64) (nc : Fin 64) (fmt : Fin 32) : Statement (.mxTrn s a ah dh mc nc fmt) :=
  of_some _ _ _ _ _ _ rfl (by omega) (by omega) (by omega) (by omega) (show _ < 18446744073709551616 by omega)
theorem mxScale (s : Fin 4) (a : CReg) (b : CReg) (mc : Fin 64) (nc : Fin 64) : Statement (.mxScale s a b mc nc) :=
  of_some _ _ _ _ _ _ rfl (by omega) (by omega) (by omega) (by omega) (show _ < 18446744073709551616 by omega)
theorem mxUprog (s : Fin 4) (b : CReg) (up : Fin 16) : Statement (.mxUprog s b up) :=
  of_some _ _ _ _ _ _ rfl (by omega) (by omega) (by omega) (by omega) (show _ < 18446744073709551616 by omega)
theorem mxWait (s : Fin 4) (a : CReg) : Statement (.mxWait s a) :=
  of_some _ _ _ _ _ _ rfl (by omega) (by omega) (by omega) (by omega) (by decide)
theorem mxStat (s : Fin 4) (a : CReg) (clr : Bool) : Statement (.mxStat s a clr) :=
  of_some _ _ _ _ _ _ rfl (by omega) (by omega) (by omega) (by omega) (show _ < 18446744073709551616 by have := b2n_le clr; omega)
theorem knLoad (s : Fin 4) (b : CReg) : Statement (.knLoad s b) :=
  of_some _ _ _ _ _ _ rfl (by omega) (by omega) (by omega) (by omega) (by decide)
theorem knCtlRmask (s : Fin 4) (b : CReg) : Statement (.knCtlRmask s b) :=
  of_some _ _ _ _ _ _ rfl (by omega) (by omega) (by omega) (by omega) (by decide)
theorem knCtlCmask (s : Fin 4) (b : CReg) : Statement (.knCtlCmask s b) :=
  of_some _ _ _ _ _ _ rfl (by omega) (by omega) (by omega) (by omega) (by decide)
theorem knCtlClr (s : Fin 4) : Statement (.knCtlClr s) :=
  of_some _ _ _ _ _ _ rfl (by omega) (by omega) (by omega) (by omega) (by decide)
theorem knStatCore (s : Fin 4) (a : CReg) : Statement (.knStatCore s a) :=
  of_some _ _ _ _ _ _ rfl (by omega) (by omega) (by omega) (by omega) (by decide)
theorem knStatRule (s : Fin 4) (a : CReg) (b : CReg) : Statement (.knStatRule s a b) :=
  of_some _ _ _ _ _ _ rfl (by omega) (by omega) (by omega) (by omega) (by decide)
theorem knStatClass (s : Fin 4) (a : CReg) : Statement (.knStatClass s a) :=
  of_some _ _ _ _ _ _ rfl (by omega) (by omega) (by omega) (by omega) (by decide)
theorem barArrive (s : Fin 4) (a : CReg) (lvl : Fin 8) : Statement (.barArrive s a lvl) :=
  of_some _ _ _ _ _ _ rfl (by omega) (by omega) (by omega) (by omega) (show _ < 65536 by omega)
theorem barWait (s : Fin 4) (b : CReg) (lvl : Fin 8) : Statement (.barWait s b lvl) :=
  of_some _ _ _ _ _ _ rfl (by omega) (by omega) (by omega) (by omega) (show _ < 65536 by omega)
theorem barSync (s : Fin 4) (lvl : Fin 8) : Statement (.barSync s lvl) :=
  of_some _ _ _ _ _ _ rfl (by omega) (by omega) (by omega) (by omega) (show _ < 65536 by omega)
theorem barTest (s : Fin 4) (a : CReg) (b : CReg) (lvl : Fin 8) : Statement (.barTest s a b lvl) :=
  of_some _ _ _ _ _ _ rfl (by omega) (by omega) (by omega) (by omega) (show _ < 65536 by omega)
theorem wake (s : Fin 4) (a : CReg) (b : CReg) : Statement (.wake s a b) :=
  of_some _ _ _ _ _ _ rfl (by omega) (by omega) (by omega) (by omega) (by decide)
theorem wfw (s : Fin 4) (a : CReg) (b : CReg) : Statement (.wfw s a b) :=
  of_some _ _ _ _ _ _ rfl (by omega) (by omega) (by omega) (by omega) (by decide)
theorem domSet (s : Fin 4) (b : CReg) (lvl : Fin 8) : Statement (.domSet s b lvl) :=
  of_some _ _ _ _ _ _ rfl (by omega) (by omega) (by omega) (by omega) (show _ < 65536 by omega)
theorem phase (s : Fin 4) (a : CReg) (b : CReg) (lvl : Fin 8) : Statement (.phase s a b lvl) :=
  of_some _ _ _ _ _ _ rfl (by omega) (by omega) (by omega) (by omega) (show _ < 65536 by omega)
theorem send (s : Fin 4) (b : CReg) (vr : VReg) (lvl : Fin 4) : Statement (.send s b vr lvl) :=
  of_some _ _ _ _ _ _ rfl (by omega) (by omega) (by omega) (by omega) (show _ < 65536 by omega)
theorem recv (s : Fin 4) (a : CReg) (vr : VReg) : Statement (.recv s a vr) :=
  of_some _ _ _ _ _ _ rfl (by omega) (by omega) (by omega) (by omega) (show _ < 65536 by omega)
theorem taskSpawn (s : Fin 4) (a : CReg) (b : CReg) (hrt : Fin 4) (own : Bool) : Statement (.taskSpawn s a b hrt own) :=
  of_some _ _ _ _ _ _ rfl (by omega) (by omega) (by omega) (by omega) (show _ < 65536 by have := b2n_le own; omega)
theorem taskTake (s : Fin 4) (a : CReg) (q : QReg) : Statement (.taskTake s a q) :=
  of_some _ _ _ _ _ _ rfl (by omega) (by omega) (by omega) (by omega) (by decide)
theorem taskYield (s : Fin 4) (a : CReg) (b : CReg) : Statement (.taskYield s a b) :=
  of_some _ _ _ _ _ _ rfl (by omega) (by omega) (by omega) (by omega) (by decide)
theorem taskDone (s : Fin 4) : Statement (.taskDone s) :=
  of_some _ _ _ _ _ _ rfl (by omega) (by omega) (by omega) (by omega) (by decide)
theorem taskExit (s : Fin 4) : Statement (.taskExit s) :=
  of_some _ _ _ _ _ _ rfl (by omega) (by omega) (by omega) (by omega) (by decide)
theorem launch (s : Fin 4) (a : CReg) (b : CReg) : Statement (.launch s a b) :=
  of_some _ _ _ _ _ _ rfl (by omega) (by omega) (by omega) (by omega) (by decide)
theorem ctlRd (s : Fin 4) (a : CReg) (num : Fin 4096) : Statement (.ctlRd s a num) :=
  of_some _ _ _ _ _ _ rfl (by omega) (by omega) (by omega) (by omega) (show _ < 65536 by omega)
theorem ctlWr (s : Fin 4) (b : CReg) (num : Fin 4096) : Statement (.ctlWr s b num) :=
  of_some _ _ _ _ _ _ rfl (by omega) (by omega) (by omega) (by omega) (show _ < 65536 by omega)
theorem safept (s : Fin 4) (map : Fin 4096) : Statement (.safept s map) :=
  of_some _ _ _ _ _ _ rfl (by omega) (by omega) (by omega) (by omega) (show _ < 65536 by omega)
theorem trap (s : Fin 4) (imm : Fin 256) : Statement (.trap s imm) :=
  of_some _ _ _ _ _ _ rfl (by omega) (by omega) (by omega) (by omega) (show _ < 65536 by omega)
theorem brk (s : Fin 4) (imm : Fin 256) : Statement (.brk s imm) :=
  of_some _ _ _ _ _ _ rfl (by omega) (by omega) (by omega) (by omega) (show _ < 65536 by omega)
theorem eret (s : Fin 4) : Statement (.eret s) :=
  of_some _ _ _ _ _ _ rfl (by omega) (by omega) (by omega) (by omega) (by decide)
theorem wfi (s : Fin 4) : Statement (.wfi s) :=
  of_some _ _ _ _ _ _ rfl (by omega) (by omega) (by omega) (by omega) (by decide)
theorem time (s : Fin 4) (a : CReg) : Statement (.time s a) :=
  of_some _ _ _ _ _ _ rfl (by omega) (by omega) (by omega) (by omega) (by decide)
theorem opreq (s : Fin 4) (b : CReg) : Statement (.opreq s b) :=
  of_some _ _ _ _ _ _ rfl (by omega) (by omega) (by omega) (by omega) (by decide)
theorem migrate (s : Fin 4) (a : CReg) (b : CReg) : Statement (.migrate s a b) :=
  of_some _ _ _ _ _ _ rfl (by omega) (by omega) (by omega) (by omega) (by decide)
theorem pairOn (s : Fin 4) (a : CReg) : Statement (.pairOn s a) :=
  of_some _ _ _ _ _ _ rfl (by omega) (by omega) (by omega) (by omega) (by decide)
theorem pairOff (s : Fin 4) : Statement (.pairOff s) :=
  of_some _ _ _ _ _ _ rfl (by omega) (by omega) (by omega) (by omega) (by decide)
theorem errinj (s : Fin 4) (a : CReg) (b : CReg) : Statement (.errinj s a b) :=
  of_some _ _ _ _ _ _ rfl (by omega) (by omega) (by omega) (by omega) (by decide)
theorem replayBegin (s : Fin 4) : Statement (.replayBegin s) :=
  of_some _ _ _ _ _ _ rfl (by omega) (by omega) (by omega) (by omega) (by decide)
theorem replayAgain (s : Fin 4) : Statement (.replayAgain s) :=
  of_some _ _ _ _ _ _ rfl (by omega) (by omega) (by omega) (by omega) (by decide)
theorem replayEnd (s : Fin 4) (a : CReg) : Statement (.replayEnd s a) :=
  of_some _ _ _ _ _ _ rfl (by omega) (by omega) (by omega) (by omega) (by decide)
theorem replayDone (s : Fin 4) : Statement (.replayDone s) :=
  of_some _ _ _ _ _ _ rfl (by omega) (by omega) (by omega) (by omega) (by decide)
theorem ctxSet (s : Fin 4) (b : CReg) : Statement (.ctxSet s b) :=
  of_some _ _ _ _ _ _ rfl (by omega) (by omega) (by omega) (by omega) (by decide)
theorem qbind (s : Fin 4) (q : QReg) (b : CReg) (kind : Fin 16) : Statement (.qbind s q b kind) :=
  of_some _ _ _ _ _ _ rfl (by omega) (by omega) (by omega) (by omega) (show _ < 65536 by omega)
theorem qunbind (s : Fin 4) (q : QReg) : Statement (.qunbind s q) :=
  of_some _ _ _ _ _ _ rfl (by omega) (by omega) (by omega) (by omega) (by decide)
theorem qpop (s : Fin 4) (c : CReg) (q : QReg) : Statement (.qpop s c q) :=
  of_some _ _ _ _ _ _ rfl (by omega) (by omega) (by omega) (by omega) (show _ < 65536 by omega)
theorem sbind (s : Fin 4) (v : VReg) (b : CReg) : Statement (.sbind s v b) :=
  of_some _ _ _ _ _ _ rfl (by omega) (by omega) (by omega) (by omega) (show _ < 65536 by omega)
theorem sunbind (s : Fin 4) (v : VReg) : Statement (.sunbind s v) :=
  of_some _ _ _ _ _ _ rfl (by omega) (by omega) (by omega) (by omega) (show _ < 65536 by omega)
theorem illegalInstruction (reason : Fin 5) (head : BitVec 16) (tail : BitVec 64) : Statement (.illegalInstruction reason head tail) := of_none _ rfl
theorem tlbinvAll : Statement (.tlbinvAll) := of_none _ rfl
theorem tlbinvContext (ctx : Nat) : Statement (.tlbinvContext ctx) := of_none _ rfl
theorem tlbinvPages (ctx : Nat) (page : Nat) (count : Nat) : Statement (.tlbinvPages ctx page count) := of_none _ rfl
theorem shootdownAck (unit : Nat) : Statement (.shootdownAck unit) := of_none _ rfl
theorem ptrootWrite (ctx : Nat) (v : Word) : Statement (.ptrootWrite ctx v) := of_none _ rfl
theorem l1rtvalWrite (ctx : Nat) (idx : Nat) (v : Word) : Statement (.l1rtvalWrite ctx idx v) := of_none _ rfl
theorem tqcfgWrite (ctx : Nat) (hearth : Nat) (v : Word) : Statement (.tqcfgWrite ctx hearth v) := of_none _ rfl
theorem ldreqWrite (ctx : Nat) (line : Word) : Statement (.ldreqWrite ctx line) := of_none _ rfl
theorem wdmapWrite (atF : Bool) (v : BitVec 512) : Statement (.wdmapWrite atF v) := of_none _ rfl
theorem rollcmdWrite (gang : Nat) : Statement (.rollcmdWrite gang) := of_none _ rfl
theorem errorBankAck (unit : Nat) (v : Word) : Statement (.errorBankAck unit v) := of_none _ rfl
theorem lineFetch (va : Word) : Statement (.lineFetch va) := of_none _ rfl
theorem trapEntry : Statement (.trapEntry) := of_none _ rfl
theorem storeBufferDrain (hart : Nat) : Statement (.storeBufferDrain hart) := of_none _ rfl
theorem bankGrant (hearth : Nat) (reqs : List BankReq) : Statement (.bankGrant hearth reqs) := of_none _ rfl
theorem remoteResponse (hart : Nat) (n : Nat) : Statement (.remoteResponse hart n) := of_none _ rfl
theorem remoteTimeout (hart : Nat) (n : Nat) : Statement (.remoteTimeout hart n) := of_none _ rfl
theorem remoteStoreRefused (hart : Nat) (n : Nat) : Statement (.remoteStoreRefused hart n) := of_none _ rfl
theorem rangeLockActivate (hearth : Nat) (entry : Nat) : Statement (.rangeLockActivate hearth entry) := of_none _ rfl
theorem filterBitClear (hearth : Nat) (row : Nat) : Statement (.filterBitClear hearth row) := of_none _ rfl
theorem engineOpBegin (hart : Nat) : Statement (.engineOpBegin hart) := of_none _ rfl
theorem enginePieceLand (opn : Nat) (part : Nat) : Statement (.enginePieceLand opn part) := of_none _ rfl
theorem landingComplete (opn : Nat) (part : Nat) : Statement (.landingComplete opn part) := of_none _ rfl
theorem bufferFreeMessage (hearth : Nat) (handle : Nat) : Statement (.bufferFreeMessage hearth handle) := of_none _ rfl
theorem streamRefill (hart : Nat) (v : VReg) : Statement (.streamRefill hart v) := of_none _ rfl
theorem pageWalk (die : Nat) (ctx : Nat) (va : Word) (acc : AccKind) : Statement (.pageWalk die ctx va acc) := of_none _ rfl
theorem l2Access (ch : Nat) (l : Nat) (n : Nat) (write : Bool) (far : Bool) : Statement (.l2Access ch l n write far) := of_none _ rfl
theorem sectorFill (ch : Nat) (l : Nat) (poisoned : Bool) : Statement (.sectorFill ch l poisoned) := of_none _ rfl
theorem refreshSlot (ch : Nat) : Statement (.refreshSlot ch) := of_none _ rfl
theorem allBankRefreshStart (ch : Nat) : Statement (.allBankRefreshStart ch) := of_none _ rfl
theorem refreshEnd (ch : Nat) : Statement (.refreshEnd ch) := of_none _ rfl
theorem kneaderEntry (hart : Nat) : Statement (.kneaderEntry hart) := of_none _ rfl
theorem kneaderAgeFlush (hart : Nat) : Statement (.kneaderAgeFlush hart) := of_none _ rfl
theorem mxDispatch (hart : Nat) : Statement (.mxDispatch hart) := of_none _ rfl
theorem tileStep (tray : Nat) : Statement (.tileStep tray) := of_none _ rfl
theorem mxRetire (hart : Nat) : Statement (.mxRetire hart) := of_none _ rfl
theorem mxCommandFault (hart : Nat) : Statement (.mxCommandFault hart) := of_none _ rfl
theorem ballastStep (tray : Nat) (width : Nat) : Statement (.ballastStep tray width) := of_none _ rfl
theorem droopDetect (tray : Nat) : Statement (.droopDetect tray) := of_none _ rfl
theorem droopHoldEnd (tray : Nat) : Statement (.droopHoldEnd tray) := of_none _ rfl
theorem opTransitionEnd (tray : Nat) : Statement (.opTransitionEnd tray) := of_none _ rfl
theorem capWindowEnd : Statement (.capWindowEnd) := of_none _ rfl
theorem peerThrottled (port : Nat) (step : Nat) (on : Bool) : Statement (.peerThrottled port step on) := of_none _ rfl
theorem timer (hart : Nat) : Statement (.timer hart) := of_none _ rfl
theorem budgetExhausted (hart : Nat) : Statement (.budgetExhausted hart) := of_none _ rfl
theorem thermalWarn (tray : Nat) (temp : Nat) : Statement (.thermalWarn tray temp) := of_none _ rfl
theorem thermalCrit (tray : Nat) (temp : Nat) : Statement (.thermalCrit tray temp) := of_none _ rfl
theorem thermalTrip (tray : Nat) (temp : Nat) : Statement (.thermalTrip tray temp) := of_none _ rfl
theorem thermalClear (tray : Nat) (temp : Nat) : Statement (.thermalClear tray temp) := of_none _ rfl
theorem external (hart : Nat) : Statement (.external hart) := of_none _ rfl
theorem barrierComplete (gang : Nat) (lvl : Nat) (dom : Nat) : Statement (.barrierComplete gang lvl dom) := of_none _ rfl
theorem domainReform (gang : Nat) (lvl : Nat) : Statement (.domainReform gang lvl) := of_none _ rfl
theorem sendDelivery (n : Nat) : Statement (.sendDelivery n) := of_none _ rfl
theorem wakeDelivery (n : Nat) : Statement (.wakeDelivery n) := of_none _ rfl
theorem dispenseCycle (hearth : Nat) : Statement (.dispenseCycle hearth) := of_none _ rfl
theorem opalTokenPass (gang : Nat) : Statement (.opalTokenPass gang) := of_none _ rfl
theorem placementSelect : Statement (.placementSelect) := of_none _ rfl
theorem trayReserve : Statement (.trayReserve) := of_none _ rfl
theorem reservationRelease : Statement (.reservationRelease) := of_none _ rfl
theorem placementCommit : Statement (.placementCommit) := of_none _ rfl
theorem wakeFlood : Statement (.wakeFlood) := of_none _ rfl
theorem hartStop (hart : Nat) : Statement (.hartStop hart) := of_none _ rfl
theorem forcedStop (hart : Nat) : Statement (.forcedStop hart) := of_none _ rfl
theorem gangSave (gang : Nat) : Statement (.gangSave gang) := of_none _ rfl
theorem migration (hart : Nat) : Statement (.migration hart) := of_none _ rfl
theorem fingerprintExchange (core : Nat) : Statement (.fingerprintExchange core) := of_none _ rfl
theorem errorDetected (unit : Nat) (e : ErrEvent) : Statement (.errorDetected unit e) := of_none _ rfl
theorem garnetFlush : Statement (.garnetFlush) := of_none _ rfl
theorem rollbackRestore (gang : Nat) : Statement (.rollbackRestore gang) := of_none _ rfl
theorem functionPublish (ctx : Nat) (handle : Nat) (fn : Nat) : Statement (.functionPublish ctx handle fn) := of_none _ rfl
theorem peerAccess (r : PeerReq) : Statement (.peerAccess r) := of_none _ rfl
theorem ccpLaunch (f : Frame) (lrec : BitVec 512) : Statement (.ccpLaunch f lrec) := of_none _ rfl
theorem ccpCopy (f : Frame) (dev : Nat) (off : Nat) (len : Nat) (toDevice : Bool) : Statement (.ccpCopy f dev off len toDevice) := of_none _ rfl
theorem ccpMapBind (f : Frame) (page : Nat) (buffer : Nat) : Statement (.ccpMapBind f page buffer) := of_none _ rfl
theorem ccpMapSaveArea (f : Frame) (base : Nat) (units : Nat) : Statement (.ccpMapSaveArea f base units) := of_none _ rfl
theorem ccpMapCodeHeap (f : Frame) (va : Word) (pa : Nat) (lines : Nat) : Statement (.ccpMapCodeHeap f va pa lines) := of_none _ rfl
theorem ccpMapCollective (f : Frame) (bar : Nat) : Statement (.ccpMapCollective f bar) := of_none _ rfl
theorem ccpMapDeviceIndex (f : Frame) (dev : Nat) : Statement (.ccpMapDeviceIndex f dev) := of_none _ rfl
theorem ccpLoad (f : Frame) (obj : CodeImage) : Statement (.ccpLoad f obj) := of_none _ rfl
theorem ccpUnload (f : Frame) (handle : Nat) (forced : Bool) : Statement (.ccpUnload f handle forced) := of_none _ rfl
theorem ccpQuery (f : Frame) (sub : Nat) (arg : Nat) : Statement (.ccpQuery f sub arg) := of_none _ rfl
theorem ccpTimeSet (f : Frame) (v : Word) : Statement (.ccpTimeSet f v) := of_none _ rfl
theorem ccpTimeRead (f : Frame) : Statement (.ccpTimeRead f) := of_none _ rfl
theorem spdmGetVersion (f : Frame) : Statement (.spdmGetVersion f) := of_none _ rfl
theorem spdmGetCapabilities (f : Frame) : Statement (.spdmGetCapabilities f) := of_none _ rfl
theorem spdmNegotiateAlgorithms (f : Frame) : Statement (.spdmNegotiateAlgorithms f) := of_none _ rfl
theorem spdmGetDigests (f : Frame) : Statement (.spdmGetDigests f) := of_none _ rfl
theorem spdmGetCertificate (f : Frame) : Statement (.spdmGetCertificate f) := of_none _ rfl
theorem spdmChallenge (f : Frame) (nonce : Nat) : Statement (.spdmChallenge f nonce) := of_none _ rfl
theorem spdmGetMeasurements (f : Frame) (index : Nat) (nonce : Nat) : Statement (.spdmGetMeasurements f index nonce) := of_none _ rfl
theorem timeSync (ppm : Int) : Statement (.timeSync ppm) := of_none _ rfl
theorem linkSignalDetect (port : Nat) (lanes : Nat) : Statement (.linkSignalDetect port lanes) := of_none _ rfl
theorem linkTrainDone (port : Nat) (lanes : Nat) : Statement (.linkTrainDone port lanes) := of_none _ rfl
theorem linkTrainFail (port : Nat) : Statement (.linkTrainFail port) := of_none _ rfl
theorem linkRetry (port : Nat) : Statement (.linkRetry port) := of_none _ rfl
theorem linkNegotiate (port : Nat) (agree : Bool) : Statement (.linkNegotiate port agree) := of_none _ rfl
theorem linkDown (port : Nat) : Statement (.linkDown port) := of_none _ rfl
theorem reset (img : BootImage) : Statement (.reset img) := of_none _ rfl
theorem slotOpen (hart : Nat) : Statement (.slotOpen hart) := of_none _ rfl
theorem powerFailure : Statement (.powerFailure) := of_none _ rfl
theorem hostPortLinkUp (port : Nat) : Statement (.hostPortLinkUp port) := of_none _ rfl
theorem hostPortLinkDown (port : Nat) : Statement (.hostPortLinkDown port) := of_none _ rfl

end Sys2Proof.Laws.WordFits
end

