-- ==== Sys2Proof/Laws/State.lean ====
section
/-! SUPPORT. What each update of the state leaves in each field. -/

namespace Sys2Proof.Machine

/-! ## Changing the hart or the module -/

@[simp] theorem State.onHart_hart (s : State) (f : Hart → Hart) : (s.onHart f).hart = f s.hart := rfl
@[simp] theorem State.onHart_cur (s : State) (f : Hart → Hart) : (s.onHart f).cur = s.cur := rfl
@[simp] theorem State.onHart_parked (s : State) (f : Hart → Hart) : (s.onHart f).parked = s.parked := rfl
@[simp] theorem State.onHart_m (s : State) (f : Hart → Hart) : (s.onHart f).m = s.m := rfl
@[simp] theorem State.onHart_agenda (s : State) (f : Hart → Hart) : (s.onHart f).agenda = s.agenda := rfl
@[simp] theorem State.onHart_delays (s : State) (f : Hart → Hart) : (s.onHart f).delays = s.delays := rfl
@[simp] theorem State.onHart_tick (s : State) (f : Hart → Hart) : (s.onHart f).tick = s.tick := rfl
@[simp] theorem State.onHart_splits (s : State) (f : Hart → Hart) : (s.onHart f).splits = s.splits := rfl
@[simp] theorem State.onHart_pends (s : State) (f : Hart → Hart) : (s.onHart f).pends = s.pends := rfl
@[simp] theorem State.onHart_idleTurns (s : State) (f : Hart → Hart) : (s.onHart f).idleTurns = s.idleTurns := rfl

@[simp] theorem State.onMod_hart (s : State) (f : Mod → Mod) : (s.onMod f).hart = s.hart := rfl
@[simp] theorem State.onMod_cur (s : State) (f : Mod → Mod) : (s.onMod f).cur = s.cur := rfl
@[simp] theorem State.onMod_parked (s : State) (f : Mod → Mod) : (s.onMod f).parked = s.parked := rfl
@[simp] theorem State.onMod_m (s : State) (f : Mod → Mod) : (s.onMod f).m = f s.m := rfl
@[simp] theorem State.onMod_agenda (s : State) (f : Mod → Mod) : (s.onMod f).agenda = s.agenda := rfl
@[simp] theorem State.onMod_delays (s : State) (f : Mod → Mod) : (s.onMod f).delays = s.delays := rfl
@[simp] theorem State.onMod_tick (s : State) (f : Mod → Mod) : (s.onMod f).tick = s.tick := rfl
@[simp] theorem State.onMod_splits (s : State) (f : Mod → Mod) : (s.onMod f).splits = s.splits := rfl
@[simp] theorem State.onMod_pends (s : State) (f : Mod → Mod) : (s.onMod f).pends = s.pends := rfl
@[simp] theorem State.onMod_idleTurns (s : State) (f : Mod → Mod) : (s.onMod f).idleTurns = s.idleTurns := rfl

@[simp] theorem State.modTray_hart (s : State) (n : Nat) (f : Tray → Tray) : (s.modTray n f).hart = s.hart := rfl
@[simp] theorem State.modTray_cur (s : State) (n : Nat) (f : Tray → Tray) : (s.modTray n f).cur = s.cur := rfl
@[simp] theorem State.modTray_parked (s : State) (n : Nat) (f : Tray → Tray) : (s.modTray n f).parked = s.parked := rfl
@[simp] theorem State.modTray_agenda (s : State) (n : Nat) (f : Tray → Tray) : (s.modTray n f).agenda = s.agenda := rfl
@[simp] theorem State.modTray_delays (s : State) (n : Nat) (f : Tray → Tray) : (s.modTray n f).delays = s.delays := rfl
@[simp] theorem State.modTray_idleTurns (s : State) (n : Nat) (f : Tray → Tray) : (s.modTray n f).idleTurns = s.idleTurns := rfl
@[simp] theorem State.modTray_tick (s : State) (n : Nat) (f : Tray → Tray) : (s.modTray n f).tick = s.tick := rfl
@[simp] theorem State.modTray_splits (s : State) (n : Nat) (f : Tray → Tray) : (s.modTray n f).splits = s.splits := rfl
@[simp] theorem State.modTray_pends (s : State) (n : Nat) (f : Tray → Tray) : (s.modTray n f).pends = s.pends := rfl
@[simp] theorem State.modTray_m (s : State) (n : Nat) (f : Tray → Tray) : (s.modTray n f).m = { s.m with trays := tmod {} s.m.trays n f } := rfl

@[simp] theorem State.modCtx_hart (s : State) (n : Nat) (f : Ctx → Ctx) : (s.modCtx n f).hart = s.hart := rfl
@[simp] theorem State.modCtx_m (s : State) (n : Nat) (f : Ctx → Ctx) : (s.modCtx n f).m = { s.m with ctxs := tmod {} s.m.ctxs n f } := rfl
@[simp] theorem State.modCtx_cur (s : State) (n : Nat) (f : Ctx → Ctx) : (s.modCtx n f).cur = s.cur := rfl
@[simp] theorem State.modCtx_parked (s : State) (n : Nat) (f : Ctx → Ctx) : (s.modCtx n f).parked = s.parked := rfl
@[simp] theorem State.modCtx_agenda (s : State) (n : Nat) (f : Ctx → Ctx) : (s.modCtx n f).agenda = s.agenda := rfl
@[simp] theorem State.modCtx_delays (s : State) (n : Nat) (f : Ctx → Ctx) : (s.modCtx n f).delays = s.delays := rfl
@[simp] theorem State.modCtx_tick (s : State) (n : Nat) (f : Ctx → Ctx) : (s.modCtx n f).tick = s.tick := rfl
@[simp] theorem State.modCtx_splits (s : State) (n : Nat) (f : Ctx → Ctx) : (s.modCtx n f).splits = s.splits := rfl
@[simp] theorem State.modCtx_pends (s : State) (n : Nat) (f : Ctx → Ctx) : (s.modCtx n f).pends = s.pends := rfl
@[simp] theorem State.modCtx_idleTurns (s : State) (n : Nat) (f : Ctx → Ctx) : (s.modCtx n f).idleTurns = s.idleTurns := rfl
@[simp] theorem State.modHearth_hart (s : State) (n : Nat) (f : Hearth → Hearth) : (s.modHearth n f).hart = s.hart := rfl
@[simp] theorem State.modHearth_m (s : State) (n : Nat) (f : Hearth → Hearth) : (s.modHearth n f).m = { s.m with hearths := tmod {} s.m.hearths n f } := rfl
@[simp] theorem State.modHearth_cur (s : State) (n : Nat) (f : Hearth → Hearth) : (s.modHearth n f).cur = s.cur := rfl
@[simp] theorem State.modHearth_parked (s : State) (n : Nat) (f : Hearth → Hearth) : (s.modHearth n f).parked = s.parked := rfl
@[simp] theorem State.modHearth_agenda (s : State) (n : Nat) (f : Hearth → Hearth) : (s.modHearth n f).agenda = s.agenda := rfl
@[simp] theorem State.modHearth_delays (s : State) (n : Nat) (f : Hearth → Hearth) : (s.modHearth n f).delays = s.delays := rfl
@[simp] theorem State.modHearth_tick (s : State) (n : Nat) (f : Hearth → Hearth) : (s.modHearth n f).tick = s.tick := rfl
@[simp] theorem State.modHearth_splits (s : State) (n : Nat) (f : Hearth → Hearth) : (s.modHearth n f).splits = s.splits := rfl
@[simp] theorem State.modHearth_pends (s : State) (n : Nat) (f : Hearth → Hearth) : (s.modHearth n f).pends = s.pends := rfl
@[simp] theorem State.modHearth_idleTurns (s : State) (n : Nat) (f : Hearth → Hearth) : (s.modHearth n f).idleTurns = s.idleTurns := rfl

@[simp] theorem State.setC_hart (s : State) (r : CReg) (x : Cap) : (s.setC r x).hart = s.hart.setC r x := rfl
@[simp] theorem State.setC_m (s : State) (r : CReg) (x : Cap) : (s.setC r x).m = s.m := rfl
@[simp] theorem State.setC_cur (s : State) (r : CReg) (x : Cap) : (s.setC r x).cur = s.cur := rfl
@[simp] theorem State.setC_parked (s : State) (r : CReg) (x : Cap) : (s.setC r x).parked = s.parked := rfl
@[simp] theorem State.setC_agenda (s : State) (r : CReg) (x : Cap) : (s.setC r x).agenda = s.agenda := rfl
@[simp] theorem State.setC_delays (s : State) (r : CReg) (x : Cap) : (s.setC r x).delays = s.delays := rfl
@[simp] theorem State.setC_tick (s : State) (r : CReg) (x : Cap) : (s.setC r x).tick = s.tick := rfl
@[simp] theorem State.setC_splits (s : State) (r : CReg) (x : Cap) : (s.setC r x).splits = s.splits := rfl
@[simp] theorem State.setC_pends (s : State) (r : CReg) (x : Cap) : (s.setC r x).pends = s.pends := rfl
@[simp] theorem State.setC_idleTurns (s : State) (r : CReg) (x : Cap) : (s.setC r x).idleTurns = s.idleTurns := rfl

/-! ## The end of an instruction -/

@[simp] theorem Hart.settled_pc (h : Hart) : h.settled.pc = h.pc := rfl
@[simp] theorem Hart.settled_slot (h : Hart) : h.settled.slot = h.slot := rfl
@[simp] theorem Hart.settled_c (h : Hart) : h.settled.c = h.c := rfl
@[simp] theorem Hart.settled_v (h : Hart) : h.settled.v = h.v := rfl
@[simp] theorem Hart.settled_q (h : Hart) : h.settled.q = h.q := rfl
@[simp] theorem Hart.settled_streams (h : Hart) : h.settled.streams = h.streams := rfl
@[simp] theorem Hart.settled_pend (h : Hart) : h.settled.pend = h.pend := rfl
@[simp] theorem Hart.settled_lvl (h : Hart) : h.settled.lvl = h.lvl := rfl
@[simp] theorem Hart.settled_kb (h : Hart) : h.settled.kb = h.kb := rfl
@[simp] theorem Hart.settled_fb (h : Hart) : h.settled.fb = h.fb := rfl
@[simp] theorem Hart.settled_shadow (h : Hart) : h.settled.shadow = h.shadow := rfl
@[simp] theorem Hart.settled_ctl (h : Hart) : h.settled.ctl = h.ctl := rfl
@[simp] theorem Hart.settled_id (h : Hart) : h.settled.id = h.id := rfl
@[simp] theorem Hart.settled_pair (h : Hart) : h.settled.pair = h.pair := rfl
@[simp] theorem Hart.settled_poison (h : Hart) : h.settled.poison = h.poison := rfl
@[simp] theorem Hart.settled_early (h : Hart) : h.settled.early = h.early := rfl
@[simp] theorem Hart.settled_earlyTags (h : Hart) : h.settled.earlyTags = h.earlyTags := rfl
@[simp] theorem Hart.settled_perf (h : Hart) : h.settled.perf = h.perf := rfl
@[simp] theorem Hart.settled_rep (h : Hart) : h.settled.rep = h.rep := rfl
@[simp] theorem Hart.settled_sync (h : Hart) : h.settled.sync = h.sync := rfl
@[simp] theorem Hart.settled_sb (h : Hart) : h.settled.sb = h.sb := rfl
@[simp] theorem Hart.settled_posted (h : Hart) : h.settled.posted = h.posted := rfl
@[simp] theorem Hart.settled_clock (h : Hart) : h.settled.clock = h.clock := rfl
@[simp] theorem Hart.settled_cyc (h : Hart) : h.settled.cyc = h.cyc := rfl
@[simp] theorem Hart.settled_waiting (h : Hart) : h.settled.waiting = false := rfl
@[simp] theorem Hart.settled_got (h : Hart) : h.settled.got = [] := rfl

/-! ## Tables -/

theorem tget_tset {α : Type} (d : α) (t : Tbl α) (k j : Nat) (x : α) : tget d (tset t k x) j = if k = j then x else tget d t j := by
  induction t with
  | nil => simp [tset, tget]
  | cons e r ih =>
    obtain ⟨i, y⟩ := e
    unfold tset
    split
    · next h => subst h; by_cases hj : i = j <;> simp [tget, hj]
    · split
      · by_cases hj : k = j <;> simp [tget, hj]
      · by_cases hi : i = j
        · by_cases hk : k = j
          · omega
          · simp [tget, hi, hk]
        · simp [tget, hi, ih]

theorem tget?_tset {α : Type} (t : Tbl α) (k j : Nat) (x : α) : tget? (tset t k x) j = if k = j then some x else tget? t j := by
  induction t with
  | nil => simp [tset, tget?]
  | cons e r ih =>
    obtain ⟨i, y⟩ := e
    unfold tset
    split
    · next h => subst h; by_cases hj : i = j <;> simp [tget?, hj]
    · split
      · by_cases hj : k = j <;> simp [tget?, hj]
      · by_cases hi : i = j
        · by_cases hk : k = j
          · omega
          · simp [tget?, hi, hk]
        · simp [tget?, hi, ih]

theorem tget_tmod {α : Type} (d : α) (t : Tbl α) (k j : Nat) (f : α → α) :
    tget d (tmod d t k f) j = if k = j then f (tget d t k) else tget d t j := by
  simp [tmod, tget_tset]

theorem tget?_tdel {α : Type} (t : Tbl α) (k j : Nat) : tget? (tdel t k) j = if k = j then none else tget? t j := by
  induction t with
  | nil => simp [tdel, tget?]
  | cons e r ih =>
    obtain ⟨i, y⟩ := e
    simp only [tdel] at ih ⊢
    by_cases hi : i = k
    · subst hi; by_cases hj : i = j
      · subst hj; simpa using ih
      · simpa [tget?, hj] using ih
    · by_cases hk : k = j
      · subst hk; simp [tget?, hi, ih]
      · simp [tget?, hi, hk, ih]

/-! ## Registers and their marks -/

/-- What a note for the fingerprint leaves: all but the pair's state. -/
theorem Hart.note_eq (h : Hart) (l : List Word) : h.note l = { h with pair := (h.note l).pair } := by
  unfold Hart.note; split <;> rfl

/-- What a write of a c-register leaves: all but the c-file, the scoreboard, the parity marks and the pair's state. -/
theorem Hart.setC_eq (h : Hart) (r : CReg) (x : Cap) :
    h.setC r x = { h with c := (h.setC r x).c, pend := (h.setC r x).pend, poison := (h.setC r x).poison, pair := (h.setC r x).pair } := by
  unfold Hart.setC; split
  · rfl
  · rw [Hart.note_eq]

theorem Hart.setCFix_eq (h : Hart) (r : CReg) (x : Cap) (l m : Nat) :
    h.setCFix r x l m = { h with c := (h.setCFix r x l m).c, pend := (h.setCFix r x l m).pend, poison := (h.setCFix r x l m).poison, pair := (h.setCFix r x l m).pair } := by
  unfold Hart.setCFix; split
  · rfl
  · rw [Hart.note_eq]

theorem Hart.setV_eq (h : Hart) (r : VReg) (x : Vec) :
    h.setV r x = { h with v := (h.setV r x).v, pend := (h.setV r x).pend, poison := (h.setV r x).poison, pair := (h.setV r x).pair } := by
  unfold Hart.setV; rw [Hart.note_eq]

theorem Hart.setVFix_eq (h : Hart) (r : VReg) (x : Vec) (l m : Nat) :
    h.setVFix r x l m = { h with v := (h.setVFix r x l m).v, pend := (h.setVFix r x l m).pend, poison := (h.setVFix r x l m).poison, pair := (h.setVFix r x l m).pair } := by
  unfold Hart.setVFix; rw [Hart.note_eq]

@[simp] theorem Hart.note_c (h : Hart) (l : List Word) : (h.note l).c = h.c := by rw [Hart.note_eq]
@[simp] theorem Hart.note_v (h : Hart) (l : List Word) : (h.note l).v = h.v := by rw [Hart.note_eq]
@[simp] theorem Hart.note_pend (h : Hart) (l : List Word) : (h.note l).pend = h.pend := by rw [Hart.note_eq]
@[simp] theorem Hart.note_poison (h : Hart) (l : List Word) : (h.note l).poison = h.poison := by rw [Hart.note_eq]

/-- The c-file after a write: c0 is discarded. -/
theorem Hart.setC_c (h : Hart) (r : CReg) (x : Cap) : (h.setC r x).c = if r = 0 then h.c else h.c.set r x := by
  unfold Hart.setC; split <;> simp

theorem Hart.setCFix_c (h : Hart) (r : CReg) (x : Cap) (l m : Nat) : (h.setCFix r x l m).c = if r = 0 then h.c else h.c.set r x := by
  unfold Hart.setCFix; split <;> simp

@[simp] theorem Hart.setV_v (h : Hart) (r : VReg) (x : Vec) : (h.setV r x).v = h.v.set r x := by simp [Hart.setV]
@[simp] theorem Hart.setVFix_v (h : Hart) (r : VReg) (x : Vec) (l m : Nat) : (h.setVFix r x l m).v = h.v.set r x := by simp [Hart.setVFix]

/-- The scoreboard after a complete write: nothing is under way for the register. -/
theorem Hart.setC_pend (h : Hart) (r : CReg) (x : Cap) :
    (h.setC r x).pend = if r = 0 then h.pend else h.pend.filter (fun p => p.vec || p.reg != r.val) := by
  unfold Hart.setC; split <;> simp

/-- A v-register written without latency reads as its value. -/
theorem Hart.setV_pend (h : Hart) (r : VReg) (x : Vec) : (h.setV r x).pend = h.pend.filter (fun p => !p.vec || p.reg != r.val) := by
  simp [Hart.setV]

/-- Ageing the scoreboard drops entries and adds none. -/
theorem agePend_sub (d : Nat) (l : List Pend) (met : List (Bool × Nat)) (p : Pend) (h : p ∈ agePend d met l) :
    ∃ q ∈ l, q.vec = p.vec ∧ q.reg = p.reg ∧ q.lat = p.lat ∧ q.dist ≤ p.dist := by
  induction l generalizing met with
  | nil => simp [agePend] at h
  | cons q r ih =>
    unfold agePend at h
    split at h
    · obtain ⟨x, hx, e⟩ := ih _ h; exact ⟨x, List.mem_cons_of_mem _ hx, e⟩
    · split at h
      · obtain ⟨x, hx, e⟩ := ih _ h; exact ⟨x, List.mem_cons_of_mem _ hx, e⟩
      · rcases List.mem_cons.mp h with h | h
        · subst h; exact ⟨q, by simp, by simp⟩
        · obtain ⟨x, hx, e⟩ := ih _ h; exact ⟨x, List.mem_cons_of_mem _ hx, e⟩

end Sys2Proof.Machine
end

