-- ==== Sys2Proof/Laws/Reads.lean ====
section
/-! SUPPORT. Reading registers that can be read neither traps nor waits (09 R199, R202). -/

namespace Sys2Proof.Machine

theorem Hart.short_none (h : Hart) (vec : Bool) (r : Nat) (hs : h.latencyMet vec r) : h.short vec r = none := by
  unfold Hart.short Hart.pendOf
  split
  · rfl
  · next p older e =>
    have hp : p ∈ List.filter (fun p => p.vec == vec && p.reg == r) h.pend := by rw [e]; simp
    simp at hp
    simp [hs p hp.1 hp.2.1 hp.2.2]

theorem Hart.firstShort_none (h : Hart) (l : List (Bool × Nat)) (hl : ∀ e ∈ l, h.latencyMet e.1 e.2) : h.firstShort l = none := by
  induction l with
  | nil => rfl
  | cons e r ih =>
    obtain ⟨v, n⟩ := e
    simp only [Hart.firstShort, h.short_none v n (hl (v, n) (by simp))]
    exact ih fun e he => hl e (by simp [he])

/-- Registers that can be read are ready. -/
theorem State.ready_ok (s : State) (l : List (Bool × Nat)) (hl : ∀ e ∈ l, e ≠ (false, 0) → s.hart.readable e.1 e.2) : s.ready l = .ok () := by
  unfold State.ready
  have hm : ∀ e ∈ l.filter (fun e => e != (false, 0)), s.hart.readable e.1 e.2 := by
    intro e he; simp only [List.mem_filter, bne_iff_ne] at he; exact hl e he.1 he.2
  have h1 : (if s.hart.ctl.chk = true then s.hart.firstShort (l.filter fun e => e != (false, 0)) else none) = none := by
    split
    · next hc => exact Hart.firstShort_none _ _ fun e he => (hm e he).1 hc
    · rfl
  have h2 : (l.filter fun e => e != (false, 0)).any (fun e => s.hart.poison.contains (e.2 + 32 * b2n e.1)) = false := by
    rw [List.any_eq_false]
    intro e he
    have := (hm e he).2
    simpa using this
  simp only [h1, h2]
  rfl

/-- c-registers that can be read are ready. -/
theorem State.readyC_ok (s : State) (l : List CReg) (h : s.ReadsC l) : s.readyC l = .ok () := by
  apply s.ready_ok
  intro e he hne
  simp only [List.mem_map] at he
  obtain ⟨r, hr, rfl⟩ := he
  refine h r hr ?_
  rintro rfl
  exact hne rfl

end Sys2Proof.Machine
end

