-- ==== Sys2Proof/Laws/Retire.lean ====
section
/-! SUPPORT. What retiring an instruction does (09 R193, R198, R199). -/

namespace Sys2Proof.Machine

/-! ## The parts of a hart that retiring changes -/

theorem Hart.count_eq (h : Hart) (a n : Nat) : h.count a n = { h with perf := (h.count a n).perf } := by
  unfold Hart.count; split <;> rfl

theorem Hart.countAll_eq (h : Hart) (l : List (Nat × Nat)) : h.countAll l = { h with perf := (h.countAll l).perf } := by
  unfold Hart.countAll
  induction l generalizing h with
  | nil => rfl
  | cons e r ih => rw [List.foldl_cons, ih (h.count e.1 e.2), Hart.count_eq h e.1 e.2]

theorem Hart.spend_eq (h : Hart) (n : Nat) :
    h.spend n = { h with sync := { h.sync with budget := (h.spend n).sync.budget }, asy := (h.spend n).asy } := by
  unfold Hart.spend; split <;> rfl

theorem Hart.pass_eq (h : Hart) (n units : Nat) :
    h.pass n units = { h with
      perf := (h.pass n units).perf, clock := (h.pass n units).clock, cyc := (h.pass n units).cyc
      ctl := { h.ctl with cycle := (h.pass n units).ctl.cycle } } := by
  unfold Hart.pass; rw [Hart.count_eq]

theorem Hart.advance_eq (h : Hart) :
    h.advance = { h with pc := h.advance.pc, slot := none, fetchReg := h.advance.fetchReg } := by
  unfold Hart.advance; split
  · rfl
  · next e => cases h; simp_all

theorem Hart.advance_pc (h : Hart) : h.advance.pc = h.after := by
  unfold Hart.advance Hart.after; split <;> simp_all [Hart.seqPc]

/-- Charging energy changes one account. -/
theorem State.energyAt_trays (s : State) (core maj w k : Nat) :
    tget {} (s.energyAt core maj w).m.trays k = { tget {} s.m.trays k with
      enacc := (tget {} (s.energyAt core maj w).m.trays k).enacc, spent := (tget {} (s.energyAt core maj w).m.trays k).spent } := by
  unfold State.energyAt
  dsimp only
  generalize tget 0 s.m.power.table _ = e
  by_cases he : e = 0
  · simp [he]
  · by_cases hc : core < 4096
    · simp only [he, hc, if_true, if_false, State.modTray_m, tget_tmod]
      split
      · next h => subst h; rfl
      · rfl
    · simp [he, hc]

theorem State.energyAt_eq (s : State) (core maj w : Nat) :
    s.energyAt core maj w = { s with m := { s.m with trays := (s.energyAt core maj w).m.trays, power := { s.m.power with
      dieAcc := (s.energyAt core maj w).m.power.dieAcc, dieSpent := (s.energyAt core maj w).m.power.dieSpent } } } := by
  unfold State.energyAt
  dsimp only
  generalize tget 0 s.m.power.table _ = e
  by_cases he : e = 0
  · simp [he]
  · by_cases hc : core < 4096 <;> simp [he, hc, State.onMod, State.modTray]

/-- The energy of a step is charged to accounts of the module alone. -/
theorem State.energy_eq (s : State) (maj w : Nat) :
    s.energy maj w = { s with m := { s.m with trays := (s.energy maj w).m.trays, power := { s.m.power with
      dieAcc := (s.energy maj w).m.power.dieAcc, dieSpent := (s.energy maj w).m.power.dieSpent } } } := by
  unfold State.energy
  simp only []
  split
  · rw [State.energyAt_eq (s.energyAt s.cur maj w), State.energyAt_eq s s.cur]
  · exact State.energyAt_eq ..

theorem State.energy_trays (s : State) (maj w k : Nat) :
    tget {} (s.energy maj w).m.trays k = { tget {} s.m.trays k with
      enacc := (tget {} (s.energy maj w).m.trays k).enacc, spent := (tget {} (s.energy maj w).m.trays k).spent } := by
  unfold State.energy
  simp only []
  split
  · rw [State.energyAt_trays (s.energyAt s.cur maj w), State.energyAt_trays s s.cur]
  · exact State.energyAt_trays ..

/-! ## Retiring -/

/-- The hart that retires, before time passes. -/
def retiring (s : State) (r : Ret) : Hart :=
  let h := s.hart
  let d := 1 + r.s
  let h := { h with
    pend := agePend d [] h.pend
    ctl := { h.ctl with retired := h.ctl.retired + 1 }
    rep := if h.rep.phase = 1 then { h.rep with count := h.rep.count + 1 } else h.rep
    pair := if h.pair.on then { h.pair with count := h.pair.count + 1, due := h.pair.due || decide (1024 ≤ h.pair.count + 1) } else h.pair
    early := if keepsEarly r.maj then h.early else []
    earlyTags := if keepsEarly r.maj then h.earlyTags else [] }.settled
  ((h.countAll ((0x02, 1) :: (0x0F, r.s) :: (0x10, s.delay) :: (0x1A, s.hart.walked) :: (r.ev ++ s.hart.ev).map (fun e => (e, 1)))).spend (d + s.delay)).advance

theorem State.retire_def (s : State) (r : Ret) :
    s.retire r = (({ s with hart := retiring s r }).charge (1 + r.s + s.delay)).energy r.maj r.width := rfl

theorem retiring_eq (s : State) (r : Ret) :
    retiring s r = { s.hart.settled with
      pend := agePend (1 + r.s) [] s.hart.pend
      ctl := { s.hart.ctl with retired := s.hart.ctl.retired + 1 }
      rep := (retiring s r).rep, pair := (retiring s r).pair, perf := (retiring s r).perf
      sync := { s.hart.sync with budget := (retiring s r).sync.budget }, asy := (retiring s r).asy
      pc := (retiring s r).pc, slot := none, fetchReg := (retiring s r).fetchReg, early := (retiring s r).early, earlyTags := (retiring s r).earlyTags } := by
  unfold retiring
  simp only []
  rw [Hart.advance_eq, Hart.spend_eq, Hart.countAll_eq]
  rfl

theorem State.charge_hart (s : State) (n : Nat) :
    (s.charge n).hart = { s.hart with
      perf := (s.charge n).hart.perf, clock := (s.charge n).hart.clock, cyc := (s.charge n).hart.cyc
      ctl := { s.hart.ctl with cycle := (s.charge n).hart.ctl.cycle } } := by
  exact Hart.pass_eq ..

theorem State.charge_eq (s : State) (n : Nat) :
    s.charge n = { s with hart := (s.charge n).hart, m := { s.m with now := (s.charge n).m.now }, delays := s.delays.tail } := rfl

theorem State.retire_hart (s : State) (r : Ret) :
    (s.retire r).hart = { s.hart.settled with
      pend := agePend (1 + r.s) [] s.hart.pend
      ctl := { s.hart.ctl with retired := s.hart.ctl.retired + 1, cycle := (s.retire r).hart.ctl.cycle }
      rep := (s.retire r).hart.rep, pair := (s.retire r).hart.pair, perf := (s.retire r).hart.perf
      sync := { s.hart.sync with budget := (s.retire r).hart.sync.budget }, asy := (s.retire r).hart.asy
      pc := (s.retire r).hart.pc, slot := none, fetchReg := (s.retire r).hart.fetchReg, clock := (s.retire r).hart.clock
      cyc := (s.retire r).hart.cyc, early := (s.retire r).hart.early, earlyTags := (s.retire r).hart.earlyTags } := by
  rw [State.retire_def, State.energy_eq]
  simp only []
  rw [State.charge_hart, retiring_eq]

@[simp] theorem State.retire_c (s : State) (r : Ret) : (s.retire r).hart.c = s.hart.c :=
  congrArg (·.c) (State.retire_hart s r)
@[simp] theorem State.retire_v (s : State) (r : Ret) : (s.retire r).hart.v = s.hart.v :=
  congrArg (·.v) (State.retire_hart s r)
@[simp] theorem State.retire_pend (s : State) (r : Ret) : (s.retire r).hart.pend = agePend (1 + r.s) [] s.hart.pend :=
  congrArg (·.pend) (State.retire_hart s r)
@[simp] theorem State.retire_arstat (s : State) (r : Ret) : (s.retire r).hart.ctl.arstat = s.hart.ctl.arstat :=
  congrArg (·.ctl.arstat) (State.retire_hart s r)
@[simp] theorem State.retire_lvl (s : State) (r : Ret) : (s.retire r).hart.lvl = s.hart.lvl :=
  congrArg (·.lvl) (State.retire_hart s r)
@[simp] theorem State.retire_slot (s : State) (r : Ret) : (s.retire r).hart.slot = none :=
  congrArg (·.slot) (State.retire_hart s r)
@[simp] theorem State.retire_streams (s : State) (r : Ret) : (s.retire r).hart.streams = s.hart.streams :=
  congrArg (·.streams) (State.retire_hart s r)
@[simp] theorem State.retire_q (s : State) (r : Ret) : (s.retire r).hart.q = s.hart.q :=
  congrArg (·.q) (State.retire_hart s r)
@[simp] theorem State.retire_poison (s : State) (r : Ret) : (s.retire r).hart.poison = s.hart.poison :=
  congrArg (·.poison) (State.retire_hart s r)
@[simp] theorem State.retire_retired (s : State) (r : Ret) : (s.retire r).hart.ctl.retired = s.hart.ctl.retired + 1 :=
  congrArg (·.ctl.retired) (State.retire_hart s r)
@[simp] theorem State.retire_kb (s : State) (r : Ret) : (s.retire r).hart.kb = s.hart.kb :=
  congrArg (·.kb) (State.retire_hart s r)
@[simp] theorem State.retire_fb (s : State) (r : Ret) : (s.retire r).hart.fb = s.hart.fb :=
  congrArg (·.fb) (State.retire_hart s r)

theorem State.retire_pc (s : State) (r : Ret) : (s.retire r).hart.pc = s.hart.after := by
  rw [State.retire_def, State.energy_eq]
  simp only []
  rw [State.charge_hart]
  simp only [retiring, Hart.advance_pc]
  rw [Hart.spend_eq, Hart.countAll_eq]
  rfl

theorem State.retire_mod (s : State) (r : Ret) :
    (s.retire r).m = { s.m with now := (s.retire r).m.now, trays := (s.retire r).m.trays, power := { s.m.power with
      dieAcc := (s.retire r).m.power.dieAcc, dieSpent := (s.retire r).m.power.dieSpent } } := by
  rw [State.retire_def, State.energy_eq]; rfl

@[simp] theorem State.retire_mem (s : State) (r : Ret) : (s.retire r).m.mem = s.m.mem := by rw [State.retire_mod]

theorem State.retire_trays (s : State) (r : Ret) (k : Nat) :
    tget {} (s.retire r).m.trays k = { tget {} s.m.trays k with enacc := (tget {} (s.retire r).m.trays k).enacc, spent := (tget {} (s.retire r).m.trays k).spent } := by
  rw [State.retire_def, State.energy_trays]; rfl

theorem State.retire_rest (s : State) (r : Ret) :
    (s.retire r).parked = s.parked ∧ (s.retire r).cur = s.cur ∧ (s.retire r).agenda = s.agenda ∧
      (s.retire r).splits = s.splits ∧ (s.retire r).pends = s.pends ∧ (s.retire r).tick = s.tick := by
  rw [State.retire_def, State.energy_eq]; exact ⟨rfl, rfl, rfl, rfl, rfl, rfl⟩

/-- Retiring after a change of the hart alone that keeps its PC moves on. -/
theorem retire_movesOn (s : State) (f : Hart → Hart) (r : Ret) (h : (f s.hart).slot = s.hart.slot ∧ (f s.hart).pc = s.hart.pc ∧ (f s.hart).hc = s.hart.hc) :
    MovesOn s ((s.onHart f).retire r) :=
  ⟨State.retire_slot _ _, by rw [State.retire_pc]; simp [Hart.after, h.1, h.2.1, h.2.2]⟩

/-- An instruction that only changes registers, scoreboard, parity marks, flags and notes of the hart, and then retires, has the
frame of its destinations. -/
theorem retire_frame (s : State) (f : Hart → Hart) (r : Ret) (cs : List CReg) (vs : List VReg)
    (hf : f s.hart = { s.hart with c := (f s.hart).c, v := (f s.hart).v, pend := (f s.hart).pend, poison := (f s.hart).poison, pair := (f s.hart).pair, ctl := { s.hart.ctl with arstat := (f s.hart).ctl.arstat } })
    (hc : ∀ r, r ∉ cs → (f s.hart).c[r] = s.hart.c[r]) (hv : ∀ r, r ∉ vs → (f s.hart).v[r] = s.hart.v[r]) :
    Frame s ((s.onHart f).retire r) cs vs where
  c := by simpa using hc
  v := by simpa using hv
  ctl := by rw [State.retire_hart]; simp only [State.onHart_hart]; rw [hf]
  hart := by rw [State.retire_hart]; simp only [State.onHart_hart]; rw [hf]; rfl
  trays := by intro n; rw [State.retire_trays]; rfl
  mod := by rw [State.retire_mod]; rfl
  mem := by simp
  rest := by have := State.retire_rest (s.onHart f) r; simpa using this

/-! ## Reading after writing -/

/-- A register that is settled reads as its value. -/
theorem Hart.rc_settled (h : Hart) (r : CReg) (hs : ∀ p ∈ h.pend, p.vec = false → p.reg = r.val → p.lat ≤ p.dist) :
    h.rc r = if r = 0 then {} else h.c[r] := by
  unfold Hart.rc
  split
  · rfl
  · unfold Hart.pendOf
    split
    · rfl
    · next p older e =>
      have hp : p ∈ List.filter (fun p => p.vec == false && p.reg == r.val) h.pend := by rw [e]; simp
      simp at hp
      simp [hs p hp.1 hp.2.1 hp.2.2]

/-- A c-register just written with a complete result reads as that result after the instruction retires. -/
theorem State.setC_retire_rc (s : State) (a : CReg) (x : Cap) (r : Ret) : ((s.setC a x).retire r).rc a = if a = 0 then {} else x := by
  unfold State.rc
  by_cases h : a = 0
  · simp [Hart.rc, h]
  · rw [Hart.rc_settled]
    · simp [h, Hart.setC_c]
    · intro p hp hv hr
      rw [State.retire_pend] at hp
      obtain ⟨q, hq, e1, e2, -, -⟩ := agePend_sub _ _ _ _ hp
      simp [Hart.setC_pend, h] at hq
      rcases hq.2 with h1 | h1 <;> simp_all

end Sys2Proof.Machine
end

