-- ==== Sys2Proof/Laws/Scalar.lean ====
section
/-! SUPPORT. What the shared forms of the integer instructions do where their sources can be read (10 R218 to R222). -/

namespace Sys2Proof.Machine

/-- What a write of one c-register and retiring leave as they were. -/
theorem setC_frame (s : State) (a : CReg) (x : Cap) (r : Ret) : Frame s ((s.setC a x).retire r) [a] [] := by
  refine retire_frame s (·.setC a x) r [a] [] ?_ ?_ ?_
  · rw [Hart.setC_eq]
  · intro q hq
    simp at hq
    rw [Hart.setC_c]; split
    · rfl
    · simp only [Fin.getElem_fin]; rw [Vector.getElem_set_ne]; intro e; exact hq (Fin.ext e.symm)
  · intro q _; rw [Hart.setC_eq]

/-- An instruction that only writes a c-register and retires completes as WritesC says. -/
theorem writesC_of (s : State) (i : Instr) (a : CReg) (x : Cap) (r : Ret)
    (h : exec i s = .next ((s.setC a x).retire r)) : WritesC s i a x := by
  refine ⟨_, h, State.setC_retire_rc s a x r, setC_frame s a x r, ?_, ?_⟩
  · unfold SameFlags; rw [State.retire_arstat]; rw [State.setC_hart]; rw [Hart.setC_eq]
  · exact retire_movesOn s (·.setC a x) r (by rw [Hart.setC_eq]; exact ⟨rfl, rfl, rfl⟩)

/-- The same for an integer result. -/
theorem writesX_of (s : State) (i : Instr) (a : CReg) (x y : Word) (r : Ret) (h : exec i s = .next ((s.setX a x).retire r)) (e : x = y) :
    WritesX s i a y := by
  subst e; exact writesC_of s i a _ r h

/-- A two-address form of class ALU whose sources can be read. -/
theorem compact2_ok (maj : Nat) (f : Word → Word → Word) (n : Fin 4) (a b : CReg) (s : State) (h : s.ReadsC [a, b]) :
    compact2 maj f n a b s = .next ((s.setX a (f (s.ra a) (s.ra b))).retire { s := n, maj := maj }) := by
  simp [compact2, s.readyC_ok _ h, complete, bind, Except.bind]

/-- A three-address form of class ALU whose sources can be read. -/
theorem alu3_ok (maj : Nat) (f : Word → Word → Word) (n : Fin 4) (a b c : CReg) (s : State) (h : s.ReadsC [b, c]) :
    alu3 maj f n a b c s = .next ((s.setX a (f (s.ra b) (s.ra c))).retire { s := n, maj := maj }) := by
  simp [alu3, s.readyC_ok _ h, complete, bind, Except.bind]

/-- A form of class ALU with one source that can be read. -/
theorem alu2_ok (maj : Nat) (f : Word → Word) (n : Fin 4) (a b : CReg) (s : State) (h : s.ReadsC [b]) :
    alu2 maj f n a b s = .next ((s.setX a (f (s.ra b))).retire { s := n, maj := maj }) := by
  simp [alu2, s.readyC_ok _ h, complete, bind, Except.bind]


/-- The form of SELNZ and SELZ, whose three sources can be read. -/
theorem sel3_ok (keep : Word → Bool) (n : Fin 4) (a b c : CReg) (s : State) (h : s.ReadsC [b, c, a]) :
    sel3 keep n a b c s = .next ((s.setX a (if keep (s.ra c) then s.ra a else s.ra b)).retire { s := n, maj := 0x0E }) := by
  simp [sel3, s.readyC_ok _ h, complete, bind, Except.bind]

end Sys2Proof.Machine
end

