-- ==== Sys2Proof/Tests/Slice0.lean ====
section
/-! SUPPORT. The model's own tests: ill-formed terms, words of every family, worked examples of the spec, and for every statement with
hypotheses a state and operands that meet them (witness_...). -/

open Sys2Proof Sys2Proof.Machine

namespace Sys2Proof.Tests

-- One theorem after another: evaluating many at once takes a thread's stack for each.
set_option Elab.async false

/-! ## Helpers -/

/-- The state after an outcome; reset where there is none. -/
def after (o : Host.Outcome State Fault Refusal) : State :=
  match o with
  | .next t => t
  | _ => State.reset

/-- An operation answers. -/
def isOk {α : Type} (r : R α) : Bool :=
  match r with
  | .ok _ => true
  | .error _ => false

/-- What it answers. -/
def okVal {α : Type} (d : α) (r : R α) : α :=
  match r with
  | .ok x => x
  | .error _ => d

/-- A witness `isOk r` stands for the hypothesis that r answers `okVal d r`. -/
theorem eq_of_isOk {α : Type} (d : α) (r : R α) (h : isOk r = true) : r = .ok (okVal d r) := by
  cases r with
  | ok x => rfl
  | error e => simp [isOk] at h

theorem readsC_of (s : State) (l : List CReg) (h1 : s.hart.pend = []) (h2 : s.hart.poison = []) : s.ReadsC l := by
  intro r _ _; exact ⟨fun _ p hp => by rw [h1] at hp; simp at hp, by rw [h2]; simp⟩

theorem readsV_of (s : State) (l : List VReg) (h1 : s.hart.pend = []) (h2 : s.hart.poison = []) (h3 : s.hart.streams = []) : s.ReadsV l := by
  intro r _; exact ⟨⟨fun _ p hp => by rw [h1] at hp; simp at hp, by rw [h2]; simp⟩, by rw [h3]; rfl⟩

theorem readable_of (s : State) (vec : Bool) (r : Nat) (h1 : s.hart.pend = []) (h2 : s.hart.poison = []) : s.hart.readable vec r :=
  ⟨fun _ p hp => by rw [h1] at hp; simp at hp, by rw [h2]; simp⟩

theorem readsOp_of (s : State) (o : VOp) (l : List VReg) (h1 : s.hart.pend = []) (h2 : s.hart.poison = []) (h3 : s.hart.streams = []) :
    ReadsOp s o l := ⟨readsV_of s _ h1 h2 h3, by rw [h3]; rfl⟩

/-- A hart of gang 1 of context 2 at level K on core 0, at head 1 of a line of 31 heads. -/
def base : State := { hart := { place := .placed, pc := 0x40002, hc := 31, lvl := .k, ctx := 2, gang := 1 } }

/-- The same with some c-registers. -/
def withC (l : List (CReg × Cap)) : State :=
  base.onHart fun h => { h with c := l.foldl (fun (v : Vector Cap 16) e => v.set e.1 e.2) h.c }

/-- An untagged number. -/
def num (x : Word) : Cap := { addr := x }

/-- The context root capability at an address, with every permission (R27). -/
def root (x : Word) : Cap := { tag := true, md := 0x000000000023007F, addr := x }

/-! ## Ill-formed terms (R196, and the rules named in WellFormed) -/

/-- Vector operands of zeros in FP32. -/
def op0 : VOp := { s := 0, b := 0, rnd := 0, fmt := 0x10, ag := false, me := false, msk := 0, vc := 0, vb := 0, va := 0, vd := 0 }
def cp0 : CopyOp := { s := 0, a := 1, b := 2, metaReg := 0, fac := false, xf := 0, dim := 0, dh := 0x3FF, len := 3 }

theorem test_wf_store_of_unsigned_size : Instr.wf (.st 0 1 2 false 1 0) = false := by decide
theorem test_wf_far_store_of_unsigned_size : Instr.wf (.stFar 0 1 2 false 5 0) = false := by decide
theorem test_wf_mask_without_me : Instr.wf (.vadd { op0 with msk := 1 }) = false := by decide
theorem test_wf_agnostic_without_me : Instr.wf (.vfma { op0 with ag := true }) = false := by decide
theorem test_wf_two_has_no_b : Instr.wf (.vadd { op0 with b := 1 }) = false := by decide
theorem test_wf_two_has_no_rounding : Instr.wf (.vadd { op0 with rnd := 1 }) = false := by decide
theorem test_wf_two_has_no_vc : Instr.wf (.vadd { op0 with vc := 1 }) = false := by decide
theorem test_wf_one_has_no_vb : Instr.wf (.vneg { op0 with vb := 1 }) = false := by decide
theorem test_wf_shift_below_width : Instr.wf (.vshli { op0 with fmt := 1, vc := 8 }) = false := by decide
theorem test_wf_rounding_two_has_no_vc : Instr.wf (.vfadd { op0 with vc := 1 }) = false := by decide
theorem test_wf_rounding_one_has_no_vb : Instr.wf (.vfsqrt { op0 with vb := 1 }) = false := by decide
theorem test_wf_three_has_no_b : Instr.wf (.vfma { op0 with b := 1 }) = false := by decide
theorem test_wf_select_takes_no_mask : Instr.wf (.vsel { op0 with me := true }) = false := by decide
theorem test_wf_select_register : Instr.wf (.vsel { op0 with vc := 8 }) = false := by decide
theorem test_wf_splat_has_no_va : Instr.wf (.vsplat { op0 with va := 1 }) = false := by decide
theorem test_wf_extract_has_no_vd : Instr.wf (.vext { op0 with vd := 1 }) = false := by decide
theorem test_wf_insert_names_a_c_register : Instr.wf (.vins { op0 with vc := 16 }) = false := by decide
theorem test_wf_shuffle_has_no_b : Instr.wf (.vshuf { op0 with b := 1 }) = false := by decide
theorem test_wf_slide_has_no_vc : Instr.wf (.vslide { op0 with vc := 1 }) = false := by decide
theorem test_wf_mask_count_has_no_vd : Instr.wf (.vmpopc { op0 with vd := 1 }) = false := by decide
theorem test_wf_mask_first_names_a_c_register : Instr.wf (.vmfirst { op0 with vc := 16 }) = false := by decide
theorem test_wf_reduction_start : Instr.wf (.vredsum { op0 with vc := 1 }) = false := by decide
theorem test_wf_reduction_b : Instr.wf (.vfredsum { op0 with b := 2 }) = false := by decide
theorem test_wf_conversion_part : Instr.wf (.vcvt { op0 with vc := 0x11, b := 2 }) = false := by decide
theorem test_wf_load_has_no_vc : Instr.wf (.vld { op0 with vc := 1 }) = false := by decide
theorem test_wf_strided_has_no_vb : Instr.wf (.vlds { op0 with vb := 1 }) = false := by decide
theorem test_wf_indexed_has_no_va : Instr.wf (.vldx { op0 with va := 1 }) = false := by decide
theorem test_wf_blocked_has_no_vb : Instr.wf (.vldDec { op0 with vb := 1 }) = false := by decide
theorem test_wf_encoding_takes_no_mask : Instr.wf (.vstEnc { op0 with me := true }) = false := by decide
theorem test_wf_copy_transform : Instr.wf (.cpCopy { cp0 with xf := 3 }) = false := by decide
theorem test_wf_copy_dimensions : Instr.wf (.cpMcast { cp0 with dim := 3 }) = false := by decide
theorem test_wf_copy_meta : Instr.wf (.cpCopy { cp0 with metaReg := 1 }) = false := by decide
theorem test_wf_transpose_to_a_handle : Instr.wf (.mxTrn 0 1 0 5 0 0 0) = false := by decide
theorem test_wf_microprogram_slot : Instr.wf (.mxUprog 0 1 0) = false := by decide
theorem test_wf_barrier_level : Instr.wf (.barArrive 0 1 5) = false := by decide
theorem test_wf_barrier_wait_level : Instr.wf (.barWait 0 1 5) = false := by decide
theorem test_wf_barrier_sync_level : Instr.wf (.barSync 0 5) = false := by decide
theorem test_wf_barrier_test_level : Instr.wf (.barTest 0 1 2 5) = false := by decide
theorem test_wf_domain_level : Instr.wf (.domSet 0 1 4) = false := by decide
theorem test_wf_phase_level : Instr.wf (.phase 0 1 2 4) = false := by decide
theorem test_wf_own_spawn_hearth : Instr.wf (.taskSpawn 0 1 2 1 true) = false := by decide
theorem test_wf_bind_kind : Instr.wf (.qbind 0 1 0 5) = false := by decide
theorem test_wf_bind_without_source : Instr.wf (.qbind 0 1 2 0) = false := by decide
theorem test_wf_stream_register : Instr.wf (.sbind 0 23 1) = false := by decide
theorem test_wf_unbind_stream_register : Instr.wf (.sunbind 0 23) = false := by decide

/-! ## Words (R190 to R196; the heads and tails of the spec's programs and of its encoding tables) -/

/-- A head and a tail as the opcode table numbers their bits. -/
def word (head tail : Nat) : Nat := head + tail * 0x10000

theorem test_decode_compact : decodeTableWord 16 (word 0x0012 0) = some (.addCompact 0 1 2) := by decide
theorem test_decode_compact_with_stall : decodeTableWord 16 (word 0xC634 0) = some (.mulCompact 3 3 4) := by decide
theorem test_decode_three_address : decodeTableWord 32 (word 0x0D27 0x0006) = some (.seq 0 2 7 6) := by decide
theorem test_decode_unary : decodeTableWord 32 (word 0x0F12 0x0020) = some (.popc 0 1 2) := by decide
theorem test_decode_immediate : decodeTableWord 80 (word 0x1250 0x0123456789ABCDEF) = some (.li64 0 5 0x0123456789ABCDEF#64) := by decide
theorem test_decode_cadd : decodeTableWord 48 (word 0x1712 0xFFFFFFFF) = some (.cadd32 0 1 2 0xFFFFFFFF#32) := by decide
theorem test_decode_load : decodeTableWord 32 (word 0x1854 0xE004) = some (.ld 0 5 4 true 6 4#12) := by decide
theorem test_decode_store : decodeTableWord 32 (word 0x1956 0x7FFF) = some (.st 0 5 6 false 7 0xFFF#12) := by decide
theorem test_decode_amo : decodeTableWord 32 (word 0x1C66 0x080E) = some (.amoAdd 0 6 6 true 14) := by decide
theorem test_decode_cas : decodeTableWord 32 (word 0x1D54 0x0806) = some (.cas 0 5 4 true 6) := by decide
theorem test_decode_fence : decodeTableWord 32 (word 0x1E00 0x00F3) = some (.fence 0 15 3) := by decide
theorem test_decode_branch : decodeTableWord 32 (word 0x246C 0x7000) = some (.bltu 0 6 12 14 0#11) := by decide
theorem test_decode_jump : decodeTableWord 48 (word 0x2610 0x81) = some (.jal 0 1 4#27 1) := by decide
theorem test_decode_jr : decodeTableWord 32 (word 0x2701 0) = some (.jr 0 0 1) := by decide
theorem test_decode_capability : decodeTableWord 32 (word 0x2B12 0x0080) = some (.creadMeta 0 1 2) := by decide
theorem test_decode_cfmt : decodeTableWord 32 (word 0x2A12 0x0035) = some (.cfmt 0 1 2 1 0x15) := by decide
theorem test_decode_vector_float : decodeTableWord 48 (word 0xF290 0x20094612) =
    some (.vfma { op0 with s := 3, b := 0, vc := 18, vb := 17, va := 16, vd := 18 }) := by decide
theorem test_decode_vector_splat : decodeTableWord 48 (word 0x3517 0x20000010) = some (.vsplat { op0 with b := 7, vd := 16 }) := by decide
theorem test_decode_vector_load : decodeTableWord 48 (word 0x3704 0x20000011) = some (.vld { op0 with b := 4, vd := 17 }) := by decide
theorem test_decode_vector_store : decodeTableWord 48 (word 0x3715 0x20000012) = some (.vst { op0 with b := 5, vd := 18 }) := by decide
theorem test_decode_copy : decodeTableWord 48 (word 0x38AB 0x1C) =
    some (.cpCopy { s := 0, a := 10, b := 11, metaReg := 0, fac := false, xf := 0, dim := 0, dh := 1, len := 12 }) := by decide
theorem test_decode_buffer : decodeTableWord 48 (word 0x39E5 0x04000000) = some (.btStat 0 14 5) := by decide
theorem test_decode_matrix : decodeTableWord 80 (word 0x3A80 0x0302521F1C701805) =
    some (.mxMma { s := 0, a := 8, b := 0, kpReassoc := false, kpRound := false, tok := false, sp := false, fc := true, acc := true, tb := false, ta := false, up := 0, bfmt := 0x12, afmt := 0x12, kc := 0x1F, nc := 7, mc := 7, bh := 6, ah := 5 }) := by decide
theorem test_decode_matrix_transpose : decodeTableWord 80 (word 0x3A00 0x400009001C700801) = some (.mxTrn 0 0 1 2 7 7 9) := by decide
theorem test_decode_kneader : decodeTableWord 80 (word 0x3B05 0) = some (.knLoad 0 5) := by decide
theorem test_decode_barrier : decodeTableWord 32 (word 0x3C00 0x2001) = some (.barSync 0 1) := by decide
theorem test_decode_send : decodeTableWord 32 (word 0x3C06 0x8011) = some (.send 0 6 17 0) := by decide
theorem test_decode_task : decodeTableWord 32 (word 0x3CB0 0xB000) = some (.taskTake 0 11 0) := by decide
theorem test_decode_control : decodeTableWord 32 (word 0x3D50 0x0030) = some (.ctlRd 0 5 0x030) := by decide
theorem test_decode_eret : decodeTableWord 32 (word 0x3D00 0x3200) = some (.eret 0) := by decide
theorem test_decode_inject : decodeTableWord 32 (word 0x3D87 0x3900) = some (.errinj 0 8 7) := by decide
theorem test_decode_reserved_major : decode false 0x1F00 0 = .error 0 := rfl
theorem test_decode_unassigned_func : decode false 0x0800 0x0060 = .error 1 := rfl
theorem test_decode_reserved_field : decode false 0x0F12 0x0021 = .error 2 := rfl
theorem test_decode_matrix_on_a_miller : decode true 0x3A50 0x4300000000000000 = .error 4 := rfl

/-! ## Witnesses: states and operands that meet the hypotheses of the statements

The first half of each name is the statement's. A hypothesis that an operation answers is shown as `∃ y, r = .ok y ∧ …`. -/

theorem exists_ok {α : Type} {r : R α} {P : α → Prop} [DecidablePred P]
    (h : (match r with | .ok x => decide (P x) | .error _ => false) = true) : ∃ y, r = .ok y ∧ P y := by
  cases r with
  | ok x => exact ⟨x, rfl, by simpa using h⟩
  | error e => simp at h

/-- What `Clear` says, as something to evaluate. -/
def clearB (s : State) (keys : List Nat) (whole : Bool) : Bool :=
  decide ((∀ k ∈ keys, s.markOf k = .pass) ∧ (∀ k ∈ keys, s.poisonedFor whole k = false) ∧
    (∀ k ∈ keys, isL1 k = true → tget? s.m.flips (k / 8) = none) ∧ (∀ k ∈ keys, s.inRefresh k = false) ∧
    (∀ k ∈ keys, ∀ w ∈ s.chanWaits, w.1 ≠ bankOf k) ∧ (∀ k ∈ keys, isHbm k = true → (s.chan (keyCh k)).reads = []) ∧
    (s.splits = [] ∧ s.pends = []) ∧ (s.hart.got = [] ∧ (∀ c ∈ s.hart.early, c.1 ∉ keys) ∧ ∀ k ∈ keys, tget? s.hart.earlyTags (k / 16) = none) ∧ noKey ∉ keys ∧ s.late = false)

theorem clear_of (s : State) (keys : List Nat) (whole : Bool) (h : clearB s keys whole = true) : Clear s keys whole := by
  simp only [clearB, decide_eq_true_eq] at h
  obtain ⟨h1, h2, h3, h4, h5, h6, h7, h8, h9, h10⟩ := h
  exact ⟨h1, h2, h3, h4, h5, h6, h7, h8, h9, fun _ => h10⟩

/-! ### Integer instructions and capabilities -/

theorem witness_IntegerForms : base.ReadsC [1, 2] ∧ base.ReadsC [0, 15] := ⟨readsC_of _ _ rfl rfl, readsC_of _ _ rfl rfl⟩

/-- Counts at their ends: 0 leading and 63 trailing zeros, and 64 of both. -/
theorem witness_UnaryImmediateAndSelectForms :
    let s := withC [(2, num 0x8000000000000000), (3, num 0)]
    s.ReadsC [2] ∧ s.ReadsC [1, 2, 3] ∧
      ((∀ i < 0, (s.ra 2).getLsbD (63 - i) = false) ∧ (s.ra 2).getLsbD 63 = true) ∧
      ((∀ i < 63, (s.ra 2).getLsbD i = false) ∧ (s.ra 2).getLsbD 63 = true) ∧
      ((∀ i < 64, (s.ra 3).getLsbD (63 - i) = false) ∧ ∀ i < 64, (s.ra 3).getLsbD i = false) :=
  ⟨readsC_of _ _ rfl rfl, readsC_of _ _ rfl rfl, by decide +kernel⟩

theorem witness_MultipliesAndDivisions : (withC [(2, num 0x8000000000000000), (3, num 0xFFFFFFFFFFFFFFFF)]).ReadsC [2, 3] :=
  readsC_of _ _ rfl rfl

/-- A source that is open and one that is shut. -/
theorem witness_Cadd :
    let s := withC [(2, root 0x1000), (3, { root 0x1000 with md := 0x00000000002300FF })]
    s.ReadsC [2, 3] ∧ ¬ ((s.rc 2).tag = true ∧ (s.rc 2).seal = true) ∧ (s.rc 3).tag = true ∧ (s.rc 3).seal = true :=
  ⟨readsC_of _ _ rfl rfl, by decide +kernel⟩

/-- The worked example of R225, exact with length 2^21 and rounded with 2^21 + 1, and the ends: one byte, and the whole space. -/
def narrowS : State :=
  withC [(6, num 0x200000), (7, num 0x200001), (8, root 0), (9, num 1), (10, num 0x80000000000000)]

theorem witness_Narrowing :
    narrowS.ReadsC [8, 6] ∧ (narrowS.rc 8).bounds? = some (0, 2 ^ 55) ∧ (narrowS.rc 8).tag = true ∧ (narrowS.rc 8).seal = false ∧
      canonical (narrowS.ra 8) = true ∧
      -- length 1: exponent 0
      (1 ≤ 0xFFFFF * 2 ^ 0) ∧
      -- length 2^21 from 0: exponent 2, exact; 2^21 + 1 rounds up
      (let top := 0x200000; (top + 3) / 4 * 4 ≤ 0xFFFFF * 4 ∧ ¬ (top + 1) / 2 * 2 ≤ 0xFFFFF * 2 ∧ ¬ top ≤ 0xFFFFF) ∧
      (let top := 0x200001; (top + 3) / 4 * 4 ≤ 0xFFFFF * 4 ∧ ¬ (top + 1) / 2 * 2 ≤ 0xFFFFF * 2 ∧ ¬ top ≤ 0xFFFFF ∧ (top + 3) / 4 * 4 ≠ top) ∧
      -- the whole space: exponent 35
      (∀ j < 35, ¬ (2 ^ 55 + 2 ^ j - 1) / 2 ^ j * 2 ^ j ≤ 0xFFFFF * 2 ^ j) :=
  ⟨readsC_of _ _ rfl rfl, by decide +kernel⟩

theorem test_narrow_rounds_to_four :
    (after (exec (.cnarrow 0 5 8 7) narrowS)).rc 5 = { root 0 with md := (mkMd 0x80001 0 2 0 0 0x7F) } := by decide +kernel

theorem test_narrow_exact_traps : (after (exec (.cnarrowX 0 5 8 7) narrowS)).hart.kb.code = 0x11 := by decide +kernel

/-- An open source, a shut one for COPEN, level K and level U, a defined and an undefined format code. -/
theorem witness_CapabilityEdits :
    let s := withC [(2, root 0x1000), (3, { root 0x1000 with md := 0x00000000002300FF })]
    let u := s.onHart fun h => { h with lvl := .u }
    s.ReadsC [2, 3] ∧ u.ReadsC [2, 3] ∧ ((s.rc 2).tag = true ∧ (s.rc 2).malformed = false ∧ (s.rc 2).seal = false) ∧
      ((s.rc 3).tag = true ∧ (s.rc 3).malformed = false ∧ (s.rc 3).seal = true) ∧ s.hart.lvl ≠ .u ∧ u.hart.lvl = .u ∧
      fmtDefined 0x17 = true ∧ fmtDefined 0x0D = false :=
  ⟨readsC_of _ _ rfl rfl, readsC_of _ _ rfl rfl, by decide +kernel⟩

/-- Bounds equal to those of the first, and a source without a tag. -/
theorem witness_CapabilityReads :
    let s := withC [(2, root 0x1000), (3, root 0x2000), (4, num 5)]
    s.ReadsC [2] ∧ s.ReadsC [2, 3] ∧ ((s.rc 2).bounds? = some (0, 2 ^ 55) ∧ (s.rc 3).bounds? = some (0, 2 ^ 55) ∧ (s.rc 2).tag = true ∧
      (s.rc 3).tag = true ∧ (s.rc 2).seal = false ∧ (s.rc 3).seal = false ∧ ((s.rc 3).perm &&& (s.rc 2).perm) = (s.rc 3).perm) ∧ (s.rc 4).tag = false :=
  ⟨readsC_of _ _ rfl rfl, readsC_of _ _ rfl rfl, by decide +kernel⟩

/-! ### Memory -/

/-- Context 2 with one region entry: every granule of every Hearth, readable, writable, shared, for engines too. -/
def memS (l : List (CReg × Cap)) : State :=
  let s := withC l
  { s with m := { s.m with ctxs := [(2, { regions := [(0, 0xFFC00F1F)] })] } }

/-- The first and the last 16 bytes of the aperture. -/
theorem witness_AperturePasses :
    let s := memS [(1, root 0xFE00000000)]
    ∀ o ∈ [0, 2 ^ 26 - 16], 16 ∈ [1, 2, 4, 8, 16] ∧ o % 16 = 0 ∧ o + 16 ≤ 2 ^ 26 ∧ (s.rc 1).tag = true ∧ (s.rc 1).seal = false ∧
      (s.rc 1).bounds? = some (0, 2 ^ 55) ∧ (s.rc 1).has 0 = true ∧ (s.rc 1).has 1 = true ∧ 0xFE00000000 + o + 16 ≤ 2 ^ 55 ∧
      (0, 0xFFC00F1F#64) ∈ (s.ctx s.hart.ctx).regions ∧ regionMatch 0xFFC00F1F s.die (o / 65536) = true ∧
      (0xFFC00F1F#64).getLsbD 1 = true ∧ (0xFFC00F1F#64).getLsbD 2 = true := by decide +kernel

/-- A byte and a capability, each through the aperture. -/
theorem witness_Loads :
    let s := memS [(1, root 0xFE00001000)]
    s.ReadsC [1] ∧
      (∃ y, s.checkCap (s.rc 1) 1 (s.ra 1) 0 1 { rd := true } true = .ok y ∧
        clearB y.1 y.2.keys false = true ∧ y.1.hart.forward y.2.keys false = .none ∧ y.1.hart.pair.held = []) ∧
      (∃ y, s.checkCap (s.rc 1) 1 (s.ra 1) 3 16 { rd := true } true = .ok y ∧
        clearB y.1 y.2.keys true = true ∧ y.1.hart.forward y.2.keys true = .none ∧ y.1.hart.pair.held = []) :=
  ⟨readsC_of _ _ rfl rfl, exists_ok (by decide +kernel), exists_ok (by decide +kernel)⟩

theorem witness_Stores :
    let s := memS [(1, root 0xFE00001000), (2, root 0x5)]
    s.ReadsC [1, 2] ∧
      (∃ y, s.checkCap (s.rc 1) 1 (s.ra 1) 1 8 { wr := true } true = .ok y ∧
        y.1.lockHit (y.2.keys.filter fun k => isL1 k && keyHearth k == s.die) = none ∧ (y.2.keys = keysFrom 0x1000 8 ∧ 0x1000 % 8 = 0) ∧
        y.1.hart.cpq = [] ∧ y.1.hart.pair.on = false ∧ y.1.hart.sb.length < 16) ∧
      (∃ y, s.checkCap (s.rc 1) 1 (s.ra 1) 4 16 { wr := true, sc := true } true = .ok y ∧
        (y.2.shd = true → (s.rc 2).has 6 = true) ∧ y.1.lockHit (y.2.keys.filter fun k => isL1 k && keyHearth k == s.die) = none ∧
        (y.2.keys = keysFrom 0x1000 16 ∧ 0x1000 % 16 = 0) ∧ y.1.hart.cpq = [] ∧ y.1.hart.pair.on = false ∧ y.1.hart.sb.length < 16) :=
  ⟨readsC_of _ _ rfl rfl, exists_ok (by decide +kernel), exists_ok (by decide +kernel)⟩

theorem witness_Atomics :
    let s := memS [(1, root 0xFE00001000), (2, num 7)]
    s.ReadsC [2, 1, 3] ∧
      ∃ y, s.checkCap (s.rc 1) 1 (s.ra 1) 2 8 { rd := true, wr := true } true = .ok y ∧
        Memory.wf y.1.m.mem = true ∧ y.1.lockHit (y.2.keys.filter isL1) = none ∧ y.1.hart.cpq = [] ∧ y.1.hart.sb = [] ∧ y.1.hart.posted = [] ∧
        clearB y.1 y.2.keys true = true ∧
        s.hart.pair.on = false ∧ s.hart.rep.phase ≠ 1 ∧ y.1.m.gangs = [] ∧ y.2.keys.Nodup ∧ ∀ k ∈ y.2.keys, (isL1 k || isHbm k) = true :=
  ⟨readsC_of _ _ rfl rfl, exists_ok (by decide +kernel)⟩

theorem test_load_after_store :
    let s := memS [(1, root 0xFE00001000), (2, num 0x80FF)]
    (after (exec (.ld 0 3 1 false 2 0) (after (exec (.st 0 2 1 false 2 0) s)))).ra 3 = 0xFFFFFFFFFFFF80FF := by decide +kernel

theorem test_amo_add_wraps :
    let s := memS [(1, root 0xFE00001000), (2, num 1)]
    let t := after (exec (.amoAdd 0 3 1 false 2) { s with m := { s.m with mem := [(0x1000, 0xFF), (0x1001, 0xFF), (0x1002, 0xFF), (0x1003, 0xFF)] } })
    t.ra 3 = 0xFFFFFFFF ∧ t.m.mem = [] := by decide +kernel

/-- Nothing is waited for; and a fence with an empty mask in a hart with a store. -/
theorem witness_Fences :
    base.hart.pair.held = [] ∧ base.hart.cpq = [] ∧ (∀ e ∈ base.hart.sb ++ base.hart.posted, max 1 3 < e.scope) ∧ base.EnginesIdle ∧
      (0 : Fin 16).val % 4 = 0 :=
  ⟨rfl, rfl, by decide, ⟨rfl, rfl, by decide⟩, rfl⟩

/-! ### Branches -/

theorem witness_ConditionalBranches :
    base.ReadsC [1, 2] ∧ base.hart.slot = none ∧ ∃ y, base.afterSlot = .ok y ∧ y.2 = 0x40006 :=
  ⟨readsC_of _ _ rfl rfl, rfl, exists_ok (by decide +kernel)⟩

theorem test_branch_goes_back_a_line :
    (after (exec (.beq 0 1 2 3 0x7FF) base)).hart.slot = some { target := 0x3FFC6, src := some 0x40002, creg := 0 } := by decide +kernel

/-- A target at the last two bytes that its bounds hold, and a token. -/
theorem witness_Jumps :
    let s := withC [(2, root 0xFFFFFFFFFFFFFFFE)]
    let s' := base.onHart fun h => { h with q := h.q.set 0 (some .mxtok), mx := { h.mx with tokens := [0x40040] } }
    s.hart.slot = none ∧ s.ReadsC [2] ∧ (s.rc 2).tag = true ∧ (s.rc 2).seal = false ∧ (s.rc 2).bounds? = some (0, 2 ^ 55) ∧
      (s.rc 2).has 2 = true ∧ canonical (s.ra 2) = true ∧ a55 (s.ra 2) + 2 ≤ 2 ^ 55 ∧ s'.hart.q[(0 : QReg)] = some .mxtok ∧ s'.hart.mx.tokens = [0x40040] ∧
      s'.hart.pair.on = false ∧ 64 ∉ s'.hart.poison :=
  ⟨by decide +kernel, readsC_of _ _ rfl rfl, by decide +kernel⟩

/-! ### Vectors -/

/-- Some v-registers in a state. -/
def withV (s : State) (l : List (VReg × Vec)) : State :=
  s.onHart fun h => { h with v := l.foldl (fun (v : Vector Vec 32) e => v.set e.1 e.2) h.v }

/-- Masked operands of a format. -/
def opM (fmt : Fin 32) : VOp := { op0 with fmt := fmt, va := 1, vb := 2, vd := 3, me := true, msk := 0 }

theorem witness_VectorIntegers :
    (∀ f : Fin 32, (intShape f.val).isSome = true → ReadsOp base (opM f) [1, 2] ∧ ReadsOp base (opM f) [1]) ∧ base.fmaHeld = false ∧
      intShape 1 = some (8, true) ∧ intShape 8 = some (64, false) ∧ intShape 0x0A = some (32, true) :=
  ⟨fun _ _ => ⟨readsOp_of _ _ _ rfl rfl rfl, readsOp_of _ _ _ rfl rfl rfl⟩, by decide⟩

theorem witness_VectorLogic :
    ReadsOp base (opM 0x17) [1, 2] ∧ wholeFmt 0 ∧ wholeFmt 0x0A ∧ wholeFmt 0x14 ∧ wholeFmt 0x17 ∧ ReadsOp base (opM 1) [1] ∧ ReadsOp base (opM 8) [1] :=
  ⟨readsOp_of _ _ _ rfl rfl rfl, .inl (by decide), .inl (by decide), .inr (.inl (by decide)), .inr (.inr rfl), readsOp_of _ _ _ rfl rfl rfl,
    readsOp_of _ _ _ rfl rfl rfl⟩

theorem witness_VectorFloats :
    ReadsOp base (opM 0x10) [1, 2, 0] ∧ fltShape 0x10 = some fp32 ∧ fltShape 0x17 = some bf16 ∧ ReadsOp base (opM 0x17) [1, 2] ∧ ReadsOp base (opM 0x17) [1] ∧
      base.fmaHeld = false :=
  ⟨readsOp_of _ _ _ rfl rfl rfl, rfl, rfl, readsOp_of _ _ _ rfl rfl rfl, readsOp_of _ _ _ rfl rfl rfl, by decide⟩

theorem witness_ComplexProducts :
    base.fmaHeld = false ∧ ReadsOp base (opM 9) [1, 2, 0] ∧ ReadsOp base (opM 0x17) [1, 2, 0] ∧ ReadsOp base (opM 9) [1, 2] ∧ ReadsOp base (opM 9) [1] :=
  ⟨by decide, readsOp_of _ _ _ rfl rfl rfl, readsOp_of _ _ _ rfl rfl rfl, readsOp_of _ _ _ rfl rfl rfl, readsOp_of _ _ _ rfl rfl rfl⟩

theorem witness_Compares :
    ReadsOp base (opM 9) [1, 2] ∧ (intShape 9).isSome = true ∧ ReadsOp base (opM 0x12) [1, 2] ∧ ReadsOp base (opM 0) [1, 2, 0] ∧ wholeFmt 0 :=
  ⟨readsOp_of _ _ _ rfl rfl rfl, rfl, readsOp_of _ _ _ rfl rfl rfl, readsOp_of _ _ _ rfl rfl rfl, .inl (by decide)⟩

/-- c[B] at the last element and above it. -/
theorem witness_Moves :
    let s := withC [(2, num 15), (4, num 16)]
    let o : VOp := { op0 with b := 2, va := 1, vb := 2, vd := 3, vc := 5 }
    wholeFmt o.fmt.val ∧ s.ReadsC [o.b] ∧ (5 : CReg).val = o.vc.val % 16 ∧ ReadsOp s o [1] ∧ ReadsOp s o [] ∧ s.ReadsC [5] ∧ s.hart.readable true 3 ∧
      tget? s.hart.streams 3 = none ∧ ReadsOp s o [1, 2] ∧ ReadsOp s o [1, 2, 5] ∧ s.ReadsC [4] ∧ (s.ra 2).toNat < 16 ∧ ¬ (s.ra 4).toNat < 16 :=
  ⟨.inr (.inl (by decide)), readsC_of _ _ rfl rfl, rfl, readsOp_of _ _ _ rfl rfl rfl, readsOp_of _ _ _ rfl rfl rfl, readsC_of _ _ rfl rfl,
    readable_of _ _ _ rfl rfl, rfl, readsOp_of _ _ _ rfl rfl rfl, readsOp_of _ _ _ rfl rfl rfl, readsC_of _ _ rfl rfl,
    by decide +kernel⟩

theorem witness_Reductions :
    let o : VOp := { op0 with b := 1, va := 1, vc := 2, vd := 3 }
    base.ReadsV ([o.va] ++ [o.vc] ++ o.maskReg) ∧ tget? base.hart.streams o.vd.val = none ∧ intShape 8 = some (64, false) ∧ intShape 1 = some (8, true) ∧
      fltShape 0x10 = some fp32 ∧ fltShape 0x17 = some bf16 :=
  ⟨readsV_of _ _ rfl rfl rfl, rfl, rfl, rfl, rfl, rfl⟩

/-- Widening by eight into the last part, narrowing, and complex. -/
theorem witness_Conversions :
    let o : VOp := { op0 with fmt := 1, vc := 4, b := 7, va := 1, vd := 3 }
    (cvtReal 1 = true ∧ cvtReal 4 = true) ∧ (cvtReal 0x10 = true ∧ cvtReal 0x13 = true) ∧ (cvtComplex 0x0A = true ∧ cvtComplex 0x17 = true) ∧
      base.ReadsV ([o.va] ++ o.maskReg) ∧ base.hart.readable true o.vd.val ∧ tget? base.hart.streams o.vd.val = none :=
  ⟨by decide, by decide, by decide, readsV_of _ _ rfl rfl rfl, readable_of _ _ _ rfl rfl, rfl⟩

theorem test_conversion_of_300_saturates_to_e4m3 :
    (after (exec (.vcvt { op0 with vc := 0x13, va := 1, vd := 3 }) (withV base [(1, 0x43960000#512)]))).hart.v[(3 : VReg)] = 0x79#512 := by decide +kernel

/-- Sixteen elements of FP32 from the aperture, by every way of addressing, and blocks of FMT 0x15 at element 0. -/
def vecS : State := withV (memS [(1, root 0xFE00001000), (2, { tag := true, md := mkMd 0x2000 0x1000 0 0 0x15 0x7F, addr := 0xFE00001000 }), (5, num 4), (6, num 0)]) []

theorem witness_VectorLoads :
    let s := vecS
    let ready (y : State × List VAcc) : Prop :=
      (∀ v ∈ y.2, clearB y.1 v.span.keys false = true ∧ y.1.hart.forward v.span.keys false = .none) ∧ y.1.hart.pair.held = []
    s.ReadsC [1, 5] ∧ ((s.rc 1).tag = true ∧ (s.rc 1).seal = false ∧ (s.rc 1).malformed = false ∧ (s.rc 1).fmt = 0) ∧
      (∃ y, s.vcheckAll (s.rc 1) 1 0 { rd := true } true ((List.range 16).map fun j => (j, (s.rc 1).addr + w64 (4 * j), 4)) = .ok y ∧ ready y) ∧
      ((s.rc 2).tag = true ∧ (s.rc 2).seal = false ∧ (s.rc 2).malformed = false ∧ (s.rc 2).fmt = 0x15 ∧ (s.ra 6).toNat % 16 = 0 ∧
        (s.rc 2).bounds? = some (0xFE00001000, 0xFE00002000)) ∧
      (∃ y, s.vcheckAll (s.rc 2) 2 0 { rd := true } false
          ((runsOf (headerBytes true 0 (List.range 16)) ++ runsOf ((List.range 16).map (codeByte true 0))).map
            fun r => (r.1, w64 0xFE00001000 + w64 r.1, r.2)) = .ok y ∧ ready y) :=
  ⟨readsC_of _ _ rfl rfl, by decide +kernel, exists_ok (by decide +kernel), by decide +kernel, exists_ok (by decide +kernel)⟩

theorem witness_VectorStores :
    let s := vecS
    let room (y : State × List VAcc) : Prop :=
      (∀ v ∈ y.2, y.1.lockHit (v.span.keys.filter fun k => isL1 k && keyHearth k == y.1.die) = none) ∧
        (y.2.flatMap fun v => v.span.keys).Nodup ∧ y.1.hart.cpq = [] ∧ y.1.hart.pair.on = false ∧ y.1.hart.sb.length + (rangeBlocks y.2).length ≤ 16
    s.ReadsC [1, 5] ∧ s.ReadsV [3] ∧ s.hart.entering = none ∧
      (∃ y, s.vcheckAll (s.rc 1) 1 1 { wr := true } true ((List.range 16).map fun j => (j, (s.rc 1).addr + w64 (4 * j), 4)) = .ok y ∧ room y) ∧
      (∃ y, s.vcheckAll (s.rc 2) 2 1 { wr := true } false
          [(headerOff true 0 0, w64 0xFE00001000 + w64 (headerOff true 0 0), 2 * (16 / blockLen 0)),
            (codeByte true 0 0, w64 0xFE00001000 + w64 (codeByte true 0 0), 8)] = .ok y ∧ room y ∧ y.2.length = 2) :=
  ⟨readsC_of _ _ rfl rfl, readsV_of _ _ rfl rfl rfl, rfl, exists_ok (by decide +kernel), exists_ok (by decide +kernel)⟩

/-! ### Queues, streams, copies -/

/-- An operation answers a value of which p holds. -/
def okAnd {α : Type} (r : R α) (p : α → Prop) [DecidablePred p] : Bool :=
  match r with
  | .ok x => decide (p x)
  | .error _ => false

/-- A value is there of which p holds. -/
def someAnd {α : Type} (r : Option α) (p : α → Prop) [DecidablePred p] : Bool :=
  match r with
  | some x => decide (p x)
  | none => false

/-- An instruction or event ends in a next state of which p holds. -/
def nextAnd (i : Instr) (s : State) (p : State → Prop) [DecidablePred p] : Bool :=
  match exec i s with
  | .next t => decide (p t)
  | _ => false

/-- Handle 5 of Hearth 0: a plain ring of two slots of 512 bytes at L1 offset 0x10000. -/
def hnd (x y : RSlot) : Handle :=
  { ctx := 2, gang := 1, base := 0x10000, nslot := 2, slotsz := 512, track := false, cons := false, repl := false, dlvl := 0, dom := 0
    trays := [], rings := [(512, { slots := [x, y] })] }

def withH (s : State) (h : Handle) : State := { s with m := { s.m with hearths := [(0, { handles := [(5, h)] })] } }

/-- q0 bound to a port. -/
def withQ (s : State) (p : Port) : State := s.onHart fun h => { h with q := h.q.set 0 (some p) }

/-- Every port bound from a q-register that is unbound, and every port popped: with an empty queue, the last token, a buffer-free count. -/
theorem witness_QueueRegisters :
    let s := withH (withC [(2, num 5)]) { hnd {} {} with mbox := 3, popped := 2 }
    let t := withQ (s.onHart fun h => { h with mx := { h.mx with tokens := [7] } }) .mxtok
    s.ReadsC [2] ∧ (s.hart.q[(0 : QReg)] = none ∧ (∀ p : Port, ∀ r : QReg, s.hart.q[r] ≠ some p) ∧ (s.ownHandle s.hart.ctx ((s.ra 2).toNat % 4096)).isSome = true) ∧
      (withQ s .mxpush).hart.q[(0 : QReg)] ≠ none ∧ s.hart.pair.on = false ∧ 64 ∉ s.hart.poison ∧
      ((withQ s .mxpush).hart.q[(0 : QReg)] = some .mxpush ∧ (withQ s .mxpush).mxLoad 0 < 16) ∧
      ((withQ s .cppush).hart.q[(0 : QReg)] = some .cppush ∧ (withQ s .cppush).hart.cpq.length < 4) ∧
      (t.hart.q[(0 : QReg)] = some .mxtok ∧ t.hart.mx.tokens = [7]) ∧
      ((withQ s (.mbox 5)).hart.q[(0 : QReg)] = some (.mbox 5) ∧ ∃ h, (withQ s (.mbox 5)).handle? 5 = some h ∧ h.popped < h.mbox) :=
  ⟨readsC_of _ _ rfl rfl,
    ⟨by decide +kernel, fun p r => by
      have : ∀ r : QReg, (withH (withC [(2, num 5)]) { hnd {} {} with mbox := 3, popped := 2 }).hart.q[r] = none := by decide +kernel
      rw [this r]; simp, by decide +kernel⟩,
    by decide +kernel, by decide +kernel, by decide +kernel, by decide +kernel, by decide +kernel, by decide +kernel, by decide +kernel, _, rfl, by decide +kernel⟩

theorem test_qpop_counts_the_buffers_freed :
    let s := withQ (withH base { hnd {} {} with mbox := 3, popped := 2 }) (.mbox 5)
    (after (exec (.qpop 0 1 0) s)).ra 1 = 3 := by decide +kernel

/-- A pattern record of one dimension at 0xFE00001000: base the first bytes of the aperture with every permission, 64 bytes of FP32. -/
def patMem (rowlen ctrl : Nat) : List Host.Cell :=
  msets [] ((keysFrom 0x1000 64).zip (splitBytes 64
    (0xFE00002000 + 0x000000000023007F * 2 ^ 64 + rowlen * 2 ^ 128 + 2 ^ 160 + 2 ^ 192 + ctrl * 2 ^ 224)))

def streamS (dirw : Nat) : State :=
  let s := memS [(2, root 0xFE00001000)]
  { s with m := { s.m with mem := patMem 64 (0x10 * 4 + dirw * 128), tags := [0x100] } }

/-- A read stream and a write stream. -/
theorem witness_StreamBindings :
    ∀ d ∈ [0, 1],
      let s := streamS d
      (∀ p ∈ s.hart.pend, False) ∧ tget? s.hart.streams 24 = none ∧ s.hart.pair.on = false ∧ s.hart.rep.phase ≠ 1 ∧
        okAnd (s.readPattern 2 fun _ => true) (fun y =>
          let s1 := y.1
          let p := y.2.1
          let it := p.iter
          let box := it.box it.s1 it.s2
          p.base.addr.toNat % elemBytes p.fmt = 0 ∧ p.rowlen % elemBytes p.fmt = 0 ∧ it.s1 % elemBytes p.fmt = 0 ∧ it.s2 % elemBytes p.fmt = 0 ∧
            isOk (s1.capEngine p.base (if p.dirw then 7 else 6) { rd := !p.dirw, wr := p.dirw, eng := true }) = true ∧
            p.base.fits (boxAt p.base.addr box.1) box.2 = true ∧
            okAnd (s1.sideR (boxAt p.base.addr box.1) box.2 (if p.dirw then 7 else 6) { rd := !p.dirw, wr := p.dirw, eng := true }) (fun segs =>
              let held := segs.map s1.nearForm
              s1.canBegin s.cur held (if p.dirw then held else []) (if p.dirw then [] else held) (if p.dirw then held else []) = true) = true ∧
            s1.hart.issued = true ∧ s1.hart.sb.any (·.scope == 1) = false ∧
            (s1.freeOpn s.cur).isSome = true ∧ p.dirw = decide (d = 1)) = true := by decide +kernel

/-- A read stream is bound, and unbound again. -/
theorem test_sbind_and_sunbind :
    let t := after (exec (.sbind 0 24 2) (streamS 0))
    tget? t.hart.streams 24 = some { opn := 0, write := false } ∧ tget? (after (exec (.sunbind 0 24) t)).hart.streams 24 = none := by decide +kernel

/-- A copy of 64 bytes between two places of the aperture, and one of no bytes. -/
def copyS (n : Nat) : State := withQ (memS [(1, root 0xFE00001000), (2, root 0xFE00002000), (3, num (w64 n))]) .cppush

theorem witness_CopiesIssue :
    ∀ n ∈ [64, 0],
      let s := copyS n
      let o := cp0
      s.hart.q[(0 : QReg)] = some .cppush ∧ isOk (s.capEngine (s.rc o.b) 6 { rd := true, eng := true }) = true ∧
        okAnd (s.copyShape o) (fun y => isOk (y.1.capEngine (s.rc o.a) 7 { wr := true, eng := true }) = true ∧
          okAnd (y.1.copyDest (s.ra o.a) o.dh.val false) (fun d => isOk (y.1.copyRules o false d y.2.1 y.2.2.1) = true ∧
            okAnd (y.1.copyMeta o 0 y.2.1 y.2.2.1) (fun k => y.1.copyBoxes o d y.2.1 k = true ∧ isOk (y.1.copySides o d y.2.1 k) = true) = true) = true) = true ∧
        s.hart.pair.on = false ∧ s.hart.cpq.length < 4 := by decide +kernel

theorem test_copy_queues : (after (exec (.cpCopy cp0) (copyS 64))).hart.cpq.map (fun c => (c.src, c.dstVa, c.len)) = [(0xFE00002000, 0xFE00001000, 64)] := by
  decide +kernel

/-- A multicast takes a handle. -/
theorem test_mcast_without_a_handle_traps : (after (exec (.cpMcast cp0) (copyS 64))).hart.kb.code = 0x22 := by decide +kernel

/-- A copy operation of 64 bytes of the hart on core 0, with one delivery. -/
def opc : CopyCmd :=
  { ctx := 2, gang := 1, hart := 0, user := false, src := 0xFE00002000, dstVa := 0xFE00001000
    it := { rowlen := 64, cnt1 := 1, cnt2 := 1, s1 := 0, s2 := 0, d1 := 0, d2 := 0, dims := 1 }, len := 64, xf := 0, fmt := 0, metaVa := 0
    fac := false, rptc := false, dh := 0x3FF, mc := false, receivers := [] }
def opD (d : Delivery) : EngOp := { cmd := opc, stream := false, write := true, dels := [d], srcLocks := [] }
def plainD : Delivery := { dst := .virt 0xFE00001000, slot := none }
def withO (s : State) (n : Nat) (o : EngOp) : State := { s with m := { s.m with ops := [(n, o)] } }

/-- The delivery that fills slot 0 of the handle. -/
def slotD : Delivery := { dst := .l1 0 0x10000, slot := some { hearth := 0, handle := 5, key := 512, slot := 0 } }

/-- A head slot FREE, FILLING with its delivery and with none, and FULL; a frozen copy, and a matrix command with a frozen part. -/
theorem witness_CopyControl :
    let c := withC [(2, num 5)]
    let of (x : RSlot) := withH c (hnd x {})
    let named (s : State) (f : State → Handle → Ring → Bool) : Bool :=
      someAnd (s.ownHandle s.hart.ctx 5) fun h => someAnd (h.ring (h.keyFor s.cur)) (fun r => f s h r = true) = true
    (∀ s ∈ [c], ∀ p ∈ s.hart.pend, False) ∧ c.hart.issued = true ∧ c.hart.sb.any (·.scope == 1) = false ∧
      named (of {}) (fun _ _ r => (r.slot r.head).st == .free) = true ∧
      named (withO (of { st := .filling }) 0 (opD slotD)) (fun s _ r => (r.slot r.head).st == .filling && (tget? s.m.ops (r.slot r.head).op).isSome) = true ∧
      named (of { st := .filling }) (fun s _ r => (r.slot r.head).st == .filling && (s.filler { hearth := 0, handle := 5, key := 512, slot := 0 } 0).isNone) = true ∧
      named (of { st := .full }) (fun _ _ r => (r.slot r.head).st == .full) = true ∧
      ((withC [(2, num 0)]).onHart fun h => { h with lvl := .u }).hart.lvl = .u ∧
      (let s := withO (withC [(2, num 0)]) 0 (opD { plainD with frozen := true })
       let s := s.modOp 0 fun o => { o with frozen := true }
       s.hart.lvl ≠ .u ∧ s.hart.pair.on = false ∧ (match s.named 0 with | some (.copy o) => o.frozen | _ => false) = true) ∧
      (let s := (withC [(2, num (768 * 32))]).onHart fun h => { h with mx := { h.mx with queue :=
         [{ base.mxBase .mma 0 true with stamp := 1, parts := [{ p := 0, q := 0, core := 0, frozen := true }] }] } }
       (match s.named (768 * 32) with | some (.matrix 0 _) => true | _ => false) = true) := by decide +kernel

/-! ### The buffer table, tiles, matrix commands -/

/-- c2 holds a descriptor: base 0x10000, two slots of 512 bytes, a plain ring or one for consumers; context 2 grants the range. -/
def descS (cons : Nat) : State := memS [(2, num (w64 (0x10000 + 2 ^ 26 + cons * 2 ^ 44)))]

/-- A plain ring, a consumer ring, a tracking handle with no ring. -/
theorem witness_BufferTable_alloc :
    (∀ c ∈ [0, 1],
      let s := descS c
      let d := Desc.of (s.ra 2).toNat
      (∀ p ∈ s.hart.pend, False) ∧ s.hart.pair.on = false ∧ d.ok (s.hart.id.dom[d.dlvl]!.getLsbD 16) = true ∧ tfree (s.hearth 0).handles 1023 = some 0 ∧
        (s.hearth 0).ringCount + (s.newHandle d 0).rings.length ≤ 4096 ∧ s.ringRegion (s.newHandle d 0) 0 = none ∧
        s.entriesFree ((s.newHandle d 0).rings.map fun e => (s.newHandle d 0).whole 0 e.1) [] = true ∧ d.cons = decide (c = 1)) ∧
      (Desc.of (2 ^ 43)).ok false = true ∧ (Desc.of (2 ^ 43)).track = true := by decide +kernel

theorem test_alloc_names_the_lowest_free_index :
    let t := after (exec (.btAlloc 0 1 2 0) (descS 1))
    t.ra 1 = 0 ∧ (t.handle? 0).map (fun h => (h.base, h.nslot, h.slotsz, h.cons)) = some (0x10000, 2, 512, true) := by decide +kernel

/-- Slots all FREE; a head slot FULL; slot 1, the oldest DRAINING. -/
theorem witness_BufferTable :
    let of (x y : RSlot) := withH (withC [(2, num 5)]) (hnd x y)
    let head (s : State) (f : Handle → Ring → Bool) : Bool :=
      someAnd (s.ownHandle s.hart.ctx 5) fun h => h.cons = false ∧ someAnd (h.ring (h.keyFor s.cur)) (fun r => f h r = true) = true
    (someAnd ((of {} {}).ownHandle 2 5) fun h => ∀ e ∈ h.rings, ∀ x ∈ e.2.slots, x.st = .free) = true ∧
      head (of { st := .full } {}) (fun _ r => (r.slot r.head).st == .full && decide (r.head < r.slots.length)) = true ∧
      head (of {} { st := .draining }) (fun h r => r.oldestDraining (max h.nslot 1) == some 1) = true ∧
      (of {} {}).hart.sb = [] ∧ (of {} {}).hart.posted = [] := by decide +kernel

theorem test_waitf_takes_the_head_slot :
    let t := after (exec (.btWaitf 0 1 2) (withH (withC [(2, num 5)]) (hnd { st := .full } {})))
    t.ra 1 = 0xFF00010000 ∧ (t.handle? 5).map (fun h => h.rings.map fun r => (r.2.head, r.2.slots.map (·.st))) = some [(1, [.draining, .free])] := by
  decide +kernel

/-- A tile of 8 × 8 FP32 with a pitch of 64 bytes at 0xFE00002000 in c1, its record at 0xFE00001000 in c2. -/
def tileS : State :=
  let s := memS [(1, root 0xFE00002000), (2, root 0xFE00001000)]
  { s with m := { s.m with mem := msets [] ((keysFrom 0x1000 16).zip (splitBytes 16 (7 + 7 * 2 ^ 16 + 64 * 2 ^ 32 + 0x10 * 2 ^ 64))) } }

/-- The tile declared, and the bytes given changed behind its back. -/
def tiledS (l : List Host.Cell) : State :=
  let t := after (exec (.tileDecl 0 1 2) tileS)
  { t with m := { t.m with mem := msets t.m.mem l } }

theorem witness_Tiles_decl :
    let s := tileS
    s.hart.pair.on = false ∧ isOk (s.capTile 1 { rd := true, wr := true }) = true ∧ isOk (s.capTile 2 { rd := true }) = true ∧
      okAnd (s.readCap (s.rc 2) 2 (s.ra 2) 16 16) (fun y =>
        let s1 := y.1
        let v := y.2.1
        bits v 71 69 = 0 ∧ bits v 127 72 = 0 ∧ tileFormat (bits v 68 64) = true ∧ okAnd (s1.tilePlace 1) (fun p =>
          let t0 : Tile := { ctx := 2, base := p.2, rows := bits v 15 0 + 1, cols := bits v 31 16 + 1, pitch := bits v 63 32, fmt := bits v 68 64, run := 0 }
          t0.rows ≤ 4096 ∧ t0.cols ≤ 4096 ∧ t0.pitch % 8 = 0 ∧ t0.rowBytes ≤ t0.pitch ∧ t0.pitch ≤ 2 ^ 24 ∧ t0.w = 32 ∧ p.2 % elemBytes t0.fmt = 0 ∧
            p.2 + t0.span ≤ 2 ^ 26 ∧ (s.rc 1).fits (s.ra 1).toNat t0.span = true ∧
            (regionSpan (s1.ctx 2) p.1 p.2 t0.span { rd := true, wr := true, eng := false }).isNone = true ∧ (s1.hearth p.1).tiles = [] ∧
            tfree (s1.hearth p.1).tiles 512 = some 0 ∧ (s1.hearth p.1).freeRun t0.runLen = some 0 ∧ s1.lockedBox p.1 p.2 t0.span = false) = true) = true := by
  decide +kernel

/-- A check of the tile has made its range-lock entry, which is active. -/
def checkS (l : List Host.Cell) : State :=
  after (execRangeLockActivate 0 0 (after (exec (.tileChk 0 1) (tiledS l))))

/-- A tile that nothing holds; one checked that passes, one with an element changed and one with two. -/
theorem witness_Tiles :
    let ok (s : State) (P : Nat × Nat × Tile → Prop) [DecidablePred P] : Prop :=
      okAnd (s.namedTile 1) (fun e => isOk (s.capTile 1 { rd := true }) = true ∧ isOk (s.capTile 1 { wr := true }) = true ∧ P e) = true
    let good (s : State) (f : Checked → Bool) : Prop :=
      ok s fun e => s.hart.checking = some (0, 0) ∧ s.allActive [(0, 0)] [] = true ∧
        f (((s.delLock (0, 0)).onHart fun h => { h with checking := none }).checkTile e.1 e.2.2 s.hart.ctl.rptc).2 = true
    (let s := tiledS []
     ok s fun e => s.lockedBox e.1 e.2.2.base e.2.2.span = false ∧ s.hart.checking = none ∧
       s.busy (fun _ => false) [e.2.2.seg e.1] [e.2.2.seg e.1] = false ∧ s.entriesFree [e.2.2.seg e.1] [] = true) ∧
      good (checkS []) (fun | .ok => true | _ => false) ∧ good (checkS [(0x2003, 0x40)]) (fun | .fix 0 0 0 => true | _ => false) ∧
      good (checkS [(0x2003, 0x40), (0x2047, 0x40)]) (fun | .refuse _ _ _ _ => true | _ => false) := by decide +kernel

/-- A changed element goes back to the value its facets give. -/
theorem test_tile_check_corrects :
    nextAnd (.tileChk 0 1) (checkS [(0x2003, 0x40)]) (fun t => mget t.m.mem 0x2003 = 0 ∧ t.hart.lvl = .k ∧ t.hart.kb.code = 0) = true := by decide +kernel

/-- c1 and c2 at FP32 in the aperture, mxpush bound, and a consumer ring as handle 5. -/
def mxS : State :=
  withH (withQ (memS [(1, { root 0xFE00100000 with md := 0x000000000023107F }), (3, root 0xFE00001000)]) .mxpush) { hnd { st := .full, len := 1024 } {} with cons := true, slotsz := 1024 }

def mma0 : MmaOp :=
  { s := 0, a := 1, b := 0, kpReassoc := false, kpRound := false, tok := false, sp := false, fc := false, acc := false, tb := false, ta := false, up := 0
    bfmt := 0x12, afmt := 0x12, kc := 0, nc := 0, mc := 0, bh := 5, ah := 5 }

def mxRoomB (s : State) (c : MxCmd) (segs : List Seg) : Bool :=
  decide (s.mxLoad s.cur < 16 ∧ (∀ p ∈ c.parts, s.mxLoad p.core < 16) ∧
    s.entriesFree segs (c.parts.flatMap fun p => if c.toCap then c.partSegs s.cur p else []) = true ∧
    s.busy (fun o => decide (0x100000 ≤ o) && (o - 0x100000) / 0x10000 == s.cur) (if c.readsDest then segs else []) segs = false)

theorem room_of (s : State) (c : MxCmd) (segs : List Seg) (h : mxRoomB s c segs = true) : MxRoom s c segs := by
  simp only [mxRoomB, decide_eq_true_eq] at h
  exact ⟨h.1, h.2.1, h.2.2.1, h.2.2.2⟩

/-- MMA with the scale 1.0 of c0, TRN to a capability, SCALE in place, and a microprogram image of one op (ADD of ACC). -/
theorem witness_MatrixCommandsIssue :
    let s := mxS
    let o := mma0
    s.miller = false ∧ s.hart.q[(0 : QReg)] = some .mxpush ∧ s.hart.pair.on = false ∧ s.hart.rep.phase ≠ 1 ∧
      isOk (s.capEngine (s.rc 1) 7 { rd := true, wr := true, eng := true }) = true ∧ isOk (s.capEngine (s.rc 1) 7 { wr := true, eng := true }) = true ∧
      (let c0 : MxCmd := { s.mxBase .mma o.a true with
         m := 8, n := 8, k := 16, afmt := 0x12, bfmt := 0x12, cfmt := (s.rc o.a).fmt, ah := 5, bh := 5 }
       okAnd (s.mxCheck c0 (s.mxHeadB o c0)) (fun y => mxRoomB s y.1 y.2 = true) = true) ∧
      (let c0 : MxCmd := { s.mxBase .trn 1 true with m := 8, n := 8, afmt := 0x12, bfmt := 0x12, cfmt := 0x12, ah := 5, dh := 0x3FF }
       okAnd (s.mxCheck c0 (.ok c0)) (fun y => mxRoomB s y.1 y.2 = true) = true) ∧
      (let c0 : MxCmd := { s.mxBase .scale 1 true with m := 8, n := 8, afmt := 0x10, bfmt := 0x10, cfmt := 0x10 }
       okAnd (s.mxCheck c0 (s.mxScale 0 false c0)) (fun y => mxRoomB s y.1 y.2 = true) = true) ∧
      (let s := { s with m := { s.m with mem := [(0x1001, 0x10#8)] } }
       okAnd (s.readCap (s.rc 3) 3 (s.ra 3) 32 32) (fun y => upValid (BitVec.ofNat 256 y.2.1) = true ∧
         mxRoomB y.1 { y.1.mxBase .uprog 0 false with up := 1, parts := [{ p := 0, q := 0, core := s.cur }] } [] = true) = true) := by decide +kernel

theorem test_matrix_command_joins_the_window :
    nextAnd (.mxMma mma0) mxS (fun t => t.hart.mx.queue.map (fun q => (q.seq, q.m, q.n, q.k, q.scale)) = [(1, 8, 8, 16, 0x3F800000)]) = true := by
  decide +kernel

/-- A rule image of one rule that drops a command: one pattern of kind MMA, no equality, CLS 3. -/
theorem witness_MatrixStatusAndKneader :
    let s := mxS
    let k : State := { withC [(2, root 0xFE00001000), (3, num 255)] with m := { (memS []).m with mem := [(0x1000, 1#8), (0x1020, 0x07#8), (0x1021, 0x20#8)] } }
    s.miller = false ∧ s.hart.pair.on = false ∧ s.hart.mx.queue = [] ∧ k.hart.lvl ≠ .u ∧ (k.ra 3).toNat < 256 ∧
      (base.onHart fun h => { h with lvl := .u }).hart.lvl = .u ∧
      okAnd (k.readCap (k.rc 2) 2 (k.ra 2) 32 32) (fun y => y.2.1 % 256 = 1 ∧ y.2.1 / 256 + 1 ≤ 64 ∧
        okAnd (y.1.readCap (k.rc 2) 2 (k.ra 2) 64 32) (fun z => ruleBad (z.2.1 / 2 ^ 256 % 2 ^ 256) = none) = true) = true := by decide +kernel

theorem test_matrix_wait_answers_the_last_number : 
    (after (exec (.mxWait 0 4) (mxS.onHart fun h => { h with mx := { h.mx with seq := 9 } }))).ra 4 = 9 := by decide +kernel

/-! ### Barriers, domains, sends, tasks, gangs -/

/-- Gang 1 of context 2 on cores 0 and 1, both in a domain of level 1 with barrier 7. -/
def gangS (l : List (CReg × Cap)) : State :=
  let id (n : Nat) : Ident := { lcore := BitVec.ofNat 13 n, gangsz := 2, dom := (Vector.replicate 4 0).set 1 (mkDom 0 0 true true false 2 7) }
  let s := (withC l).onHart fun h => { h with id := id 0 }
  { s with
    parked := [(1, { place := .placed, pc := 0x40002, hc := 31, lvl := .k, ctx := 2, gang := 1, id := id 1 })]
    m := { s.m with
      bars := [(7, { members := [0, 1], gen := 5, arrived := [1] })]
      gangs := [(1, { ctx := 2, lrec := 0, cores := [0, 1], size := 2, trayBars := [(0, { members := [0, 1] })] })] } }

/-- The hart's state of synchronisation changed. -/
def withSync (s : State) (f : SyncSt → SyncSt) : State := s.onHart fun h => { h with sync := f h.sync }

/-- A level without a barrier; one where the hart has not arrived and one where it has; a BAR.SYNC that waits for a generation over;
arrivals of generations 5 (not over), 4 (over) and long ago. -/
theorem witness_Barriers :
    let s := gangS [(2, num 5)]
    let at4 := withSync s fun x => { x with arrive := x.arrive.set 1 (some 4) }
    let at5 := withSync s fun x => { x with arrive := x.arrive.set 1 (some 5) }
    let sync := withSync s fun x => { x with synced := [(1, 0x40002 * 65536 + 4)] }
    let bar (s : State) (f : Barrier → Bool) : Bool := someAnd (s.hart.barRef 1) fun r => someAnd (s.barAt r) (fun x => f x = true) = true
    s.hart.barRef 0 = none ∧ s.hart.pair.on = false ∧ s.hart.cpq = [] ∧ s.hart.sb ++ s.hart.posted = [] ∧ s.hart.syncing 1 = none ∧
      bar s (fun x => !x.arrived.contains s.hart.lc && decide (x.gen < 65536)) = true ∧
      bar { s with m := { s.m with bars := [(7, { members := [0, 1], gen := 5, arrived := [0] })] } } (fun x => x.arrived.contains s.hart.lc) = true ∧
      sync.hart.syncing 1 = some 4 ∧ bar sync (·.completed 4) = true ∧
      at5.hart.arriveAt 1 = some 5 ∧ bar at5 (fun x => !x.completed 5) = true ∧ (at5.ra 2).toNat % 65536 = 5 ∧
      at4.hart.arriveAt 1 = some 4 ∧ bar at4 (·.completed 4) = true ∧
      (∀ w ∈ [4, 32773], 1 ≤ (5 + 65536 - w) % 65536 ∧ (5 + 65536 - w) % 65536 ≤ 32767 ∨ w = 32773) ∧
      ¬ (1 ≤ (5 + 65536 - 6) % 65536 ∧ (5 + 65536 - 6) % 65536 ≤ 32767) := by decide +kernel

theorem test_arrive_answers_the_generation :
    let t := after (exec (.barArrive 0 3 1) (gangS []))
    t.ra 3 = 5 ∧ (tget? t.m.bars 7).map (·.arrived.length) = some 2 := by decide +kernel

/-- Outcomes 0 and 4 of a DOM.SET, one that asks, and a gang of which both harts have asked for the same and for different values. -/
theorem witness_Domains :
    let s := gangS [(2, num 16), (3, root 0xFE00001000)]
    let asked (x y : Nat) : State :=
      let s := withSync s fun h => { h with domset := some (1, x) }
      { s with parked := s.parked.map fun e => (e.1, { e.2 with sync := { e.2.sync with domset := some (1, y) } }) }
    let plan (s : State) (x y : Nat) : Nat := (s.reformPlan ((s.gang? 1).getD { ctx := 0, lrec := 0 }) 1 [x, y]).1
    (s.ra 2).toNat < 32 ∧ (withSync s fun h => { h with domres := some 0 }).hart.sync.domres = some 0 ∧
      (withSync s fun h => { h with domres := some 4 }).hart.sync.domres = some 4 ∧ s.hart.sync.domres = none ∧ s.hart.sync.domset = none ∧
      s.hart.sb = [] ∧ s.hart.posted = [] ∧ s.hart.cpq = [] ∧ s.hart.arriveAt 1 = none ∧
      someAnd (s.gang? 1) (fun g => s.takers g = [0, 1]) = true ∧ ((asked 16 16).hartAt 1).sync.domset = some (1, 16) ∧
      plan (asked 16 16) 16 16 = 0 ∧ plan (asked 0 0) 0 0 = 0 ∧ plan (asked 16 17) 16 17 = 4 ∧
      domV (s.hart.domAt 0) = false ∧ domV (s.hart.domAt 1) = true := by decide +kernel

/-- A slot table of one entry from hart 0 to hart 1 with slots of 32 cycles, for level 1. -/
def slotMem : List Host.Cell := [(0x1000, 1#8), (0x1002, 32#8), (0x1004, 1#8), (0x1011, 0x10#8)]
def phaseS : State :=
  let s := gangS [(3, root 0xFE00001000)]
  { s with m := { s.m with mem := slotMem, ctxs := [(2, { regions := [(0, 0xFFC00F1F)] })] } }

theorem witness_Domains_phase :
    let s := phaseS
    okAnd (s.readCap (s.rc 3) 3 (s.ra 3) 16 16) (fun y => y.2.1 % 65536 ≤ 256 ∧
      okAnd (y.1.readCap (s.rc 3) 3 (s.ra 3) 20 16) (fun z => slotTableOk 1 (domMemb (s.hart.domAt 1)) (domX (s.hart.domAt 1)) z.2.1 = true) = true) = true := by
  decide +kernel

theorem test_phase_binds_a_table :
    nextAnd (.phase 0 4 3 1) phaseS (fun t => t.ra 4 = 1 ∧ t.hart.slotsAt 1 = some { slotcyc := 32, entries := [0x1000] }) = true := by decide +kernel

/-- The same table bound, in the phase that generation 5 of the barrier opened, which both harts have seen; hart 1 waits or not. -/
def sendS (wait1 : Bool) : State :=
  let seen (x : SyncSt) : SyncSt := { x with openGen := x.openGen.set 1 5 }
  let s := withSync (after (exec (.phase 0 4 3 1) phaseS)) seen
  { s with
    parked := s.parked.map fun e => (e.1, if e.1 = 1 then { e.2 with sync := seen e.2.sync, waiting := wait1 } else e.2)
    m := { s.m with bars := [(7, { members := [0, 1], gen := 5, phase := true })] } }

/-- The slot open and not over, its entry the hart's own; a slot that is still to open. -/
theorem witness_Sends :
    let s := sendS false
    let d := s.hart.domAt 1
    let p : Payload := { data := 7, slot := 0, sender := 1, lvl := 1 }
    let r := withSync s fun h => { h with rx := [p], wakereg := 6 }
    let w := (withC [(1, num 9), (2, num 2), (3, num 0)]).onHart fun h => { h with id := { h.id with gangsz := 2 }, sync := { h.sync with wakereg := 6 } }
    domV d = true ∧ domPhase d = true ∧ (s.ra 0).toNat < 1 ∧
      someAnd (s.hart.slotsAt 1) (fun tab => (tab.entries.getD 0 0) % 4096 = s.hart.lc - domFirst d ∧
        s.coreOfLogical s.cur (domFirst d + (tab.entries.getD 0 0) / 4096) = 1 ∧ s.hart.sync.openAt.toList.getD 1 0 ≤ s.hart.cyc ∧
        s.hart.cyc + (if domX d then 256 else 16) < s.hart.sync.openAt.toList.getD 1 0 + tab.slotcyc) = true ∧
      s.hart.pair.on = false ∧ s.slotTurn s.cur 1 0 = true ∧ s.slotsClear s.cur 1 0 = true ∧ s.hart.cpq = [] ∧ s.hart.sb ++ s.hart.posted = [] ∧
      s.hart.sync.sendAt = none ∧ s.rxLoad 1 < 32 ∧ r.hart.sync.rx = [p] ∧ r.hart.pair.on = false ∧
      w.hart.size ≤ (w.ra 1).toNat ∧ (w.ra 3).toNat < w.hart.size ∧ w.hart.sync.wakereg &&& w.ra 2 ≠ 0 ∧ w.ra 3 = 0 ∧
      someAnd ([{ hart := 1, mask := 4 }] : List WakeMsg)[0]? (fun x => tget? w.m.parkedPair x.hart = none) = true ∧
      (let o := withSync (sendS true) fun h => { h with sendAt := some (1, 5) }
       (o.hartAt 0).sync.sendAt = some (1, 5) ∧ (o.hartAt 0).cyc < 5 ∧ o.slotTurn 0 1 (5 - (o.hartAt 0).opened 1) = true) := by
  decide +kernel

theorem test_send_and_delivery :
    let t := after (exec (.send 0 0 17 1) (withV (sendS false) [(17, 7)]))
    let u := after (exec (.sendDelivery 0) t)
    t.m.sends.map (fun x => (x.hart, x.pay.sender, x.pay.data)) = [(1, 0, 7)] ∧ (u.hartAt 1).sync.rx.map (·.data) = [7] := by decide +kernel

/-- A task record at 0xFE00001000 in c2, and a queue that is off, one whose L1 part has room, and one whose ring has. -/
def taskS (q : TaskQ) : State :=
  let s := memS [(2, root 0xFE00001000)]
  { s with m := { s.m with ctxs := [(2, { regions := [(0, 0xFFC00F1F)], queues := [(0, q)] })], mem := [(0x1000, 0x40#8), (0x1004, 9#8), (0x1010, 3#8)] } }

def task0 : TaskRec := { entry := 0x40, deadline := 9, budget := 0, rsid := 0, wsid := 0, args := 3, stamp := 1, spawner := 0, gang := 1 }

theorem witness_Tasks :
    (∀ q ∈ [({} : TaskQ), { cfg := 0x8010 }, { cfg := 0x8410, ring := [task0], stamp := 1 }],
      let s := taskS q
      s.hart.pair.on = false ∧ s.hart.cpq = [] ∧ s.hart.sb ++ s.hart.posted = [] ∧ isOk (s.readCap (s.rc 2) 2 (s.ra 2) 32 32) = true ∧
        s.taskQ 2 0 = q) ∧
      (let s := withSync (withQ (gangS []) (.taskpop 0)) fun h => { h with given := some (.task task0) }
       s.hart.q[(0 : QReg)] = some (.taskpop 0) ∧ s.hart.sync.slice = none ∧ s.hart.sync.given = some (.task task0) ∧ badGiven ∉ s.hart.poison) ∧
      (let s := withSync (withQ (gangS []) (.taskpop 0)) fun h => { h with given := some .terminated }
       s.hart.sync.given = some .terminated) ∧
      (withSync (taskS {}) fun h => { h with slice := some { task := task0, hearth := 0 } }).hart.sync.slice = some { task := task0, hearth := 0 } := by
  decide +kernel

theorem test_spawn_enters_the_queue :
    nextAnd (.taskSpawn 0 3 2 0 true) (taskS { cfg := 0x8010 }) (fun t => t.ra 3 = 0 ∧
      (t.taskQ 2 0).l1.map (fun r => (r.entry, r.deadline, r.args)) = [(0x40, 9, 3)]) = true := by decide +kernel

theorem test_take_gives_the_record :
    nextAnd (.taskTake 0 3 0) (withSync (withQ (gangS []) (.taskpop 0)) fun h => { h with given := some (.task task0) })
      (fun t => t.ra 3 = 0 ∧ t.ra 4 = 3 ∧ t.ra 7 = 9) = true := by decide +kernel

/-- The last hart of a gang and one before it, a hart of no gang, and a launch record of zeros, which is refused. -/
theorem witness_GangsEndAndBegin :
    let s := gangS []
    let last : State := { s with parked := s.parked.map fun e => (e.1, { e.2 with place := .halted }) }
    s.hart.pair.on = false ∧ s.hart.cpq = [] ∧ s.hart.mx.queue = [] ∧ s.m.ops = [] ∧ s.hart.sb ++ s.hart.posted = [] ∧ base.gang? base.hart.gang = none ∧
      someAnd (s.gang? 1) (fun g => ∃ c ∈ g.cores, c ≠ s.cur ∧ (s.hartAt c).place ≠ .halted) = true ∧
      someAnd (last.gang? 1) (fun g => ∀ c ∈ g.cores, c ≠ last.cur → (last.hartAt c).place = .halted) = true ∧
      okAnd ((taskS {}).readCap ((taskS {}).rc 2) 2 ((taskS {}).ra 2) 64 64) (fun y =>
        (y.1.checkLaunch (LRec.of (BitVec.ofNat 512 y.2.1)) (some 2)).isSome = true) = true := by decide +kernel

theorem test_exit_of_the_last_hart_ends_the_gang :
    let s := gangS []
    nextAnd (.taskExit 0) { s with parked := s.parked.map fun e => (e.1, { e.2 with place := .halted }) }
      (fun t => t.gang? 1 = none ∧ (t.hartAt 0).place = .idle ∧ (t.hartAt 1).place = .idle) = true := by decide +kernel

/-! ### System instructions, traps, replay, pairing -/

/-- Level U with every bit of RWPERM clear, and with all set. -/
def userS (perm : BitVec 6) : State := base.onHart fun h => { h with lvl := .u, ctl := { h.ctl with rwperm := perm } }

/-- Numbers at the ends of the map that exist and that do not; needs met by level, by bit of RWPERM, and not met; the registers that ask a unit. -/
theorem witness_ControlRegisters :
    (∀ k ∈ [0x010, 0x206, 0x034, 0x191], ctlExists false k = true) ∧ (∀ k ∈ [0, 0x00F, 0x014, 0x207, 0xFFF], ctlExists false k = false) ∧
      (∀ k ∈ [0x100, 0x181, 0x206], ctlReadNeed k ≠ .all) ∧ base.hart.lvl = .k ∧ base.hart.pair.on = false ∧ base.hart.sync.domset = none ∧
      (let s := base.onHart fun h => { h with asked := some 3 }
       s.hart.asked = some 3 ∧ s.m.shoot.any (·.stamp == 3) = false) ∧
      ((base.taskQ 2 0).l1 = [] ∧ (base.taskQ 2 0).ring = []) ∧ base.hart.asked = none ∧ base.wanted 2 0x40000 = false := by decide +kernel

theorem test_status_of_level_k : (after (exec (.ctlRd 0 5 0x100) base)).ra 5 = 0x100 := by decide +kernel
theorem test_control_read_below_its_level_traps : (after (exec (.ctlRd 0 5 0x100) (userS 0x3F))).hart.kb.code = 4 := by decide +kernel
theorem test_matrix_weight_is_never_zero : (after (exec (.ctlWr 0 0 0x18C) base)).hart.ctl.mxwgt = 1 := by decide +kernel

/-- Level U with and without the bits; a pending cause and none; a gang that stops and one that does not; an idle core for a hart. -/
theorem witness_SystemInstructions :
    let s := gangS [(1, num 1), (2, num 2), (3, root 0x1000)]
    let stop : State := { s with m := { s.m with gangs := s.m.gangs.map fun e => (e.1, { e.2 with st := .stopping }) } }
    base.hart.pair.on = false ∧ (userS 0).hart.ctl.rwperm.getLsbD 0 = false ∧ (userS 0x3F).hart.ctl.rwperm.getLsbD 2 = true ∧ base.hart.lvl ≠ .u ∧
      (s.rc 3).tag = true ∧ (s.rc 3).seal = false ∧ (s.rc 3).malformed = false ∧
      (s.onHart fun h => { h with ext := true, ctl := { h.ctl with timecmp := 0 } }).hart.pending 0 ≠ [] ∧ s.hart.pending s.time = [] ∧ s.stopPending = false ∧
      stop.stopPending = true ∧ s.hart.slot = none ∧ s.hart.size ≤ (s.ra 2).toNat ∧ (s.ra 1).toNat < s.hart.size ∧
      someAnd (s.gang? 1) (fun g => g.cores[1]? = some 1) = true ∧ s.hart.id.gangsz.getLsbD 14 = false ∧ dieOf 2 = dieOf 1 ∧ (s.hartAt 2).place = .idle ∧
      (s.tray (trayOf 2)).wd = false ∧ (∀ c ∈ s.cores, c ≠ 1 → (s.hartAt c).migrateTo ≠ some 2) ∧ (s.hartAt 1).pair.on = false ∧ (s.hartAt 1).migrateTo = none ∧
      dieOf 1024 ≠ dieOf 1 := by decide +kernel

theorem test_safept_of_a_stopping_gang_waits :
    let s := gangS []
    nextAnd (.safept 0 7) { s with m := { s.m with gangs := s.m.gangs.map fun e => (e.1, { e.2 with st := .stopping }) } }
      (fun t => t.hart.atSafept = some (7, 0) ∧ t.hart.pc = s.hart.pc) = true := by decide +kernel

/-- The same with a page table: level 1 at 0x100000, level 2 at 0x110000, whose first entry is a block of 512 MiB at 0 (01 R31). -/
def mappedS (l : List (CReg × Cap)) : State :=
  let s := memS l
  { s with m := { s.m with
      ctxs := [(2, { ptEn := true, ptTable := 0x10, regions := [(0, 0xFFC00F1F)] })]
      mem := msets [] ((keysFrom (paKey s.m 0x100000) 8).zip (splitBytes 8 0x110003) ++ (keysFrom (paKey s.m 0x110000) 8).zip (splitBytes 8 0xBD)) } }

/-- Kinds 0, 1 and 5, kind 2 at a tile, kinds 3 and 4 at a mapped page, a kind above 5 and a bit that must be zero. -/
theorem witness_ErrorsInjected :
    let s := memS [(1, root 0xFE00001000)]
    let t := tiledS []
    (∀ p ∈ s.hart.pend, False) ∧ s.hart.lvl = .k ∧ (s.rc 1).tag = true ∧ (s.rc 1).seal = false ∧ (s.rc 1).malformed = false ∧ s.miller = false ∧
      Memory.wf s.m.mem = true ∧ (s.injectL1 (s.ra 1)).isSome = true ∧
      someAnd (t.injectL1 (t.ra 1)) (fun k => ((t.hearth (keyHearth k)).tileAt (keyOff k)).isSome = true) = true ∧
      isOk ((mappedS []).injectAt 3 0x40000) = true ∧ (2 ^ 22) / 2 ^ 22 ≠ 0 ∧ (2 ^ 22 - 1) / 2 ^ 22 = 0 := by decide +kernel

/-- Bit 9 of the word is wrong from then on, and its byte reads corrected. -/
theorem test_inject_flips_a_bit :
    nextAnd (.errinj 0 1 2) (memS [(1, root 0xFE00001000), (2, num (9 * 16))])
      (fun t => t.m.flips = [(0x200, 0x200)] ∧ t.m.mem = [] ∧ t.hart.lvl = .k) = true := by decide +kernel

/-- In a slot and out of it; levels K with a shadow and without; U. -/
theorem witness_TrapsAndReturns :
    let s := base.onHart fun h => { h with slot := some { target := 0x40040, src := some 0x40000 } }
    let r := base.onHart fun h => { h with pc := 0x40006, slot := some { target := 0x40040, src := none } }
    base.hart.slot = none ∧ s.hart.slot = some { target := 0x40040, src := some 0x40000 } ∧
      (r.hart.slot.map (·.src) = some none ∧ 1 < r.hart.pc.toNat / 2 % 32) ∧ (targetLevel 0x16 base.hart.lvl = .k ∧ base.hart.lvl = .k ∧ base.hart.kb.nest = false) ∧
      (base.onHart fun h => { h with kb := { h.kb with nest := true }, shadow := some {} }).hart.kb.nest = true ∧ (userS 0).hart.lvl = .u := by decide +kernel

theorem test_trap_of_level_u :
    nextAnd (.trap 0 9) ((userS 0).onHart fun h => { h with kb := { h.kb with base := 0x1000, vec := true } })
      (fun t => t.hart.lvl = .k ∧ t.hart.pc = 0x40002 ∧ t.hart.kb.epc = 0x40004 ∧ t.hart.kb.eval = 9 ∧ t.hart.kb.code = 6) = true := by decide +kernel

theorem test_eret_goes_back_into_the_slot :
    nextAnd (.eret 0) (base.onHart fun h => { h with kb := { ppl := .u, ds := true, pie := true, epc := 0x40006, ebt := 0x40100 } })
      (fun t => t.hart.lvl = .u ∧ t.hart.pc = 0x40006 ∧ t.hart.slot = some { target := 0x40100, src := none } ∧ t.hart.kb.ie = true) = true := by decide +kernel

/-- The phases of a replay, with a save area behind it. -/
def replayS (phase : Nat) : State := base.onHart fun h => { h with rep := { h.rep with en := true, phase := phase, pass := phase } }

theorem witness_Replay :
    ∀ ph ∈ [0, 1, 2],
      let s := replayS ph
      s.hart.rep.en = true ∧ s.hart.rep.backed = true ∧ s.hart.rep.phase = ph ∧ s.hart.cpq = [] ∧ s.hart.mx.queue = [] ∧ s.m.ops = [] ∧ s.hart.sb = [] ∧
        s.hart.posted = [] ∧ s.hart.pair.held = [] ∧ s.hart.lvl = .k := by decide +kernel

theorem test_replay_in_the_wrong_phase_traps : (after (exec (.replayEnd 0 3) (replayS 2))).hart.kb.code = 0x22 := by decide +kernel

/-- The other core in no gang; both placed, the other waiting or not; a result left; a stream with a parked odd core; an exchange that agrees
and one that does not. -/
def pairS (f g : Pair → Pair) : State :=
  let s := gangS []
  { s.onHart fun h => { h with pair := f h.pair } with parked := s.parked.map fun e => (e.1, { e.2 with pair := g e.2.pair }) }

theorem witness_Pairing :
    let s := pairS id id
    let w := pairS id fun p => { p with waiting := true }
    let stream (f : Pair → Pair) : State :=
      let s := pairS (fun p => f { p with on := true, due := true }) id
      { s with m := { s.m with parkedPair := [(1, s.hartAt 1)], checkpoint := [(0, s.hartAt 0)] } }
    let on (x : Bool) : State := stream fun p => { p with inject := x }
    let held := stream fun p => { p with acts := [(0, .wake { hart := 1, mask := 4 })] }
    base.miller = false ∧ ({ base with cur := 4096 } : State).miller = true ∧ s.hart.lvl = .k ∧ s.hart.pair.result = none ∧ s.hart.pair.on = false ∧
      (base.hartAt 1).place = .idle ∧ ((s.hartAt 1).gang = s.hart.gang ∧ (s.hartAt 1).place = .placed ∧ (s.hartAt 1).pair.waiting = false) ∧
      ((w.hartAt 1).pair.waiting = true ∧ w.cur % 2 = 0) ∧ (pairS (fun p => { p with result := some 0 }) id).hart.pair.result = some 0 ∧
      ((on false).hart.pair.on = true ∧ (on false).hart.pair.inject = false ∧ (on false).hart.pair.differs = false ∧ (tget? (on false).m.parkedPair 1).isSome = true) ∧
      (((on false).hartAt 0).place = .placed ∧ ((on false).hartAt 0).pair.due = true ∧ ((on false).hartAt 0).slot = none) ∧
      (((on true).hartAt 0).pair.inject = true ∧ ((on true).hartAt 0).pair.run = 0 ∧ (tget? (on true).m.checkpoint 0).isSome = true) ∧
      ((on false).hart.pair.flushing = false ∧ (on false).hart.pair.off = false ∧ (on false).hart.pair.acts = [] ∧
        (stream fun p => { p with off := true }).hart.pair.off = true) ∧
      (held.hart.pair.flushing = false ∧ held.hart.pair.off = false ∧ held.hart.pair.differs = false ∧ held.hart.pair.inject = false ∧ held.hart.slot = none ∧
        (held.ra 1).toNat < held.hart.size ∧ held.hart.pair.acts = [(0, .wake { hart := 1, mask := 4 })] ∧ held.hart.cpq = [] ∧
        held.hart.sb ++ held.hart.pair.held.take 0 ++ held.hart.posted = []) := by decide +kernel

theorem test_pair_on_begins_a_stream :
    nextAnd (.pairOn 0 3) (pairS id fun p => { p with waiting := true })
      (fun t => t.hart.pair.on = true ∧ (t.hartAt 1).place = .parked ∧ t.ra 3 = 0) = true := by decide +kernel

/-! ### Events: registers of units, memory, engines -/

/-- A shootdown under way that one unit has yet to acknowledge, and one that two have. -/
def shootS (units : List Nat) : State :=
  { base with m := { base.m with shoot := some { stamp := 1, what := .all, units := units } } }

theorem witness_Shootdowns :
    base.m.shoot = none ∧ (shootS [1280]).m.shoot.isSome = true ∧ ((shootS [1280]).hartAt 4096).sb = [] ∧ ((shootS [1280]).hartAt 4096).posted = [] ∧
      ((shootS [1280]).hartAt 4096).entering = none ∧ (∀ o ∈ (withO base 0 (opD plainD)).m.ops, o.1 / 32 = 0 → o.2.restMeta = [] ∧ ∀ d ∈ o.2.dels, d.rest = []) ∧
      (∀ u ∈ ([1280] : List Nat), u = 1280) ∧ (∃ u ∈ ([1536, 5887] : List Nat), u ≠ 1536) := by decide +kernel

theorem test_shootdown_ends :
    nextAnd .tlbinvAll base (fun t => someAnd t.m.shoot (fun x => x.units.length = 5888) = true) = true ∧
      nextAnd (.shootdownAck 1536) (shootS [1536]) (fun t => t.m.shoot = none) = true := by decide +kernel

/-- Registers of units: a queue that is empty, a line that is wanted, a gang that is POISONED with its snapshots, a bank with a record. -/
theorem witness_UnitRegisters :
    let b : ErrBank := { first := none, latest := none, count := 1, seq := 3 }
    let s : State := { base with m := { base.m with banks := [(0x51B, b)] } }
    let g : Gang := { ctx := 2, lrec := 0, cores := [0], st := .poisoned, roll := some { cur := [(0, base.hart)] } }
    let p : State := { base with m := { base.m with gangs := [(1, g)] } }
    let o : CodeObj := { handle := 1, img := { bytes := [], fns := [] }, textVa := 0x40000, textPa := 0, lines := 4, fns := [(0, 4, .unpublished)], maps := [], waits := [] }
    let c : State := { mappedS [] with m := { (mappedS []).m with ctxs := (mappedS []).m.ctxs.map fun e => (e.1, { e.2 with objs := [o] }) } }
    (s.taskQ 15 3).l1 = [] ∧ (s.taskQ 15 3).ring = [] ∧ (tget {} s.m.banks 0x51B).seq = 3 ∧ c.wanted 2 0x40000 = true ∧
      someAnd (p.gang? 1) (fun g => g.st = .poisoned ∧ someAnd g.roll (fun r => (p.undoBad g r).isNone = true) = true) = true ∧
      (let t := base.onHart fun h => { h with ctl := { h.ctl with timecmp := 0 } }
       (t.hartAt 0).ctl.timecmp ≤ t.time ∧ (t.hartAt 0).place = .placed) := by decide +kernel

theorem test_bank_acknowledged :
    let b : ErrBank := { count := 1, overflow := true, seq := 3 }
    nextAnd (.errorBankAck 0 3) { base with m := { base.m with banks := [(0, b)] } } (fun t => (tget {} t.m.banks 0).count = 0) = true ∧
      nextAnd (.errorBankAck 0 4) { base with m := { base.m with banks := [(0, b)] } } (fun t => (tget {} t.m.banks 0).nack = true) = true := by decide +kernel

/-- A store of one byte that waits in the store buffer or is posted, of the scope given. -/
def sbE (scope : Nat) (k : Nat) : SbEntry :=
  { va := 0xFE00001000, n := 1, cap := false, tag := false, rel := false, lvl := .k, page := 0, creg := 1, scope := scope, mt := 0, cells := [(k, 7)], limit := 1 }

theorem witness_StoresLeave :
    let s := base.onHart fun h => { h with sb := [sbE 1 0x1000] }
    let far := base.onHart fun h => { h with sb := [sbE 2 0x4001000] }
    let p := base.onHart fun h => { h with posted := [sbE 2 0x4001000] }
    let late : State := { p with m := { p.m with now := 256 * mclkUnits } }
    let locked : State := { p with m := { p.m with hearths := [(1, { locks := [(0, { owner := 1, range := .flat 0x1000 64, reason := 0, active := true })], filter := [0] })] } }
    let lostE : SbEntry := { sbE 2 0 with cells := [(noKey, 7)] }
    let lost := base.onHart fun h => { h with sb := [lostE] }
    ((sbE 1 0x1000).pass = false ∧ (sbE 1 0x1000).done = 0 ∧ s.splits = [] ∧ p.splits = [] ∧ s.entryWaits (sbE 1 0x1000) = false ∧
      p.entryWaits (sbE 2 0x4001000) = false ∧ (s.entryFills (sbE 1 0x1000)).2 = true ∧ (p.entryFills (sbE 2 0x4001000)).2 = true) ∧
      ((sbE 1 0x1000).rel = false ∧ (sbE 1 0x1000).device = false ∧ p.overdue (sbE 2 0x4001000) = false ∧ (sbE 2 0x4001000).limit ≠ 0) ∧
      ((lost.hartAt 0).sb = [lostE] ∧ lost.answers lostE = false ∧ far.answers (sbE 2 0x4001000) = true) ∧
      Memory.wf s.m.mem = true ∧ (s.hartAt 0).sb = [sbE 1 0x1000] ∧ ((sbE 1 0x1000).cells.map (·.1)).Nodup ∧ (isL1 0x1000 = true ∧ isL1 0x4001000 = true) ∧
      (s.hartAt 0).rep.phase ≠ 1 ∧ s.m.gangs = [] ∧ (far.hartAt 0).sb = [sbE 2 0x4001000] ∧ 0x4001000 ≠ noKey ∧ (p.hartAt 0).posted[0]? = some (sbE 2 0x4001000) ∧
      p.lockHit [0x4001000] = none ∧ (sbE 2 0x4001000).issued + (sbE 2 0x4001000).limit * (256 * mclkUnits) ≤ late.m.now ∧ isDev 0x4001000 = false ∧
      (locked.lockHit [0x4001000]).isSome = true := by decide +kernel

theorem test_store_drains_to_memory :
    nextAnd (.storeBufferDrain 0) (base.onHart fun h => { h with sb := [sbE 1 0x1000] }) (fun t => t.m.mem = [(0x1000, 7)] ∧ t.hart.sb = []) = true := by decide +kernel

/-- Every operation of a bank at the last word of the space, a peer's, a locked place, and a walk. -/
theorem witness_BanksAndPeers :
    (∀ op ∈ [BankOp.load, .store 5, .amo 0 1, .cas 0 9], let r : BankReq := { input := 10, off := 0x3FFFFF8, n := 8, op := op }
        r.valid = true ∧ r.up = [] ∧ r.off + r.n ≤ 0x4000000) ∧ base.m.gangs = [] ∧ base.m.peerRest = [] ∧ base.splits = [] ∧
      (∀ op ∈ [BankOp.capLoad, .capStore 5 true], ({ input := 0, off := 0x3FFFFF0, n := 16, op := op } : BankReq).valid = true) ∧
      (({ input := 3, off := 0x3FFFFFC, n := 4, op := .store 5 } : BankReq).valid = true ∧ 3 ≠ 10 ∧ 0x3FFFFFC / 8 = 0x3FFFFF8 / 8) ∧
      (∀ op ∈ [BankOp.load, .store 5, .amo 0 1], let p : PeerReq := { host := true, op := op, hearth := 3, off := 0x3FFFFF8, n := 8 }
        peerValid p = true ∧ someAnd (peerKeys p base.m) (fun keys => (∀ k ∈ keys, isL1 k = true) ∧ keys.Nodup ∧ base.lockHit keys = none ∧
          base.marks keys = .pass ∧ ((base.scrub keys).channelRead .other base.m.now keys (p.op != .load) true).2 = true ∧
          base.writeWaits keys false true = false) = true) ∧
      (let s : State := { base with m := { base.m with hearths := [(3, { locks := [(0, { owner := 1, range := .flat 0x3FFFFC0 64, reason := 0, active := true })] })] } }
       (s.lockHit [l1Key 3 0x3FFFFF8]).isSome = true) ∧
      inSpan 0x40000 = false ∧
      (let s := mappedS []
       match translate s .other s.m.now 0 2 0x40000 { rd := true } with | .ok _ => true | .error _ => false) = true := by decide +kernel

theorem test_bank_adds :
    nextAnd (.bankGrant 0 [{ input := 10, off := 8, n := 4, op := .amo 0 3 }]) { base with m := { base.m with mem := [(8, 0xFE#8)] } }
      (fun t => t.m.mem = [(8, 1#8), (9, 1#8)] ∧ tget 9 (t.hearth 0).arb 1 = 0) = true := by decide +kernel

/-- R47: a load and a store of one word are granted together, and the load gets what the word was. -/
theorem test_bank_merges :
    nextAnd (.bankGrant 0 [{ input := 10, off := 8, n := 8, op := .load }, { input := 3, off := 12, n := 4, op := .store 5 }])
      { base with m := { base.m with mem := [(8, 0xFE#8)] } }
      (fun t => t.m.mem = [(8, 0xFE#8), (12, 5#8)] ∧ tget [] (t.hearth 0).answers 1 = [(10, 0xFE)]) = true := by decide +kernel

theorem test_walk_installs_the_leaf : nextAnd (.pageWalk 0 2 0x40000 .load) (mappedS []) (fun t => (tlbFind t.m 0 2 0x40000).isSome = true) = true := by decide +kernel

/-- Entries that nothing holds up; a command that can begin and an empty one; a piece to land, to a place and to a slot; a buffer freed by its
receiver; a stream to refill. -/
def engS (d : Delivery) : State := withO (withH (memS [])  (hnd { st := .filling } {})) 0 (opD d)

theorem witness_Engines :
    let lk : LockE := { owner := 1, range := .flat 0 64, reason := 0 }
    let ld : LandE := { owner := 1, range := .flat 0 64, mode := 0, shift := 0, count := 0 }
    let e : State := { base with m := { base.m with hearths := [(3, { locks := [(255, lk)], lands := [(255, ld)], filter := [1023], stale := [1023] })] } }
    let q (n : Nat) : State := (memS []).onHart fun h => { h with cpq := [{ opc with it := { opc.it with rowlen := n } }] }
    let repl : State := withH base { hnd {} {} with repl := true, trays := [0], rings := [(0, { slots := [{}, {}] })], freed := [(0, 0)] }
    let st : State := withO ((memS []).onHart fun h => { h with streams := [(24, { opn := 0, write := false })] }) 0 { opD plainD with stream := true, write := false, dels := [] }
    (someAnd (tget? (e.hearth 3).locks 255) fun x => x.active = false ∧ e.quiet 3 x.range = true) = true ∧
      (someAnd (tget? (e.hearth 3).lands 255) fun x => x.active = false ∧ e.quiet 3 x.range = true) = true ∧ 1023 ∈ (e.hearth 3).stale ∧
      (∀ n ∈ [0, 64], (q n).hartAt 0 = (q n).hart ∧ someAnd ((q n).hart.cpq[0]?) (fun c => someAnd ((q n).plans c) (fun plans =>
        let dsts := plans.flatMap (·.segs) ++ (q n).metaSegs c
        c.pass = false ∧ (q n).hart.sb = [] ∧ (q n).busy (fun _ => false) ((q n).srcSegs c) dsts = false ∧ (q n).freeOpn 0 = some 0 ∧
          (q n).entriesFree ((q n).srcSegs c ++ dsts) dsts = true) = true) = true) ∧
      (∀ d ∈ [plainD, slotD], let s := engS d
        someAnd (tget? s.m.ops 0) (fun o => o.stream = false ∧ o.dels = [d] ∧ o.paused = false ∧ o.aborted = false ∧ o.cmd.xf = 0 ∧ o.cmd.fac = false ∧ d.part = 0 ∧
          s.splits = [] ∧ s.pausedByMove 0 = false ∧
          s.allActive (o.srcLocks ++ d.locks) (d.lands ++ o.metaLands) = true ∧ d.done < o.cmd.it.total ∧
          (match s.engReads (o.cmd.agent (some 0)) (o.cmd.srcRuns d.done (o.pieceLen d)) with
            | .ok x => (match x.1.pieceKeys (o.cmd.agent (some 0)) d (o.cmd.it.runs o.cmd.it.d1 o.cmd.it.d2 (o.pieceLen d) d.done (o.pieceLen d)) with
              | .ok y => Memory.wf y.1.m.mem && !y.1.writeWaits y.2.1 false (y.2.2 == 0) && decide (y.2.1.Nodup) && decide (x.2.length = y.2.1.length) && y.2.1.all isL1
              | _ => false)
            | _ => false) = true) = true) ∧
      (let s := engS { slotD with done := 64 }
       64 ≤ opc.it.total ∧ someAnd (s.slot? { hearth := 0, handle := 5, key := 512, slot := 0 }) (fun x => x.st = .filling ∧ x.clm = false ∧ x.popped = false) = true) ∧
      someAnd (repl.handle? 5) (fun h => h.trays ≠ [] ∧ ∀ tr ∈ h.trays, (tr, h.told) ∈ h.freed ∧ (tr, h.told + 1) ∉ h.freed) = true ∧
      someAnd (tget? st.m.ops 0) (fun o => st.allActive o.srcLocks (o.dels.flatMap (·.lands)) = true ∧ o.strips.length < 4 ∧ o.fetched < o.stripCount ∧
        st.pausedByMove 0 = false ∧ (match st.engReads (o.cmd.agent (some 0)) (o.cmd.srcRuns 0 64) with | .ok _ => true | _ => false) = true) = true := by decide +kernel

theorem test_copy_runs :
    let q := (memS []).onHart fun h => { h with cpq := [opc] }
    let s : State := { q with m := { q.m with mem := [(0x2000, 0xAB#8), (0x203F, 0xCD#8)] } }
    let run (i : Instr) (s : State) : State := after (exec i s)
    let t := run (.engineOpBegin 0) s
    let t := (List.range 4).foldl (fun t i => run (.rangeLockActivate 0 (256 + i)) (run (.rangeLockActivate 0 i) t)) t
    let t := run (.enginePieceLand 0 0) t
    t.m.mem = [(0x1000, 0xAB#8), (0x103F, 0xCD#8), (0x2000, 0xAB#8), (0x203F, 0xCD#8)] ∧ t.hart.cpq = [] := by decide +kernel

theorem test_full_slot :
    nextAnd (.landingComplete 0 0) (engS { slotD with done := 64 }) (fun t => (t.slot? { hearth := 0, handle := 5, key := 512, slot := 0 }).map (·.st) = some .full) = true := by
  decide +kernel

/-! ### Events: the matrix unit and the Kneader, channels, power -/

/-- A matrix command at a stage, of one part on core 0. -/
def mxC (st : MxStage) (p : MxPart) : MxCmd :=
  { mxS.mxBase .mma 1 true with
    stage := st, seq := 1, seqs := [1], stamp := 1, m := 8, n := 8, k := 16, afmt := 0x12, bfmt := 0x12, cfmt := 0x10, ah := 5, bh := 5, parts := [p] }
def part0 : MxPart := { p := 0, q := 0, core := 0 }
def slot0 : SlotRef := { hearth := 0, handle := 5, key := 512, slot := 0 }

/-- A state whose matrix queue holds some commands. -/
def withMx (l : List MxCmd) : State := mxS.onHart fun h => { h with mx := { h.mx with queue := l } }

/-- The window of core 0 off, and on with no rule; a window whose oldest command is 64 cycles old. -/
theorem witness_KneaderWindows :
    let s := withMx [mxC .queued part0]
    let off : State := { s with m := { s.m with trays := [(0, { cmask := 0 })] } }
    let on : State := { s with m := { s.m with trays := [(0, { rmask := 0 })] } }
    let w := withMx [mxC .eligible part0]
    let old : State := { w with m := { w.m with now := 64 * mclkUnits } }
    someAnd (s.hart.mx.queue.find? (·.stage == .queued)) (fun c => c = mxC .queued part0) = true ∧ s.hart.mx.window.length < 8 ∧
      (off.tray 0).cmask.getLsbD 0 = false ∧ ((on.tray 0).cmask.getLsbD 0 = true ∧ (on.tray 0).rmask = 0) ∧ old.hart.mx.window = [mxC .eligible part0] ∧
      (mxC .eligible part0).enteredAt + 64 * mclkUnits ≤ old.m.now := by decide +kernel

/-- Rules for MX.MMA alone (EXACT and ROUND), for MX.TRN alone, and for MX.MMA and MX.SCALE whose replacement takes the product of the
two scales (13 R303, R304). -/
def ruleMma (cls : Nat) : Nat := cls + 1 * 2 ^ 2 + 1 * 2 ^ 13
def ruleTrn : Nat := 1 * 2 ^ 2 + 2 * 2 ^ 13
def ruleMul : Nat := 2 * 2 ^ 2 + 1 * 2 ^ 13 + 3 * 2 ^ 18 + (10 * 2 + 3 * 2 ^ 5 + 1 * 2 ^ 7 + 10 * 2 ^ 9) * 2 ^ 76

/-- Rule 5 alone enabled, and the last command of the queue before the window. -/
def ruleS (r : Nat) (s : State) : State :=
  let s := s.onHart fun h => { h with mx := { h.mx with queue := h.mx.queue.zipIdx.map fun e =>
    if e.2 + 1 = h.mx.queue.length then { e.1 with stage := .queued } else e.1 } }
  { s with m := { s.m with trays := [(0, { rules := [(5, BitVec.ofNat 256 r)], rmask := 0x20 })] } }

/-- An MX.MMA as issued, and an MX.SCALE of its destination behind it. -/
def mmaS : State := let s := after (exec (.mxMma mma0) mxS); { s with m := { s.m with trays := [(0, { rmask := 0 })] } }
def scaleS : State := after (exec (.mxScale 0 1 0 0 0) mmaS)

/-- The run that rule 5 meets on core 0: whether the rule matches it, forms its replacements, and is permitted. -/
def runB (s : State) (r : Nat) : Option (Bool × Bool × Bool) :=
  s.hart.mx.queue.getLast?.map fun c =>
    let win := s.hart.mx.queue.dropLast
    let c' : MxCmd := { c with stage := .eligible, enteredAt := s.m.now }
    let s' := s.modHart 0 fun h => { h with mx := { h.mx with queue := win ++ [c'] } }
    let w := (win ++ [c']).filter fun d => d.stage == .eligible || d.stage == .ready
    let run : Run := { before := w.take (w.length - rNpat r), s := w.drop (w.length - rNpat r) }
    (knKinds r run && s'.knEqs 0 r run && s'.knPred 0 r run && s'.knConditions 0 r run, (s'.knForm 0 r 5 run).isSome, knPermitted r run)

/-- A rule that rewrites, one without a permit, one that does not match, and one that rewrites two commands to one. -/
theorem witness_KneaderWindows_rules :
    (∀ x ∈ [(mmaS, ruleMma 0), (mmaS, ruleMma 1), (mmaS, ruleTrn), (scaleS, ruleMul)],
      let s := ruleS x.2 x.1
      let q := s.hart.mx.queue
      ((q.map (·.stage)).getLast? = some .queued ∧ ∀ d ∈ q.dropLast, d.stage = .eligible) ∧ (q.map (·.stamp)).Nodup ∧ s.hart.mx.window.length < 8 ∧
        (s.tray 0).cmask.getLsbD 0 = true ∧ (∀ i < 64, (s.tray 0).rmask.getLsbD i = decide (i = 5)) ∧ (s.tray 0).rule 5 = x.2 ∧ rCls x.2 ≠ 3 ∧ rNpat x.2 = q.length ∧
        ruleBad x.2 = none) ∧
      runB (ruleS (ruleMma 0) mmaS) (ruleMma 0) = some (true, true, true) ∧ runB (ruleS (ruleMma 1) mmaS) (ruleMma 1) = some (true, true, false) ∧
      (runB (ruleS ruleTrn mmaS) ruleTrn).map (·.1) = some false ∧ runB (ruleS ruleMul scaleS) ruleMul = some (true, true, true) := by decide +kernel

theorem test_kneader_multiplies_the_scales :
    let t := after (exec (.kneaderEntry 0) (ruleS ruleMul (scaleS.onHart fun h =>
      { h with mx := { h.mx with queue := h.mx.queue.map fun c => { c with scale := 0x40000000 } } })))
    t.hart.mx.queue.map (fun d => (d.kn, d.kind, d.scale)) = [(true, .mma, 0x40800000)] := by decide +kernel

/-- A command that can claim, one that can leave, one that is done, a faulted one; UPROG and SCALE; a step of a Tray with credit and without. -/
theorem witness_MatrixCommandsRun :
    let claimed : MxPart := { part0 with aSlot := some slot0, bSlot := some slot0 }
    let s := withMx [mxC .ready part0]
    let l := withMx [mxC .ready claimed]
    let d := withMx [{ mxC .dispatched { claimed with done := true } with dest := 0xFE00100000, tok := true }]
    let f := withMx [{ mxC .ready { claimed with done := true } with fault := some { cause := 0x25, val := 0, info := 0 } }]
    (∀ c ∈ [mxC .ready part0, { mxC .ready part0 with kind := .scale }, { mxC .ready part0 with kind := .uprog }],
      (withMx [c]).hart.mx.queue = [c] ∧ c.stage = .ready ∧ c.dead = false ∧ c.fault = none ∧ ∀ p ∈ c.parts, (withMx [c]).mxFront c.stamp p.core = true) ∧
      someAnd (s.ownHandle 2 5) (fun h => someAnd (h.ring (h.keyFor 0)) (fun r => (r.slot r.head).st = .full) = true) = true ∧
      l.mxDispatchFault 0 (mxC .ready claimed) claimed = none ∧
      (∀ dh ∈ [5, 0x3FF], let c : MxCmd := { mxC .ready claimed with kind := .trn, afmt := 0x12, bfmt := 0x12, cfmt := 0x12, dh := dh }
        let s := withH (withMx [c]) { hnd { st := .full, len := 1024 } {} with slotsz := 1024, rings := [(512, { slots := [{ st := .full, len := 1024 }, {}], tail := 1 })] }
        s.mxDispatchFault 0 c claimed = none ∧ c.pass = false ∧ s.hart.sb = [] ∧
          someAnd (s.ownHandle 2 5) (fun h => someAnd (h.ring (h.keyFor 0)) (fun r => (r.slot r.tail).st = .free ∧
            (let seg := s.nearForm (0, h.range (h.keyFor 0) (r.tail * h.slotsz) c.boxLen); s.entriesFree [seg] [seg] = true)) = true) = true) ∧
      (d.splits = [] ∧ d.pausedByMove (mxOwner 0 1) = false) ∧ (∀ c ∈ d.hart.mx.queue, c.stage = .dispatched ∧ (∀ p ∈ c.parts, p.done = true) ∧ d.allActive c.locks c.lands = true ∧ d.hart.mx.tokens.length < 8 ∧ c.seqs ≠ [] ∧
        d.destTile 0 c = none ∧ 0 < c.boxLen ∧ c.wC = 32 ∧ d.destKeys 0 c 0 c.boxLen = (List.range c.boxLen).map fun b => l1Key 0 (0x100000 + b)) ∧
      (∀ c ∈ f.hart.mx.queue, c.fault.isSome = true ∧ c.kn = false ∧ c.undo = []) ∧ (base.tray 0).droop = none ∧ base.tileStep 0 = none := by decide +kernel

/-- A block of each kind of command that can be computed on core 0, and its operands. -/
theorem witness_MatrixCommandsRun_steps :
    let claimed : MxPart := { part0 with aSlot := some slot0, bSlot := some { slot0 with slot := 1 } }
    ∀ kind ∈ [MxKind.mma, .trn, .scale],
      let c : MxCmd := { mxC .dispatched claimed with kind := kind, dest := 0xFE00100000, acc := true }
      let s := withMx [c]
      let ok {α : Type} (r : Except (Option (Word × Nat)) α) : Bool := match r with | .ok _ => true | .error _ => false
      s.frontPart 0 = some (0, c, claimed) ∧ s.hart.mx.queue.head? = some c ∧ c.fault = none ∧ c.dead = false ∧ s.allActive c.locks c.lands = true ∧
        s.pausedByMove (mxOwner 0 c.seq) = false ∧ s.m.flips = [] ∧ c.sp = false ∧ c.up = 0 ∧ c.fc = false ∧ c.inj = none ∧ ok (s.readC 0 c claimed) = true ∧
        (kind = .mma → ok (s.readOp 0 c.env c.afmt (c.shapeA 0).2 slot0 ((List.range 8).flatMap fun i => (List.range 16).map fun k => (i, k))) = true ∧
          ok (s.readOp 0 c.env c.bfmt (c.shapeB 0).2 { slot0 with slot := 1 } ((List.range 16).flatMap fun k => (List.range 8).map fun j => (k, j))) = true) ∧
        (kind = .trn → s.trnSource c slot0 = none ∧ ∀ i < 8, ∀ j < 8, let offs := opBytes c.afmt c.n i j
          (match s.mxRead 0 (fun x => s.slotVa slot0 (offs.getD x 0)) (offs.map (s.slotKey slot0)) with | .ok _ => true | _ => false) = true) := by decide +kernel

/-- The first three steps of a command: its two slots are claimed, and it leaves for the array. -/
theorem test_matrix_dispatch :
    let run (s : State) : State := after (exec (.mxDispatch 0) s)
    let s : State := withH (withMx [mxC .ready part0]) { hnd { st := .full, len := 1024 } { st := .full, len := 1024 } with cons := true, slotsz := 1024 }
    let t := run (run (run s))
    t.hart.mx.queue.map (fun c => (c.stage, c.parts.map fun p => (p.aSlot.map (·.slot), p.bSlot.map (·.slot)))) = [(.dispatched, [(some 0, some 1)])] ∧
      (t.handle? 5).map (fun h => h.rings.map fun r => r.2.head) = some [0] := by decide +kernel

/-- A step that the queue of core 0 can run, held by the arbiter and given to it next; a current that falls at once to 0, 500 ns and 0 ns later. -/
theorem witness_TileSteps :
    let claimed : MxPart := { part0 with aSlot := some slot0, bSlot := some slot0 }
    let s := withMx [{ mxC .dispatched claimed with dest := 0xFE00100000 }]
    let held : State := { s with m := { s.m with trays := [(0, { arb := 0, credit := 1 })] } }
    let next : State := { s with m := { s.m with trays := [(0, { arb := 6, credit := 0 })] } }
    let falls (t : Nat) : State := { base with m := { base.m with timeBase := t, trays := [(0, { spent := [(0, 10000000000)] })] } }
    ((falls 1500).falling = true ∧ ((falls 1500).tray 1).droop = none ∧ (falls 1500).tileStep 1 = none) ∧ (falls 1000).falling = false ∧
    (∀ x ∈ [held, next], (x.tray 0).droop = none ∧ (x.coreStep1 0).isSome = true) ∧ (held.tray 0).credit ≠ 0 ∧ (next.tray 0).credit = 0 ∧
      0 = ((next.tray 0).arb + 1 + 1) % 8 ∧ next.coreStep1 7 = none := by decide +kernel

/-- A channel with a read pending that owes 0 and 7 refreshes, and none pending that owes 0 and 3; a line without its sector, and none; a
bank under refresh, with a read that waits for it and without. -/
theorem witness_Channels :
    let ch (c : Chan) (l2 : List (Nat × L2Line)) : State := { base with m := { base.m with chans := [(255, c)], l2 := l2 } }
    let at0 := hbmKey 255 0x5FFFFFC0
    let s := ch { reads := [at0 / 64] } [(lineKey at0, { way := 0 })]
    let r := ch { all := true } []
    let o (t : Nat) : State := let x := ch { others := [(at0 / 64 - 1, 0)] } []; { x with m := { x.m with mxStamp := t } }
    0x5FFFFFC0 + 64 ≤ 0x60000000 ∧ (∀ far, base.writeWaits (keysFrom at0 64) false far = false) ∧ (base.l2Line (lineKey at0) true).isSome = true ∧
      (r.bankHeld .other at0 = true ∧ (tget {} r.m.chans 255).stallFrom = none) ∧ (∃ j < 64, base.needsFill (hbmKey 255 0x5FFFFFC0 + j) false = true) ∧
      (base.bankHeld .other at0 = false ∧ base.outrun .other at0 = false ∧ base.readerWait .other at0 = none) ∧
      ((o 1).bankHeld .other at0 = false ∧ (o 1).outrun .other at0 = true ∧ (o 1).readerWait .other at0 = none) ∧
      ((o 1).othersGo 255 = some (at0 / 64 - 1) ∧ (o 1).waitsAt 255 1 = true ∧ (o 0).waitsAt 255 0 = false) ∧
      (∀ j < 64, (ch {} [(lineKey at0, { way := 0, v := 0xF })]).needsFill (at0 + j) false = false) ∧ at0 / 64 ∈ (tget {} s.m.chans 255).reads ∧
      tget? (ch { reads := [at0 / 64] } []).m.l2 (lineKey at0) = none ∧ someAnd (tget? s.m.l2 (lineKey at0)) (fun y => y.v.getLsbD (0x5FFFFFC0 / 64 % 4) = false) = true ∧
      (∀ c ∈ [({ reads := [9] } : Chan), { reads := [9], owed := 7 }, {}, { owed := 3 }, { allWait := true, allAt := 0 }, { all := true, stallFrom := some 0 }, { banks := [3] }], tget {} (ch c []).m.chans 255 = c) := by
  decide +kernel

theorem test_refresh_slots :
    let ch (c : Chan) : State := { base with m := { base.m with chans := [(0, c)] } }
    nextAnd (.refreshSlot 0) (ch { reads := [9], owed := 7 }) (fun t => tget {} t.m.chans 0 = { reads := [9], owed := 7, allWait := true, forced := 1 }) = true ∧
      nextAnd (.refreshSlot 0) (ch { owed := 1, p := 15 }) (fun t => tget {} t.m.chans 0 = { owed := 0, p := 1, banks := [0, 15] }) = true := by decide +kernel

theorem test_sector_fill :
    let s : State := { base with m := { base.m with chans := [(0, { reads := [hbmKey 0 64 / 64] })], l2 := [(lineKey (hbmKey 0 64), { way := 0 })] } }
    nextAnd (.sectorFill 0 64 true) s (fun t => tget? t.m.l2 (lineKey (hbmKey 0 64)) = some { way := 0, v := 2, poison := 2 }) = true := by decide +kernel

/-- A Tray in transition, in a hold, hot and cool, at the bounds of each temperature; a window above and at its cap; an active port. -/
theorem witness_Power :
    let tr (t : Tray) : State := { base with m := { base.m with trays := [(511, t)] } }
    let pw (e : Nat) : State := { base with m := { base.m with power := { base.m.power with droophold := 5, dieSpent := [(0, [(7, e)])] } } }
    ((tr { trans := some (3, 5) }).tray 511).trans = some (3, 5) ∧ ((tr { droop := some 7 }).tray 511).droop = some 7 ∧ base.m.power.droophold = 0 ∧ (pw 0).m.power.droophold ≠ 0 ∧
      (let b := base.m.power.pcap * 16000000000
       heldEnergy base.m.windowEnergy b ≤ b ∧ b < heldEnergy (pw 0x200000000000).m.windowEnergy b) ∧
      (tget {} ({ base with m := { base.m with host := { base.m.host with links := [(15, { st := .active })] } } } : State).m.host.links 15).st = .active ∧
      (tr { hot := true, crit := true }).tray 511 = { hot := true, crit := true } := by decide +kernel

theorem test_thermal_warning_and_trip :
    nextAnd (.thermalWarn 0 95) base (fun t => (t.tray 0).hot = true ∧ t.hart.asy.map (·.cause) = [0x50]) = true ∧
      nextAnd (.thermalTrip 0 115) base (fun t => t.m.stopped = true) = true := by decide +kernel

/-! ### Events: scheduling, placing, stopping, moving -/

/-- A launch record of context 2, PRIO 0, one Tray, object 1 at its first head, 16 bytes of arguments from 0xFE00003000 to L1 offset 0x5000. -/
def lrec0 : BitVec 512 := BitVec.ofNat 512 (2 + 2 ^ 16 + 2 ^ 64 + 2 * 2 ^ 96 + 0xFE00003000 * 2 ^ 128 + 16 * 2 ^ 192 + 0x5000 * 2 ^ 224)
def launch0 : Launch := { lrec := lrec0, ctx := 2, parent := none, host := true }

/-- Context 2 with a code object of one line of text, and nothing placed. -/
def launchS (txn : Txn) (l : List Launch) : State :=
  let o : CodeObj := {
    handle := 1, img := { bytes := splitBytes 64 (0x40 * 2 ^ 64) ++ splitBytes 64 (lineOf 0 0), fns := [] }, textVa := 0x40000, textPa := 0, lines := 1
    fns := [(0, 1, .published)], maps := [], waits := [] }
  { m := { State.reset.m with
      ctxs := [(2, { regions := [(0, 0xFFC00F1F)], objs := [o] })], mem := [(0x3000, 9#8)], dist := { queues := [(16, l)], txn := txn } } }

/-- The record is accepted from the host and from its context, and from no other; a candidate with a place for it; a Tray to reserve; an arrival. -/
theorem witness_Launches :
    (launchS {} []).checkLaunch (LRec.of lrec0) none = none ∧ (launchS {} []).checkLaunch (LRec.of lrec0) (some 2) = none ∧
      (launchS {} []).checkLaunch (LRec.of lrec0) (some 3) = some 7 ∧
      (let s := launchS {} [launch0]
       someAnd s.allHeads.head? (fun e => e = (0, .launch launch0) ∧ (s.planFor e.1 e.2 []).isSome = true) = true) ∧
      (let s := launchS { st := .commit, cand := some (.launch launch0), plan := [0], reserved := [0] } []
       let r := LRec.of lrec0
       let cores := coresOf r.mset [0]
       s.argGranted r.ctx 0 r.argOff r.argLen = true ∧ cores.Nodup ∧ cores.length ≤ 4096 ∧ r.argOff + r.argLen ≤ 0x4000000 ∧
         (match s.engRead { core := 0, near := 0, ctx := 2, user := false } (w64 r.argSrc) r.argLen with
          | .ok x => (x.1.m.reserveAll cores r.levels).isSome && (tfree x.1.m.gangs 4096 == some 0) && Memory.wf x.1.m.mem && x.1.m.gangs.isEmpty
          | _ => false) = true) := by decide +kernel

/-- n zeros. -/
def zeros (n : Nat) : List Byte := List.replicate n 0

theorem zeros_length (n : Nat) : (zeros n).length = n := List.length_replicate

/-- The bytes of an image of one hart, all zeros but for the CRC-32C of each record. -/
def imageBody : List Byte := crcEnded (zeros 0xFFFC) ++ withCrc (zeros 0x20000) 0xFFC

/-- The memory that holds them from channel 0 on. -/
def imageMem : List Host.Cell := msets [] (imageBody.zipIdx.map fun e => (0x10000000 + e.2, e.1))

/-- A saved gang of one Miller hart, its image in channel 0, selected to be restored. -/
def imageG : Gang := { ctx := 2, lrec := 0, st := .saved, mset := true, size := 1, image := some 0, saved := [(0, base.hart)] }
def imageIn (mem : List Host.Cell) (bad : List Nat) : State :=
  { m := { State.reset.m with
      ctxs := [(2, { saveBase := 0x400000000000 })], gangs := [(1, imageG)], dist := { txn := { st := .commit, cand := some (.restore 1), plan := [0] } }
      poisonS := bad, mem := mem } }

/-- The saved image with some sectors bad. -/
def imageS (bad : List Nat) : State := imageIn imageMem bad

theorem imageIn_mem (mem : List Host.Cell) (bad : List Nat) : (imageIn mem bad).m.mem = mem := rfl

theorem withCrc_length (l : List Byte) (o : Nat) : (withCrc l o).length = l.length := by simp [withCrc]

theorem withCrc_withCrc (l : List Byte) (o : Nat) : withCrc (withCrc l o) o = withCrc l o := by
  have hz : ((withCrc l o).zipIdx.map fun e => if o ≤ e.2 ∧ e.2 < o + 4 then 0 else e.1) = l.zipIdx.map fun e => if o ≤ e.2 ∧ e.2 < o + 4 then 0 else e.1 := by
    apply List.ext_getElem
    · simp [withCrc]
    · intro i h1 h2
      simp only [withCrc, List.getElem_map, List.getElem_zipIdx, Nat.zero_add]
      split <;> rfl
  rw [withCrc, hz]
  rfl

theorem crcGood_crcEnded (l : List Byte) : crcGood (crcEnded l) = true := by
  have h : (splitBytes 4 (crcOf l)).length = 4 := by simp [splitBytes]
  simp [crcGood, crcEnded, h]

theorem crcEnded_length (l : List Byte) : (crcEnded l).length = l.length + 4 := by simp [crcEnded, splitBytes]

theorem imageBody_length : imageBody.length = 0x30000 := by
  rw [imageBody, List.length_append, crcEnded_length, withCrc_length, zeros_length, zeros_length]

theorem imageKey (m : Mod) (a : Nat) (h : a < 0x80000000) : paKey m (0x400000000000 + a) = 0x10000000 + a := by
  have hb : bits (0x400000000000 + a) 47 46 = 1 := by simp only [bits]; omega
  simp [paKey, hb, hbmKey]
  omega

theorem imageBytes (bad : List Nat) (a n : Nat) (h : a + n ≤ 0x30000) : (imageS bad).paBytes (0x400000000000 + a) n = (imageBody.drop a).take n := by
  have hl := imageBody_length
  apply List.ext_getElem
  · simp [State.paBytes, hl]; omega
  · intro i h1 h2
    have hi : i < n := by simp [State.paBytes] at h1; exact h1
    simp only [State.paBytes, List.getElem_map, List.getElem_range, List.getElem_take, List.getElem_drop]
    rw [Nat.add_assoc, imageKey _ _ (by omega)]
    have := mget_msets_mem [] (imageBody.zipIdx.map fun e => (0x10000000 + e.2, e.1)) (0x10000000 + (a + i), imageBody[a + i]) rfl
      (by
        rw [List.map_map, List.Nodup, List.pairwise_map, List.pairwise_iff_getElem]
        intro i j hi hj hij
        simp
        omega)
      (List.mem_map.mpr ⟨(imageBody[a + i], a + i), List.mem_iff_getElem.mpr ⟨a + i, by simp [hl]; omega, by simp⟩, rfl⟩)
    rw [imageS, imageIn_mem, imageMem]
    exact this

theorem imageOk_good : (imageS []).imageOk imageG = true := by
  have h1 : (imageS []).imagePa imageG = 0x400000000000 + 0 := rfl
  have h2 : (imageS []).recordPa imageG 0 = 0x400000000000 + 0x10000 := rfl
  have hc : (crcEnded (zeros 0xFFFC)).length = 0x10000 := by rw [crcEnded_length, zeros_length]
  have e : imageBody.drop 0x10000 = withCrc (zeros 0x20000) 0xFFC := by
    rw [imageBody, List.drop_left' hc]
  have f : imageBody.take 0x10000 = crcEnded (zeros 0xFFFC) := by
    rw [imageBody, List.take_left' hc]
  have g : (withCrc (zeros 0x20000) 0xFFC).take 0x20000 = withCrc (zeros 0x20000) 0xFFC :=
    List.take_of_length_le (by simp [withCrc_length, zeros_length])
  have hr : ∀ l ∈ List.range imageG.size, l = 0 := by decide
  simp only [State.imageOk, Bool.and_eq_true, List.all_eq_true]
  refine ⟨⟨⟨rfl, ?_⟩, ?_⟩, ?_⟩
  · rw [h1, imageBytes [] 0 _ (by omega), List.drop_zero, f]
    exact crcGood_crcEnded _
  · intro x hx; exact absurd hx (by simp [imageG])
  · intro l hl
    rw [hr l hl, h2, imageBytes [] _ _ (by omega), e, g, withCrc_withCrc]
    simp
/-- An image that is good, one with an uncorrectable error, one whose barrier is taken. -/
theorem witness_Launches_restore :
    let s := imageS []
    let bad := imageS [0x10000000 / 64]
    let full : State := { s with m := { s.m with gangs := [(1, { imageG with savedBars := [(3, { members := [0] })] })], bars := [(3, { members := [0] })] } }
    let cores := coresOf imageG.mset s.m.dist.txn.plan
    (s.m.dist.txn.st = .commit ∧ s.m.dist.txn.cand = some (.restore 1) ∧ s.gang? 1 = some imageG ∧ imageG.st = .saved) ∧
      (s.imageOk imageG = true ∧ s.barsFree imageG = true ∧ cores.Nodup ∧ (imageG.saved.map (·.1)).Nodup ∧ (∀ e ∈ imageG.saved, e.1 < cores.length ∧ e.2.pair.on = false)) ∧
      (bad.imageOk imageG = false ∧ isDev (paKey bad.m (bad.imagePa imageG + 0x50)) = false) ∧
      someAnd (full.gang? 1) (fun g => full.barsFree g = false) = true :=
  ⟨by decide +kernel, ⟨imageOk_good, by decide +kernel⟩, by decide +kernel, by decide +kernel⟩

/-- From a launch in its queue to eight harts placed at its entry. -/
theorem test_launch_places_a_gang :
    let run (s : State) (i : Instr) : State := after (exec i s)
    let t := [Instr.placementSelect, .placementSelect, .trayReserve, .placementCommit, .wakeFlood].foldl run (launchS {} [launch0])
    t.m.dist.txn.st = .idle ∧ (t.m.gangs.map fun g => (g.1, g.2.cores, g.2.st)) = [(0, [0, 1, 2, 3, 4, 5, 6, 7], .running)] ∧
      ((t.hartAt 7).place = .placed ∧ (t.hartAt 7).pc = 0x40002 ∧ (t.hartAt 7).id.lcore = 7) ∧ mget t.m.mem 0x5000 = 9 := by decide +kernel

/-- A barrier with both members arrived; a record and a taker of its gang; a token at the first and the last core; a budget. -/
theorem witness_Units :
    let s := gangS []
    let bar : State := { s with m := { s.m with bars := [(7, { members := [0, 1], arrived := [0, 1] })] } }
    let taking (x : State) : State := withSync (withQ x (.taskpop 0)) fun h => { h with takeAt := some (1, 0) }
    let rec0 : State := taking { s with m := { s.m with ctxs := [(2, { queues := [(0, { cfg := 0x8010, l1 := [task0] })] })] } }
    let halted : State := { s with hart := { s.hart with place := .halted }, parked := s.parked.map fun e => (e.1, { e.2 with place := .halted }) }
    let tok (n : Nat) : State := { halted with m := { s.m with gangs := s.m.gangs.map fun e => (e.1, { e.2 with opalAt := n }) } }
    someAnd (bar.gangBar 1 1 0) (fun r => someAnd (bar.barAt r) (fun x => x.members ≠ [] ∧ ∀ m ∈ x.members, m ∈ x.arrived) = true) = true ∧
      someAnd (rec0.nextRecord 0) (fun e => e = (2, task0, 0)) = true ∧
      (∀ n ∈ [0, 1], someAnd ((tok n).gang? 1) (fun g => g.mset = false ∧ g.terminated = false ∧ g.st = .running ∧ g.cores.Nodup ∧
        someAnd g.cores[g.opalAt]? (fun c => (tok n).opalWaits c = true ∧ tget? (tok n).m.parkedPair c = none) = true) = true) ∧
      (∀ c ∈ [0, 1], (tok 1).opalWaits c = true) ∧ (tok 1).noRecords 1 = true ∧
      (let h := ((withSync s fun x => { x with slice := some { task := task0, hearth := 0 }, budget := 5 }).onHart fun h => { h with waiting := true }).hartAt 0
       h.place = .placed ∧ h.waiting = true ∧ h.safeWait = false ∧ h.sync.slice.isSome = true ∧ h.lvl ≠ .f ∧ h.sync.budget ≠ 0) := by decide +kernel

theorem test_barrier_completes :
    let s := gangS []
    nextAnd (.barrierComplete 1 1 0) { s with m := { s.m with bars := [(7, { members := [0, 1], gen := 65535, arrived := [0, 1] })] } }
      (fun t => tget? t.m.bars 7 = some { members := [0, 1], gen := 0, arrived := [], phase := true }) = true := by decide +kernel

/-- A gang that stops, its hart at a safe point and at none when the time is over; one that drains, one that has drained; one that rolls back;
a hart at a safe point with a target. -/
def stopS (st : GangSt) (f : Hart → Hart) (g : Gang → Gang) : State :=
  { base.onHart f with m := { base.m with gangs := [(1, g { ctx := 2, lrec := 0, cores := [0], size := 1, st := st })] } }

theorem witness_GangsStop :
    let quiet (s : State) : Prop := (∀ c ∈ s.hart.mx.queue, c.stage ≠ .eligible) ∧ s.hart.pair.on = false ∧ s.hart.drained = true
    let safe := stopS .stopping (fun h => { h with atSafept := some (3, 0), waiting := true, safeWait := true }) id
    let late : State := { stopS .stopping id id with m := { (stopS .stopping id id).m with timeBase := 100000 } }
    let stopped := stopS .stopping (fun h => { h with place := .stopped }) id
    let drain := stopS .draining (fun h => { h with place := .stopped }) id
    let blank : Undo := { kind := 0, hearth := 0, index := 0, bytes := [], tags := [], tile := none }
    let roll0 := stopS .rolling (fun h => { h with place := .stopped }) fun g => { g with roll := some { cur := [(0, base.hart)], log := [blank, blank] } }
    let roll : State := { roll0 with m := { roll0.m with
      mem := (((roll0.gang? 1).bind fun g => g.roll.map fun r => [(paKey roll0.m (g.undoPa r 1), 1#8)]).getD []) } }
    let bad : State := { roll with m := { roll.m with poisonS := [paKey roll.m 0 / 64] } }
    let move := base.onHart fun h => { h with migrateTo := some 5, waiting := true, safeWait := true }
    let moving := base.onHart fun h => { h with migrateTo := some 5, moving := true }
    (someAnd (safe.gang? 1) (fun g => g.st = .stopping) = true ∧ quiet safe ∧ safe.hart.atSafept.isSome = true ∧ safe.hart.sync.given = none) ∧
      (someAnd (late.gang? 1) (fun g => g.stopAt + 100000 ≤ late.nowNs) = true ∧ quiet late ∧ late.hart.stoppable = false ∧ late.hart.midway = false ∧ late.hart.place = .placed) ∧
      someAnd (stopped.gang? 1) (fun g => stopped.allStopped g = true ∧ ∃ c ∈ g.cores, (stopped.hartAt c).place ≠ .halted) = true ∧
      someAnd (drain.gang? 1) (fun g => drain.workDone 1 g = true ∧
        ∀ k < 16 + 64 * g.size, (decide (devBase ≤ paKey drain.m (drain.imagePa g + 4096 * k) + 4095)) = false) = true ∧
      someAnd (roll.gang? 1) (fun g => someAnd g.roll (fun r => ((roll.discard 1 g).undoBad g r).isNone = true ∧ g.stopLater = false ∧ g.cores.Nodup ∧
        g.mset = false ∧ (∀ e ∈ r.cur, e.2.pair.on = false) ∧ Memory.wf roll.m.mem = true ∧
        -- an L1 block and a facet block
        (let log := (roll.discard 1 g).undoLog g r; log.map (·.kind) = [0, 1] ∧ ∀ u ∈ log, u.kind = 0 → u.index < 0x40000)) = true) = true ∧
      someAnd (bad.gang? 1) (fun g => someAnd g.roll (fun r => g.st = .rolling ∧ ((bad.discard 1 g).undoBad g r).isSome = true) = true) = true ∧
      (move.hart.migrateTo = some 5 ∧ move.hart.moving = false ∧ move.hart.stoppable = true ∧ move.hart.pair.on = false) ∧
      (quiet moving ∧ moving.hart.migrateTo = some 5 ∧ moving.hart.moving = true ∧ moving.hart.pausing = false ∧
        (moving.onHart fun h => { h with pausing := true }).hart.pausing = true ∧ moving.hart.atSafept = none ∧ moving.hart.mx.queue = [] ∧
        moving.windowQuiet = true ∧ (moving.ctx 2).objs = []) := by decide +kernel

/-- A drained gang whose image has a place of its own. -/
theorem witness_GangsStop_image :
    let d := stopS .draining (fun h => { h with place := .stopped }) fun g => { g with image := some 0 }
    let s : State := { d with m := { d.m with ctxs := [(2, { saveBase := 0x400000000000 })] } }
    let total := 0x10000 + 0x2000 * (1 / 8) + 0x20000 * 1
    someAnd (s.gang? 1) (fun g => g.st = .draining ∧ g.mset = false ∧ s.workDone 1 g = true ∧ g.cores.length = g.size ∧ g.size = 1 ∧ s.imagePa g = 0x400000000000 ∧
        ∀ k < 16 + 64 * g.size, decide (devBase ≤ paKey s.m (s.imagePa g + 4096 * k) + 4095) = false) = true ∧
      Memory.wf s.m.mem = true ∧
      (∀ i < total, let key (i : Nat) : Nat := paKey s.m (0x400000000000 + i); isHbm (key i) = true ∧ key i = key (i / 4096 * 4096) + i % 4096) ∧
      ∀ i < total, ∀ j < total, paKey s.m (0x400000000000 + i) = paKey s.m (0x400000000000 + j) → i = j := by
  refine ⟨by decide +kernel, by decide +kernel, fun i hi => ?_, fun i hi j hj h => ?_⟩
  · simp only [imageKey _ i (by omega), imageKey _ (i / 4096 * 4096) (by omega), isHbm, Bool.and_eq_true, decide_eq_true_eq]
    omega
  · rw [imageKey _ i (by omega), imageKey _ j (by omega)] at h
    omega

/-- A hart at a safe point stops to migrate, its operations pause, and it moves. -/
theorem test_migration_moves_the_hart :
    let go (s : State) : State := after (exec (.migration 0) s)
    nextAnd (.migration 0) (go (go (base.onHart fun h => { h with migrateTo := some 5, waiting := true, safeWait := true })))
      (fun t => (t.hartAt 5).place = .placed ∧ (t.hartAt 5).pc = 0x40002 ∧ (t.hartAt 5).id.physcore = 5 ∧ (t.hartAt 0).place = .idle) = true := by decide +kernel

theorem test_hart_stops_behind_its_safe_point :
    nextAnd (.hartStop 0) (stopS .stopping (fun h => { h with atSafept := some (3, 0), waiting := true, safeWait := true }) id)
      (fun t => t.hart.place = .stopped ∧ t.hart.pc = 0x40004) = true := by decide +kernel

/-- A multicast to the one ring copy of a replicated handle. -/
theorem witness_CopiesIssue_multicast :
    let s := withH (copyS 64) { hnd {} {} with repl := true, trays := [0], rings := [(0, { slots := [{}, {}] })] }
    let o := { cp0 with dh := 5 }
    isOk (s.capEngine (s.rc o.b) 6 { rd := true, eng := true }) = true ∧
      okAnd (s.copyShape o) (fun y => isOk (y.1.capEngine (s.rc o.a) 7 { wr := true, eng := true }) = true ∧
        okAnd (y.1.copyDest (s.ra o.a) o.dh.val true) (fun d => isOk (y.1.copyRules o true d y.2.1 y.2.2.1) = true ∧
          okAnd (y.1.copyMeta o 0 y.2.1 y.2.2.1) (fun k => y.1.copyBoxes o d y.2.1 k = true ∧ isOk (y.1.copySides o d y.2.1 k) = true) = true) = true) = true := by
  decide +kernel

theorem test_mcast_queues :
    let s := withH (copyS 64) { hnd {} {} with repl := true, trays := [0], rings := [(0, { slots := [{}, {}] })] }
    (after (exec (.cpMcast { cp0 with dh := 5 }) s)).hart.cpq.map (fun c => (c.mc, c.receivers)) = [(true, [(0, 0)])] := by decide +kernel

/-! ### Errors, the host, fetch, the whole machine -/

/-- A hart about to run the first instruction of a line; another line of the page; a pending cause; a bank, a reset image. -/
theorem witness_ErrorsAndResets :
    let s := State.reset.withFetchWord 16 0x0012
    let t := s.onHart fun h => { h with ext := true, kb := { h.kb with ie := true }, lvl := .u }
    s.hart.place = .placed ∧ okAnd (s.fetchPc s.hart.pc s.hart.fetchReg) (fun y => y.2 ≠ 0) = true ∧
      okAnd (({ s with m := { s.m with mem := s.m.mem.map fun c => (c.1 + 64, c.2) } } : State).fetchLine 0x40040 0) (fun y => y.2 ≠ 0) = true ∧
      someAnd (t.hart.pick t.time) (fun a => a.cause = 0x52) = true ∧ t.hart.pair.on = false ∧ t.hart.slot = none ∧ t.hart.sync.given = none ∧ t.hart.wfi = false ∧
      t.hart.entering = none ∧ t.hart.checking = none := by
  decide +kernel

theorem test_external_interrupt_is_taken :
    let s := (State.reset.withFetchWord 16 0x0012).onHart fun h => { h with ext := true, kb := { h.kb with ie := true, base := 0x2000 } }
    nextAnd .trapEntry s (fun t => t.hart.lvl = .k ∧ t.hart.kb.code = 0x52 ∧ t.hart.kb.asy = true ∧ t.hart.pc = 0x80002 ∧ t.hart.kb.epc = 0x40002) = true := by
  decide +kernel

theorem test_uncorrectable_error_poisons_its_word :
    nextAnd (.errorDetected 0x500 { uncorrectable := true, site := 0, sub := 0, addr := 0x48, syn := 0 }) base
      (fun t => t.m.poisonW = [9] ∧ someAnd (tget {} t.m.banks 0x500).latest (fun r => r.sev = 1) = true) = true := by decide +kernel

/-- A frame of context 15 over a port that is up: a new one, one answered before, one after a later one. -/
def frameS (l : List (Nat × Msg)) : State :=
  { launchS {} [] with m := { (launchS {} []).m with
      ctxs := (launchS {} []).m.ctxs ++ [(15, { answered := l })], host := { State.reset.m.host with ports := [(0, true)] } } }
def frame0 : Frame := { ctx := 15, seq := 7 }
def seenS (ports : List Nat) : State := let s := frameS []; { s with m := { s.m with ctxs := s.m.ctxs.map fun e => (e.1, { e.2 with seen := [(7, ports)] }) } }
def msg0 : Msg := { typ := 7, ctx := 15, seq := 7, event := false, status := 0, body := [1], stamp := 0 }

/-- A code object without functions of its own, of one line. -/
def code0 : CodeImage :=
  { bytes := splitBytes 64 (0x51454443 + 0x10000 * 2 ^ 32 + 0x40 * 2 ^ 64 + 0x40 * 2 ^ 96) ++ splitBytes 64 (lineOf 0 0), fns := [] }

theorem witness_HostCommands :
    let s := frameS []
    let heap : State := { s with m := { s.m with ctxs := (14, { heapPa := 0x10000, heapLines := 2 }) :: s.m.ctxs } }
    let bound : State := { s with m := { s.m with host := { s.m.host with binds := [(0, 0)] } } }
    let copy : HostCopy := { frame := frame0, dev := 0x1000, off := 0, len := 2, toDevice := true }
    s.frameOk frame0 = true ∧ s.m.host.copies = [] ∧ (s.frameSeen frame0).2 = true ∧ ((seenS [1]).frameSeen frame0).2 = false ∧ ((seenS [0]).frameSeen frame0).2 = true ∧
      s.m.host.recovery = false ∧ (s.ctx 15).answered = [] ∧
      (((frameS [(7, msg0)]).ctx 15).answered.find? (·.1 == 7) = some (7, msg0)) ∧
      (((frameS [(6, msg0)]).ctx 15).answered.find? (·.1 == 7) = none ∧ ∀ e ∈ ((frameS [(6, msg0)]).ctx 15).answered, seqAfter e.1 (frameNum frame0) = false) ∧
      (((frameS [(8, msg0)]).ctx 15).answered.find? (·.1 == 7) = none ∧ ∃ e ∈ ((frameS [(8, msg0)]).ctx 15).answered, seqAfter e.1 (frameNum frame0) = true) ∧
      (heap.codeOfOther 15 0x10040 64 = true ∧ heap.codeOfOther 15 0x10080 64 = false) ∧ code0.bytes.length < 8192 ∧ (List.replicate 8192 (0 : Byte)).length = 8192 ∧
      s.checkLaunch (LRec.of lrec0) none = none ∧ (s.checkLaunch (LRec.of 0) none).isSome = true ∧ s.m.gangs = [] ∧ s.m.dist.everPlaced = false ∧
      loadRefusal code0 = none ∧ (loadRefusal { bytes := [], fns := [] }).isSome = true ∧ (s.query 0 0).isSome = true ∧
      (let s0 := (bound.frameSeen frame0).1
       (s0.copyTurn (2 / 32 + 4) copy).2.2 = some 0 ∧ someAnd (copy.keys s0.m false 2) (fun from0 => someAnd (copy.keys s0.m true 2) (fun to0 =>
         (to0.Nodup ∧ ∀ k ∈ to0, isHbm k = true) ∧ Memory.wf bound.m.mem = true ∧ bound.m.gangs = [] ∧ bound.splits = [] ∧ bound.m.flips = [] ∧ s0.marks from0 = .pass ∧
           (let read := s0.channelRead .other bound.m.now from0 false true
            let r := read.1.l2Sectors from0 false false true
            read.2 = true ∧ (∀ k ∈ from0, r.poisonedFor false k = false ∧ read.1.poisonedFor false k = false) ∧ r.lockHit to0 = none ∧ r.writeWaits to0 false true = false)) = true) =
         true) := by decide +kernel

/-- Ports in each state; an unpublished function whose lines lie in the heap. -/
theorem witness_PortsAndLoader :
    let l (x : Link) : State := { base with m := { base.m with host := { base.m.host with links := [(15, x)] } } }
    (∀ x ∈ [({} : Link), { retry := true }, { st := .train }, { st := .negotiate }, { st := .active }], tget {} (l x).m.host.links 15 = x) ∧
      (let o : CodeObj := { handle := 1, img := code0, textVa := 0x40000, textPa := 0, lines := 1, fns := [(0, 1, .unpublished)], maps := [], waits := [] }
       let s : State := { base with m := { base.m with ctxs := [(15, { objs := [o], heapLines := 1 })] } }
       someAnd ((s.ctx 15).objs.find? (·.handle == 1)) (fun o => someAnd o.fns[0]? (fun e => e.2.2 = .unpublished ∧
         (s.ctx 15).hasRoom o e = true ∧ (∀ k < e.2.1, ∀ j < 64, isHbm (paKey s.m (o.textPa + 64 * (e.1 + k)) + j) = true) ∧
         (∀ k < e.2.1, s.writeWaits (keysFrom (paKey s.m (o.textPa + 64 * (e.1 + k))) 64) false false = false)) = true) = true) := by decide +kernel

theorem test_launch_from_the_host :
    nextAnd (.ccpLaunch frame0 lrec0) (frameS []) (fun t => t.m.host.out.map (fun m => (m.typ, m.seq, m.status)) = [(1, 7, 0)] ∧
      (tget [] t.m.dist.queues 16).length = 1) = true := by decide +kernel
theorem test_a_frame_is_performed_once :
    nextAnd (.ccpLaunch frame0 lrec0) (frameS [(7, msg0)]) (fun t => t.m.host.out.map (·.body) = [[1]] ∧ tget [] t.m.dist.queues 16 = []) = true := by decide +kernel
theorem test_link_trains :
    let run (s : State) (i : Instr) : State := after (exec i s)
    ((tget {} ([Instr.linkSignalDetect 3 8, .linkTrainDone 3 8, .linkNegotiate 3 true].foldl run base).m.host.links 3).st) = .active := by decide +kernel

/-- A result of latency 4 one cycle old in c2, and in v1, with CHK and without. -/
def pendS (vec chk : Bool) : State :=
  base.onHart fun h => { h with
    pend := [{ vec := vec, reg := if vec then 1 else 2, lat := 4, dist := 1, major := 0x06, prevC := num 5, prevV := 9 }], ctl := { h.ctl with chk := chk } }

theorem witness_EarlyReads :
    let o : VOp := { op0 with va := 1, vd := 3 }
    (∀ chk ∈ [true, false], ((pendS false chk).hart.pend.filter fun x => !x.vec && x.reg == 2).map (fun p => decide (p.dist < p.lat)) = [true] ∧
      ((pendS true chk).hart.pend.filter fun x => x.vec && x.reg == o.va.val).map (fun p => decide (p.dist < p.lat)) = [true] ∧
      (pendS true chk).hart.streams = [] ∧ (pendS true chk).hart.poison = [] ∧ (pendS false chk).hart.ctl.chk = chk) ∧ wholeFmt o.fmt.val := by
  refine ⟨by decide +kernel, .inr (.inl (by decide))⟩

/-- R199: with CHK the early read traps with STALL_SHORT, and without it gives the older value. -/
theorem test_early_read :
    nextAnd (.mov 0 3 2) (pendS false true) (fun t => t.hart.kb.code = 3 ∧ t.hart.kb.eval = 2 ∧ t.hart.kb.einfo = 0x603) = true ∧
      nextAnd (.mov 0 3 2) (pendS false false) (fun t => t.ra 3 = 5) = true := by decide +kernel

/-- The form of memory at reset and with an instruction placed. -/
theorem witness_StepsKeepMemoryCanonical : State.MemWf State.reset ∧ State.MemWf (State.reset.withFetchWord 32 0x00060D27) := by
  exact ⟨rfl, by unfold State.MemWf; decide +kernel⟩

/-- A hart about to run its first instruction, an undefined one, and a line fetched through a page table. -/
theorem witness_StepRuns :
    let ok (s : State) : Prop := s.m.stopped = false ∧ s.agenda = [] ∧ s.hart.place = .placed ∧ s.hart.moving = false ∧ s.hart.waiting = false ∧ s.hart.pair.flushing = false ∧
      s.exchangeDue = false ∧ s.boundary.isNone = true ∧ isOk ({ s with idleTurns := 0 }.fetchPc s.hart.pc s.hart.fetchReg) = true
    let s := State.reset.withFetchWord 32 0x00060D27
    ok s ∧ ok (State.reset.withFetchWord 32 0x00001F00) ∧ (decode false 0x0D27 6).isOk = true ∧ (decode false 0x1F00 0).isOk = false ∧
      canonical s.hart.pc = true ∧ inSpan s.hart.pc = false ∧
      (match s.fetchXlate s.hart.pc with
        | .error _ => false
        | .ok y => decide <|
        let k := paKey y.1.m (leafPa y.2 (a55 (s.hart.pc &&& ~~~(0x3F#64))))
        let keys := (List.range 64).map (k + ·)
        let bytes := joinBytes (keys.map y.1.peek)
        (y.1.ctx y.1.hart.ctx).pub (s.hart.pc &&& ~~~(0x3F#64)) = none ∧ tget? y.1.hart.lines k = none ∧ (∀ j ∈ keys, y.1.poisonedFor false j = false) ∧
          (y.1.channelRead (.walk y.1.cur) y.1.hart.clock keys false (bits y.2.bits 10 9 == 0)).2 = true ∧ (checkLine bytes).isNone = true ∧ pcNamesHead s.hart.pc.toNat (lineHC bytes) = true) = true := by decide +kernel

theorem test_step_runs_the_instruction : (after (step ((State.reset.withFetchWord 16 0x0012).onHart fun h => { h with c := (h.c.set 1 (num 3)).set 2 (num 4) }))).ra 1 = 7 := by
  decide +kernel

/-- Instructions with every field at its highest value. -/
theorem witness_EncodingAndDecoding :
    ∀ i ∈ [Instr.addCompact 3 15 15, .cadd32 3 15 15 0xFFFFFFFF#32, .knStatRule 3 15 15, .vfma { op0 with s := 3, vc := 31, vb := 31, va := 31, vd := 31, me := true, ag := true, msk := 7 }],
      i.wf = true ∧ (encode i).isSome = true := by decide +kernel

end Sys2Proof.Tests
end

/-! SUPPORT. The capability and region checks of an access through the own Hearth's aperture (01 R11, R18, R29). -/

namespace Sys2Proof.Machine

/-! ## Steps of the check that pass (01 R29) -/

/-- Steps 1 to 3 pass for a tagged, unsealed and well-formed capability. -/
theorem State.capUse_ok (s : State) {c : Cap} (creg : Nat) (a : Word) (kind n : Nat) {b : Nat × Nat}
    (htag : c.tag = true) (hseal : c.seal = false) (hb : c.bounds? = some b) : s.capUse c creg a kind n = .ok () := by
  simp [State.capUse, Cap.malformed, htag, hseal, hb]

/-- A capability with R and W as a plain access needs them lacks nothing. -/
theorem Cap.lacks_readWrite {c : Cap} {rd wr : Bool} (hr : rd = true → c.has 0 = true) (hw : wr = true → c.has 1 = true) :
    c.lacks { rd := rd, wr := wr } = none := by
  unfold Cap.lacks
  cases rd <;> cases wr <;> simp_all

/-- Steps 4 to 7 pass for bytes within the bounds of a capability that lacks nothing. -/
theorem State.capRange_ok (s : State) {c : Cap} (creg : Nat) {a : Word} (kind : Nat) {n lo hi : Nat} {need : Need}
    (hcan : canonical a = true) (hneed : c.lacks need = none) (hb : c.bounds? = some (lo, hi)) (hlo : lo ≤ a55 a) (hhi : a55 a + n ≤ hi) :
    s.capRange c creg a kind n need = .ok () := by
  simp [State.capRange, hcan, hneed, hb, Nat.not_lt.mpr hlo, Nat.not_lt.mpr hhi]

/-- Bytes that end within the page of the first are resolved in one run. -/
theorem State.resolve_onePage (s : State) (d : Deref) (fuel : Nat) {a : Word} {n : Nat} (hpage : a.toNat % 0x10000 + n ≤ 0x10000) :
    s.resolve d (fuel + 1) a n = s.resolveRun d a n := by
  have hmin : min n (0x10000 - a.toNat % 0x10000) = n := by omega
  simp only [State.resolve, hmin, Nat.le_refl, if_true]
  cases s.resolveRun d a n <;> rfl

/-- An access passes the check where its bytes lie within the bounds of a well-formed capability that grants it, aligned and in one
page, and the run of its bytes resolves. -/
theorem State.checkCap_ok (s : State) {c : Cap} (creg : Nat) {a : Word} (kind : Nat) {n lo hi : Nat} {need : Need} {r : State × Span}
    (htag : c.tag = true) (hseal : c.seal = false) (hb : c.bounds? = some (lo, hi)) (hneed : c.lacks need = none)
    (hcan : canonical a = true) (hlo : lo ≤ a55 a) (hhi : a55 a + n ≤ hi) (hal : a.toNat % n = 0) (hpage : a.toNat % 0x10000 + n ≤ 0x10000)
    (hrun : s.resolveRun { creg := creg, kind := kind, need := need, size := n, eva := a } a n = .ok r) :
    s.checkCap c creg a kind n need true = .ok r := by
  simp [State.checkCap, s.capUse_ok creg a kind n htag hseal hb, s.capRange_ok creg kind hcan hneed hb hlo hhi, hal,
    s.resolve_onePage _ _ hpage, hrun]

/-! ## The own aperture (01 R11, R18) -/

/-- The address of byte o of the own Hearth's aperture. -/
def apertureAddr (o : Nat) : Word := w64 (0xFE00000000 + o)

theorem apertureAddr_toNat {o : Nat} (ho : o < 2 ^ 26) : (apertureAddr o).toNat = 0xFE00000000 + o := by
  simp only [apertureAddr, w64, BitVec.toNat_ofNat]
  omega

theorem a55_apertureAddr {o : Nat} (ho : o < 2 ^ 26) : a55 (apertureAddr o) = 0xFE00000000 + o := by
  rw [a55, apertureAddr_toNat ho]
  omega

theorem canonical_apertureAddr {o : Nat} (ho : o < 2 ^ 26) : canonical (apertureAddr o) = true := by
  have hlt := apertureAddr_toNat ho
  have hmsb : (apertureAddr o).msb = false := by rw [BitVec.msb_eq_false_iff_two_mul_lt]; omega
  have hzero : (apertureAddr o).sshiftRight 54 = 0 := by
    rw [BitVec.sshiftRight_eq_of_msb_false hmsb]
    apply BitVec.eq_of_toNat_eq
    rw [BitVec.toNat_ushiftRight, Nat.shiftRight_eq_div_pow, hlt]
    exact Nat.div_eq_of_lt (by omega)
  simp [canonical, hzero]

theorem inSpan_apertureAddr {o : Nat} (ho : o < 2 ^ 26) : inSpan (apertureAddr o) = true := by
  simp only [inSpan, apertureAddr_toNat ho, Bool.and_eq_true, decide_eq_true_eq]
  omega

/-- The own aperture leads to the L1 of the core's own die, whatever NEARCTL holds. -/
theorem window_aperture (core : Nat) (near : BitVec 4) {o : Nat} (ho : o < 2 ^ 26) :
    window core near (0xFE00000000 + o) = .ok (.l1 (dieOf core) o) := by
  have hnear : ¬ 0xFE00000000 + o < 0xFD00010000 := by omega
  have hown : 0xFE00000000 ≤ 0xFE00000000 + o ∧ 0xFE00000000 + o < 0xFE04000000 := by omega
  simp [window, hnear, hown]

/-- A granule passes the region check for a plain access where one entry that matches it grants the access. -/
theorem regionReason_none {c : Ctx} {h g : Nat} {rd wr : Bool} {e : Nat × BitVec 64} (he : e ∈ c.regions)
    (hm : regionMatch e.2 h g = true) (hr : rd = true → e.2.getLsbD 1 = true) (hw : wr = true → e.2.getLsbD 2 = true) :
    regionReason c h g { rd := rd, wr := wr, eng := false } = none := by
  have hmem : e.2 ∈ (c.regions.map (·.2)).filter (regionMatch · h g) := List.mem_filter.mpr ⟨List.mem_map_of_mem he, hm⟩
  have hg : grants e.2 { rd := rd, wr := wr, eng := false } = true := by
    cases rd <;> cases wr <;> simp_all [grants]
  have hany : ((c.regions.map (·.2)).filter (regionMatch · h g)).any (grants · { rd := rd, wr := wr, eng := false }) = true :=
    List.any_eq_true.mpr ⟨e.2, hmem, hg⟩
  simp only [regionReason, List.isEmpty_eq_false_iff.mpr (List.ne_nil_of_mem hmem), hany]
  simp

/-- The L1 bytes [o, o + n) of the own Hearth in order, as an access of memory type 0 finds them. -/
def State.apertureSpan (s : State) (o n : Nat) : Span :=
  let keys := (List.range n).map fun i => l1Key s.die (o + i)
  { keys := keys, shd := regionShared (s.ctx s.hart.ctx) s.die (o / 0x10000), pages := keys.map pageOfL1 }

/-- A run of bytes through the own aperture whose granule passes the region check resolves to the L1 bytes and leaves the state as it
is. -/
theorem State.resolveRun_aperture (s : State) (d : Deref) {o : Nat} (n : Nat) (ho : o < 2 ^ 26)
    (hreg : regionReason (s.ctx s.hart.ctx) s.die (o / 0x10000) { rd := d.need.rd, wr := d.need.wr, eng := false } = none) :
    s.resolveRun d (apertureAddr o) n = .ok (s, s.apertureSpan o n) := by
  have hw := window_aperture s.cur s.hart.ctl.nearctl ho
  simp only [State.die] at hreg
  simp only [State.resolveRun, inSpan_apertureAddr ho, apertureAddr_toNat ho, hw, hreg, if_true, ite_self]
  rfl

/-- An access of 1 to 16 bytes, aligned to its size, ends in the granule in which it begins. -/
theorem aligned_within_granule {n o : Nat} (hn : n ∈ [1, 2, 4, 8, 16]) (ho : o % n = 0) : o % 0x10000 + n ≤ 0x10000 ∧ (0xFE00000000 + o) % n = 0 := by
  simp only [List.mem_cons, List.not_mem_nil, or_false] at hn
  rcases hn with rfl | rfl | rfl | rfl | rfl <;> omega

/-- Settles O8: every step of the check passes in turn, and the window leads to the own L1. -/
theorem aperturePassesTheCheck : Obligations.AperturePassesTheCheck := by
  unfold Obligations.AperturePassesTheCheck
  intro s c creg n o lo hi kind rd wr e hn hal hend htag hseal hb hr hw hlo hhi he hm hrd hwr
  obtain ⟨hpage, hal'⟩ := aligned_within_granule hn hal
  have ho : o < 2 ^ 26 := by
    have : n ≠ 0 := by rintro rfl; simp at hn
    omega
  have hrun := s.resolveRun_aperture { creg := creg, kind := kind, need := { rd := rd, wr := wr }, size := n, eva := apertureAddr o }
    n ho (regionReason_none he hm hrd hwr)
  have hfrom : lo ≤ a55 (apertureAddr o) := by rwa [a55_apertureAddr ho]
  have hto : a55 (apertureAddr o) + n ≤ hi := by rwa [a55_apertureAddr ho]
  have haligned : (apertureAddr o).toNat % n = 0 := by rwa [apertureAddr_toNat ho]
  have honePage : (apertureAddr o).toNat % 0x10000 + n ≤ 0x10000 := by rw [apertureAddr_toNat ho]; omega
  exact ⟨s.apertureSpan o n, s.checkCap_ok creg kind htag hseal hb (Cap.lacks_readWrite hr hw) (canonical_apertureAddr ho)
    hfrom hto haligned honePage hrun, rfl, rfl⟩

end Sys2Proof.Machine

/-! SUPPORT. What the state after reset reads as: no table lists anything, so every unit has the values of its default. -/

namespace Sys2Proof.Machine

@[simp] theorem tget_nil {α : Type} (d : α) (k : Nat) : tget d [] k = d := rfl

@[simp] theorem State.reset_hartAt (core : Nat) : State.reset.hartAt core = {} := ite_self _

@[simp] theorem State.reset_tray (n : Nat) : State.reset.tray n = {} := rfl

@[simp] theorem State.reset_ctx (n : Nat) : State.reset.ctx n = {} := rfl

@[simp] theorem State.reset_taskQ (ctx hearth : Nat) : State.reset.taskQ ctx hearth = {} := rfl

/-- A rule that no write has stored is of class 3 (13 R312). -/
theorem Tray.rule_of_noRules (t : Tray) (i : Nat) (h : t.rules = []) : t.rule i = 3 := by
  simp [Tray.rule, h, tget?]

/-- Settles O55: each unit reads as its default, whose fields are those of the reset columns. -/
theorem resetHasTheStatedValues : Obligations.ResetHasTheStatedValues := by
  unfold Obligations.ResetHasTheStatedValues
  intro s
  refine ⟨fun core _ => ?harts, fun tray _ => ?trays, fun ctx _ => ?contexts, fun ch _ => ?channels⟩
  case harts => simp [s]
  case trays => exact ⟨rfl, rfl, rfl, fun i _ => by rw [Tray.rule_of_noRules _ i rfl]⟩
  case contexts => simp [s]
  case channels => exact ⟨rfl, rfl, rfl, rfl⟩

end Sys2Proof.Machine

/-! SUPPORT. What the updates of one unit leave in that unit and in the others. -/

namespace Sys2Proof.Machine

/-! ## Harts by number -/

@[simp] theorem State.setHartAt_m (s : State) (n : Nat) (h : Hart) : (s.setHartAt n h).m = s.m := by
  unfold State.setHartAt; split <;> rfl

@[simp] theorem State.setHartAt_cur (s : State) (n : Nat) (h : Hart) : (s.setHartAt n h).cur = s.cur := by
  unfold State.setHartAt; split <;> rfl

theorem State.hartAt_setHartAt (s : State) (n j : Nat) (h : Hart) : (s.setHartAt n h).hartAt j = if n = j then h else s.hartAt j := by
  unfold State.setHartAt State.hartAt
  by_cases hn : n = s.cur
  · subst hn
    rcases Decidable.em (j = s.cur) with rfl | hj
    · simp only [if_true]
    · simp only [if_true, if_neg hj, if_neg (Ne.symm hj)]
  · rcases Decidable.em (j = s.cur) with rfl | hj
    · simp only [if_neg hn, if_true]
    · simp only [if_neg hn, if_neg hj, tget_tset]

@[simp] theorem State.modHart_m (s : State) (n : Nat) (f : Hart → Hart) : (s.modHart n f).m = s.m := State.setHartAt_m ..

theorem State.hartAt_modHart (s : State) (n j : Nat) (f : Hart → Hart) :
    (s.modHart n f).hartAt j = if n = j then f (s.hartAt n) else s.hartAt j := State.hartAt_setHartAt ..

@[simp] theorem State.onMod_hartAt (s : State) (f : Mod → Mod) (n : Nat) : (s.onMod f).hartAt n = s.hartAt n := rfl

/-! ## Contexts, Trays and their parts -/

theorem State.ctx_modCtx (s : State) (n j : Nat) (f : Ctx → Ctx) : (s.modCtx n f).ctx j = if n = j then f (s.ctx n) else s.ctx j :=
  tget_tmod ..

theorem State.tray_modTray (s : State) (n j : Nat) (f : Tray → Tray) : (s.modTray n f).tray j = if n = j then f (s.tray n) else s.tray j :=
  tget_tmod ..

theorem State.taskQ_modTaskQ_same (s : State) (ctx hearth : Nat) (f : TaskQ → TaskQ) :
    (s.modTaskQ ctx hearth f).taskQ ctx hearth = f (s.taskQ ctx hearth) := by
  simp [State.taskQ, State.modTaskQ, State.ctx_modCtx, tget_tmod]

/-! ## Gangs -/

theorem State.gang?_eq (s : State) (n : Nat) : s.gang? n = tget? s.m.gangs n := rfl

theorem State.gang?_modGang_same (s : State) (n : Nat) (f : Gang → Gang) : (s.modGang n f).gang? n = (s.gang? n).map f := by
  unfold State.modGang
  cases h : tget? s.m.gangs n with
  | none => simp [State.gang?, h]
  | some g => simp [State.gang?, h, tget?_tset]

@[simp] theorem State.modCtx_gangs (s : State) (ctx : Nat) (f : Ctx → Ctx) : (s.modCtx ctx f).m.gangs = s.m.gangs := rfl

@[simp] theorem State.restoreArrives_gangs (s : State) (key prio gang : Nat) : (s.restoreArrives key prio gang).m.gangs = s.m.gangs := rfl

@[simp] theorem State.disturb_gangs (s : State) (keys : List Nat) : (s.disturb keys).m.gangs = s.m.gangs := by
  unfold State.disturb; split <;> rfl

@[simp] theorem Mod.unpoison_gangs (m : Mod) (keys : List Nat) : (m.unpoison keys).gangs = m.gangs := by
  unfold Mod.unpoison; split <;> rfl

@[simp] theorem Mod.undo_gangs (m : Mod) (u : Undo) : (m.undo u).gangs = m.gangs := by
  unfold Mod.undo
  dsimp only
  split
  · simp
  · split
    · rfl
    · split <;> rfl

@[simp] theorem Mod.undoAll_gangs (m : Mod) (l : List Undo) : (m.undoAll l).gangs = m.gangs :=
  List.foldlRecOn (motive := fun x : Mod => x.gangs = m.gangs) l.reverse Mod.undo rfl fun x hx u _ => by rw [Mod.undo_gangs, hx]

@[simp] theorem State.undoAll_gangs (s : State) (l : List Undo) : (s.undoAll l).m.gangs = s.m.gangs := by
  unfold State.undoAll
  rw [State.onMod_m, Mod.undoAll_gangs]
  refine List.foldlRecOn (motive := fun t : State => t.m.gangs = s.m.gangs) l _ rfl fun t ht u _ => ?_
  split
  · rw [State.disturb_gangs, ht]
  · exact ht

/-- Clearing a gang's logged bits keeps the gang in flight. -/
theorem State.gang?_unmark_isSome (s : State) (n : Nat) : ((s.unmark n).gang? n).isSome = (s.gang? n).isSome := by
  unfold State.unmark
  split
  · rfl
  · next r _ =>
    rw [State.gang?_modGang_same, Option.isSome_map]
    have hm : (r.marks.foldl (fun s e => s.modHearth e.1 fun h => { h with logged := sdel h.logged e.2 }) s).m.gangs = s.m.gangs :=
      List.foldlRecOn (motive := fun t : State => t.m.gangs = s.m.gangs) r.marks _ rfl fun t ht e _ => ht
    rw [State.gang?_eq, hm, State.gang?_eq]

/-- So does a new superstep. -/
theorem State.gang?_newSuperstep_isSome (s : State) (n : Nat) : ((s.newSuperstep n).gang? n).isSome = (s.gang? n).isSome := by
  rw [State.newSuperstep, State.gang?_modGang_same, Option.isSome_map, State.gang?_unmark_isSome]

@[simp] theorem State.unloadDue_gangs (s : State) (ctx : Nat) : (s.unloadDue ctx).m.gangs = s.m.gangs := by
  unfold State.unloadDue
  dsimp only
  split <;> rfl

@[simp] theorem State.hostEvent_gangs (s : State) (ctx : Nat) (body : List Nat) : (s.hostEvent ctx body).m.gangs = s.m.gangs := rfl

@[simp] theorem State.modGarnet_gangs (s : State) (f : GLog → GLog) : (s.modGarnet f).m.gangs = s.m.gangs := rfl

@[simp] theorem State.logErr_gangs (s : State) (unit sev site sub addr syn cause : Nat) (inj : Bool) :
    (s.logErr unit sev site sub addr syn cause inj).m.gangs = s.m.gangs := by
  unfold State.logErr
  dsimp only
  refine List.foldlRecOn (motive := fun t : State => t.m.gangs = s.m.gangs) _ _ ?_ fun t ht off _ => ?_
  · simp [apply_ite (fun t : State => t.m.gangs)]
  · simp [apply_ite (fun t : State => t.m.gangs), ht]

@[simp] theorem State.report_gangs (s : State) (ctx gang core : Nat) (a : Async) : (s.report ctx gang core a).m.gangs = s.m.gangs := by
  unfold State.report
  split
  · rw [State.modHart_m]
  · simp [apply_ite (fun t : State => t.m.gangs)]

/-! ## Events -/

/-- An event of a unit that exists happens where it is enabled. -/
theorem acts_of_eventOf {s t : State} {i : Instr} {ok : Bool} {o : Option State} {P : State → Prop} (hexec : exec i s = eventOf ok o s)
    (hok : ok = true) (ho : o = some t) (hP : P t) : Acts s i P :=
  ⟨t, by rw [hexec, hok, ho]; rfl, hP⟩

end Sys2Proof.Machine

/-! SUPPORT. Shootdowns and writes of unit registers (01 R19, R32, R38, R39; 08 R184; 14 R340; 16 R372, R384, R387, R392; 18 R422). -/

namespace Sys2Proof.Machine

/-! ## Shootdowns (01 R38, R39) -/

/-- The TLBs hold no entry that the invalidation names. -/
theorem State.shootBegin_tlb (s : State) (v : Inval) : ∀ e ∈ (s.shootBegin v).m.tlb, ∀ x ∈ e.2, v.hits x.2 = false := by
  intro e he x hx
  obtain ⟨e', _, rfl⟩ := List.mem_map.mp he
  simpa using (List.mem_filter.mp hx).2

/-- Every unit is to acknowledge. -/
theorem State.shootBegin_units (s : State) (v : Inval) :
    ∃ x, (s.shootBegin v).m.shoot = some x ∧ ∀ u, u < 5888 → u ∈ x.units := by
  refine ⟨{ stamp := s.m.mxStamp, what := v, units := List.range ackUnits }, rfl, fun u hu => ?_⟩
  rw [List.mem_range, ackUnits]
  exact hu

/-- A write that begins a shootdown of `v`, after a change `s1` of the state that leaves memory and the hart as they were. -/
theorem acts_shootBegin {s s1 : State} {i : Instr} {ok : Bool} {v : Inval} {gone : TlbE → Prop} {P : State → Prop}
    (hexec : exec i s = eventOf ok (s1.tlbinv v) s) (hok : ok = true) (hidle : s1.m.shoot = none) (hmem : SameMem s s1)
    (hhart : s1.hart = s.hart) (hgone : ∀ x, gone x → v.hits x = true) (hP : P (s1.shootBegin v)) :
    Acts s i fun t => SameMem s t ∧ t.hart = s.hart ∧ (∀ e ∈ t.m.tlb, ∀ x ∈ e.2, ¬ gone x.2) ∧
      (∃ x, t.m.shoot = some x ∧ ∀ u, u < 5888 → u ∈ x.units) ∧ P t := by
  refine acts_of_eventOf (t := s1.shootBegin v) hexec hok (by simp [State.tlbinv, hidle]) ⟨hmem, hhart, ?_, s1.shootBegin_units v, hP⟩
  intro e he x hx hx'
  have hit := hgone x.2 hx'
  rw [s1.shootBegin_tlb v e he x hx] at hit
  exact Bool.false_ne_true hit

/-- A write of TLBINV that names pages removes the translations of these pages, and the blocks that hold some of them. -/
theorem Inval.hits_pages (c p n : Nat) (x : TlbE) :
    (Inval.pages c p n).hits x = true ↔ x.ctx = c ∧ (if x.block then p / 8192 ≤ x.vpn ∧ x.vpn ≤ (p + n) / 8192 else p ≤ x.vpn ∧ x.vpn ≤ p + n) := by
  unfold Inval.hits
  cases x.block <;> simp

theorem Inval.hits_context (c : Nat) (x : TlbE) : (Inval.context c).hits x = true ↔ x.ctx = c := by
  simp [Inval.hits]

theorem bits_lt (x hi lo : Nat) : bits x hi lo < 2 ^ (hi + 1 - lo) := Nat.mod_lt _ (Nat.two_pow_pos _)

/-- A write of PTROOT stores EN and the address of the table (01 R32). -/
theorem State.setRoot_ctx (s : State) (ctx : Nat) (v : Word) :
    ((s.setRoot ctx v).ctx ctx).ptEn = v.getLsbD 0 ∧ ((s.setRoot ctx v).ctx ctx).ptTable.toNat = bits v.toNat 47 16 := by
  have hb : bits v.toNat 47 16 < 2 ^ 32 := bits_lt ..
  simpa [State.setRoot, State.ctx_modCtx] using hb

/-- The state as an acknowledgement of the shootdown x leaves it. -/
def State.acknowledged (s : State) (x : Shoot) (unit : Nat) : State :=
  let s := if 1536 ≤ unit ∧ (s.hartAt (unit - 1536)).utlb ≠ [] then s.modHart (unit - 1536) (·.invalidate x.what) else s
  let left := x.units.filter (· != unit)
  s.onMod fun m => { m with shoot := if left.isEmpty then none else some { x with units := left } }

/-- A unit that is to acknowledge, and whose accesses are performed, does. -/
theorem State.shootAck_eq (s : State) {x : Shoot} {unit : Nat} (hx : s.m.shoot = some x) (hu : unit ∈ x.units) (hd : s.unitDone unit = true) :
    s.shootAck unit = some (s.acknowledged x unit) := by
  simp [State.shootAck, State.acknowledged, hx, hu, hd]

/-- What performs a unit's accesses (01 R39). -/
theorem State.unitDone_of (s : State) {unit : Nat}
    (hengine : unit < 768 → ∀ o ∈ s.m.ops, o.1 / 32 = unit → o.2.restMeta = [] ∧ ∀ d ∈ o.2.dels, d.rest = [])
    (hmiller : 1280 ≤ unit → unit < 1536 → let h := s.hartAt (4096 + (unit - 1280)); h.sb = [] ∧ h.posted = [] ∧ h.entering = none) :
    s.unitDone unit = true := by
  unfold State.unitDone
  split
  · next hlt =>
    rw [List.all_eq_true]
    intro o ho
    by_cases hou : o.1 / 32 = unit
    · obtain ⟨hmeta, hdels⟩ := hengine hlt o ho hou
      simpa [hou, hmeta] using hdels
    · simp [hou]
  · split
    · next hm =>
      obtain ⟨hsb, hposted, hentering⟩ := hmiller hm.1 hm.2
      simp [Hart.performed, hsb, hposted, hentering]
    · rfl

@[simp] theorem State.acknowledged_mem (s : State) (x : Shoot) (unit : Nat) : (s.acknowledged x unit).m.mem = s.m.mem := by
  unfold State.acknowledged
  dsimp only [State.onMod_m]
  split
  · rw [State.modHart_m]
  · rfl

/-- The shootdown ends with the last acknowledgement, and waits for the other units else. -/
theorem State.acknowledged_shoot (s : State) (x : Shoot) (unit : Nat) :
    ((∀ u ∈ x.units, u = unit) → (s.acknowledged x unit).m.shoot = none) ∧
      ((∃ u ∈ x.units, u ≠ unit) →
        ∃ y, (s.acknowledged x unit).m.shoot = some y ∧ y.what = x.what ∧ ∀ u, u ∈ y.units ↔ u ∈ x.units ∧ u ≠ unit) := by
  constructor
  · intro hall
    have hleft : (x.units.filter (· != unit)).isEmpty = true := by simpa using hall
    simp only [State.acknowledged, State.onMod_m, hleft, if_true]
  · rintro ⟨u, hu, hne⟩
    have hleft : (x.units.filter (· != unit)).isEmpty = false := by simpa using ⟨u, hu, hne⟩
    refine ⟨{ x with units := x.units.filter (· != unit) }, ?_, rfl, fun u => by simp⟩
    simp only [State.acknowledged, State.onMod_m, hleft, Bool.false_eq_true, if_false]

theorem Hart.invalidate_utlb (h : Hart) (v : Inval) : ∀ e ∈ (h.invalidate v).utlb, v.hits e = false := by
  intro e he
  simpa using (List.mem_filter.mp he).2

/-- The fetch micro-TLB that has acknowledged holds no entry that the shootdown names. -/
theorem State.acknowledged_utlb (s : State) (x : Shoot) {unit : Nat} (hu : 1536 ≤ unit) :
    ∀ e ∈ ((s.acknowledged x unit).hartAt (unit - 1536)).utlb, x.what.hits e = false := by
  unfold State.acknowledged
  dsimp only [State.onMod_hartAt]
  split
  · rw [State.hartAt_modHart, if_pos rfl]
    exact Hart.invalidate_utlb _ _
  · next h =>
    have hnil : (s.hartAt (unit - 1536)).utlb = [] := Decidable.byContradiction fun hne => h ⟨hu, hne⟩
    simp [hnil]

/-! ## Error banks and WDMAP (16 R384, R387) -/

theorem bits_low16 (x : Nat) : bits x 15 0 = x % 65536 := rfl

theorem ErrBank.ack_hit (b : ErrBank) {v : Nat} (h : bits v 15 0 = b.seq) :
    (b.ack v).first = b.first.map (fun r => { r with v := false }) ∧ (b.ack v).latest = b.latest.map (fun r => { r with v := false }) ∧
      (b.ack v).count = 0 ∧ (b.ack v).overflow = false := by
  rw [bits_low16] at h
  simp [ErrBank.ack, h]

theorem ErrBank.ack_miss (b : ErrBank) {v : Nat} (h : bits v 15 0 ≠ b.seq) : b.ack v = { b with nack := true } := by
  rw [bits_low16] at h
  simp [ErrBank.ack, h]

theorem bit_eq_toNat_testBit (x n : Nat) : bit x n = (x.testBit n).toNat := by
  rw [Nat.toNat_testBit, bit, Nat.shiftRight_eq_div_pow]

theorem bit_two_pow_sub_one {n i : Nat} (hi : i < n) : bit (2 ^ n - 1) i = 1 := by
  rw [bit_eq_toNat_testBit, Nat.testBit_two_pow_sub_one, decide_eq_true hi, Bool.toNat_true]

/-- What a write of bit t of WDMAP makes of it (16 R387): a withdrawal stands until level F or the host clears it. -/
def wdBit (full : Bool) (mask v t : Nat) (old : Bool) : Bool :=
  if bit mask t = 0 then old else if bit v t = 1 then true else old && !full

theorem wdBit_idem (full : Bool) (mask v t : Nat) (old : Bool) : wdBit full mask v t (wdBit full mask v t old) = wdBit full mask v t old := by
  unfold wdBit
  split
  · rfl
  · split
    · rfl
    · cases old <;> cases full <;> rfl

/-- A write of the whole map: the written bits, and at level K the withdrawals that stood. -/
theorem wdBit_whole (full : Bool) (w : BitVec 512) {i : Nat} (hi : i < 512) (old : Bool) :
    wdBit full (2 ^ 512 - 1) w.toNat i old = (w.getLsbD i || (old && !full)) := by
  rw [wdBit, bit_two_pow_sub_one hi, bit_eq_toNat_testBit, BitVec.testBit_toNat]
  generalize w.getLsbD i = b
  cases b <;> rfl

/-- The write of one Tray's bit. -/
def State.wdStep (full : Bool) (mask v : Nat) (s : State) (t : Nat) : State :=
  if bit mask t = 0 then s
  else if bit v t = 1 then (if (s.tray t).wd then s else s.modTray t fun x => { x with wd := true })
  else if full && (s.tray t).wd then s.modTray t fun x => { x with wd := false }
  else s

theorem State.wdStep_mem (full : Bool) (mask v : Nat) (s : State) (t : Nat) : (State.wdStep full mask v s t).m.mem = s.m.mem := by
  simp [State.wdStep, apply_ite (fun t : State => t.m.mem)]

theorem State.wdStep_wd (full : Bool) (mask v : Nat) (s : State) (t i : Nat) :
    ((State.wdStep full mask v s t).tray i).wd = if t = i then wdBit full mask v i (s.tray i).wd else (s.tray i).wd := by
  unfold State.wdStep wdBit
  rcases Decidable.em (t = i) with rfl | hti
  · cases hwd : (s.tray t).wd <;> cases full <;> simp [apply_ite (fun x : State => (x.tray t).wd), State.tray_modTray, hwd]
  · simp [hti, apply_ite (fun x : State => (x.tray i).wd), State.tray_modTray]

theorem State.wdFold_wd (full : Bool) (mask v : Nat) (l : List Nat) (s : State) (i : Nat) :
    ((l.foldl (State.wdStep full mask v) s).tray i).wd = if i ∈ l then wdBit full mask v i (s.tray i).wd else (s.tray i).wd := by
  induction l generalizing s with
  | nil => simp
  | cons t l ih =>
    rw [List.foldl_cons, ih, State.wdStep_wd]
    rcases Decidable.em (t = i) with rfl | hti
    · simp [wdBit_idem]
    · simp [hti, Ne.symm hti]

theorem State.wdFold_mem (full : Bool) (mask v : Nat) (l : List Nat) (s : State) : (l.foldl (State.wdStep full mask v) s).m.mem = s.m.mem :=
  List.foldlRecOn (motive := fun t : State => t.m.mem = s.m.mem) l _ rfl fun _ ht _ _ => (State.wdStep_mem ..).trans ht

/-- A placement that has reserved a Tray withdrawn goes back to SELECT (15 R359). -/
def State.wdReselect (s : State) (mask v : Nat) : State :=
  let hit := s.m.dist.txn.st == .reserve && !s.m.dist.txn.superseded && s.m.dist.txn.reserved.any fun t => bit mask t == 1 && bit v t == 1
  if hit then s.onMod fun m => { m with dist := { m.dist with txn := { m.dist.txn with
      st := .select, plan := [], reserved := m.dist.txn.reserved.filter fun t => bit mask t == 0 || bit v t == 0 } } } else s

@[simp] theorem State.wdReselect_tray (s : State) (mask v i : Nat) : (s.wdReselect mask v).tray i = s.tray i := by
  unfold State.wdReselect; dsimp only; split <;> rfl

@[simp] theorem State.wdReselect_mem (s : State) (mask v : Nat) : (s.wdReselect mask v).m.mem = s.m.mem := by
  unfold State.wdReselect; dsimp only; split <;> rfl

/-- A write of WDMAP writes the bits one by one, and then looks at the placement. -/
theorem State.wdWrite_eq (s : State) (full : Bool) (mask v : Nat) :
    s.wdWrite full mask v = ((List.range 512).foldl (State.wdStep full mask v) s).wdReselect mask v := by
  unfold State.wdWrite
  generalize List.range 512 = trays
  rfl

theorem State.wdWrite_wd (s : State) (full : Bool) (mask v : Nat) {i : Nat} (hi : i < 512) :
    ((s.wdWrite full mask v).tray i).wd = wdBit full mask v i (s.tray i).wd := by
  rw [State.wdWrite_eq, State.wdReselect_tray, State.wdFold_wd, if_pos (List.mem_range.mpr hi)]

theorem State.wdWrite_mem (s : State) (full : Bool) (mask v : Nat) : (s.wdWrite full mask v).m.mem = s.m.mem := by
  rw [State.wdWrite_eq, State.wdReselect_mem, State.wdFold_mem]

/-! ## ROLLCMD (16 R392) -/

/-- ROLLCMD changes nothing for a gang that is not POISONED. -/
theorem State.rollRelaunch_of_notPoisoned (s : State) {n : Nat} {g : Gang} (hg : s.gang? n = some g) (hst : g.st ≠ .poisoned) :
    s.rollRelaunch n = s := by
  simp only [State.rollRelaunch, hg, if_neg hst]
  split <;> rfl

/-- Dropping the operations of a saved image leaves the undo area and its errors as they were. -/
theorem State.undoBad_dropOwned (s : State) (g : Gang) (r : Roll) (keys : List Nat) :
    (s.onMod (·.dropOwned keys)).undoBad g r = s.undoBad g r := rfl

/-- A POISONED gang whose undo area has no error becomes one to be restored from its snapshots. -/
theorem State.rollRelaunch_restores (s : State) {n : Nat} {g : Gang} {r : Roll} (hg : s.gang? n = some g) (hr : g.roll = some r)
    (hst : g.st = .poisoned) (hbad : s.undoBad g r = none) :
    ∃ g', (s.rollRelaunch n).gang? n = some g' ∧ g'.st = .rollRestoring ∧ g'.saved = r.cur := by
  simp only [State.rollRelaunch, hg, hr, if_pos hst, State.undoBad_dropOwned, hbad]
  generalize hu : (s.onMod (·.dropOwned (g.savedOps.map (·.1)))).undoAll _ = u
  have hgu : (u.gang? n).isSome = true := by
    rw [← hu, State.gang?_eq, State.undoAll_gangs]
    exact Option.isSome_of_eq_some hg
  obtain ⟨g1, hg1⟩ := Option.isSome_iff_exists.mp ((State.gang?_newSuperstep_isSome u n).trans hgu)
  rw [State.gang?_eq, State.restoreArrives_gangs, State.modCtx_gangs, ← State.gang?_eq, State.gang?_modGang_same, hg1]
  exact ⟨_, rfl, rfl, rfl⟩

/-- A POISONED gang whose undo area has an error is gone. -/
theorem State.rollRelaunch_discards (s : State) {n : Nat} {g : Gang} {r : Roll} {pa : Nat} (hg : s.gang? n = some g) (hr : g.roll = some r)
    (hst : g.st = .poisoned) (hbad : s.undoBad g r = some pa) : (s.rollRelaunch n).gang? n = none := by
  simp only [State.rollRelaunch, hg, hr, if_pos hst, State.undoBad_dropOwned, hbad, State.relaunchFails]
  rw [State.gang?_eq, State.report_gangs, State.unloadDue_gangs, State.onMod_m, tget?_tdel, if_pos rfl]

/-! ## TIMER (14 R340) -/

/-- TIMER is pending for a hart once TIME has reached its TIMECMP. -/
theorem Hart.timer_pending (h : Hart) {time : Word} (hle : h.ctl.timecmp ≤ time) : ∃ a ∈ h.pending time, a.cause = 0x53 :=
  ⟨{ cause := 0x53, val := 0, info := 0 }, by simp [Hart.pending, hle], rfl⟩

/-- The hart with its clock caught up by k cycles of a length: BUDGET counts them but in a wait that is a safe point (08 R187). -/
def Hart.caughtUp (h : Hart) (k units : Nat) : Hart := (if h.safeWait then h else h.spend k).pass k units

theorem Hart.caughtUp_eq (h : Hart) (k units : Nat) :
    h.caughtUp k units = { h with
      sync := { h.sync with budget := (h.caughtUp k units).sync.budget }, asy := (h.caughtUp k units).asy
      perf := (h.caughtUp k units).perf, clock := h.clock + k * units, cyc := h.cyc + k
      ctl := { h.ctl with cycle := (h.caughtUp k units).ctl.cycle } } := by
  unfold Hart.caughtUp
  split
  · rw [Hart.pass_eq]; rfl
  · rw [Hart.pass_eq, Hart.spend_eq]; rfl

theorem Hart.caughtUp_clock (h : Hart) (k units : Nat) : (h.caughtUp k units).clock = h.clock + k * units := by rw [Hart.caughtUp_eq]

theorem Hart.caughtUp_cyc (h : Hart) (k units : Nat) : (h.caughtUp k units).cyc = h.cyc + k := by rw [Hart.caughtUp_eq]

theorem Hart.caughtUp_timecmp (h : Hart) (k units : Nat) : (h.caughtUp k units).ctl.timecmp = h.ctl.timecmp := by rw [Hart.caughtUp_eq]

theorem State.timer_eq (s : State) {n : Nat} (hp : (s.hartAt n).place = .placed) (ht : (s.hartAt n).ctl.timecmp ≤ s.time) :
    s.timer n = some (s.setHartAt n ((s.hartAt n).caughtUp ((s.m.now - (s.hartAt n).clock) / cycleUnits (s.coreStep n)) (cycleUnits (s.coreStep n)))) := by
  simp [State.timer, Hart.caughtUp, hp, ht]

/-- TIMER of a hart whose TIMECMP is reached. -/
theorem exec_timer_due (s : State) {core : Nat} (hcore : core < 4352) (hp : (s.hartAt core).place = .placed)
    (ht : (s.hartAt core).ctl.timecmp ≤ s.time) :
    let k := (s.m.now - (s.hartAt core).clock) / cycleUnits (s.coreStep core)
    ∃ t, exec (.timer core) s = .next t.tickEvent ∧ SameMem s t ∧ t.time = s.time ∧ (∃ a ∈ (t.hartAt core).pending t.time, a.cause = 0x53) ∧
      (t.hartAt core).clock = (s.hartAt core).clock + k * cycleUnits (s.coreStep core) ∧ (t.hartAt core).cyc = (s.hartAt core).cyc + k := by
  intro k
  have hexec : exec (.timer core) s = .next (s.setHartAt core ((s.hartAt core).caughtUp k (cycleUnits (s.coreStep core)))).tickEvent := by
    rw [exec_timer, execTimer, s.timer_eq hp ht, eventOf, hartExists, decide_eq_true hcore]
    rfl
  have htime (h : Hart) : (s.setHartAt core h).time = s.time := by
    rw [State.time, State.nowNs, State.setHartAt_m, State.time, State.nowNs]
  refine ⟨_, hexec, fun x => by rw [State.setHartAt_m], htime _, ?_⟩
  rw [State.hartAt_setHartAt, if_pos rfl, htime]
  exact ⟨Hart.timer_pending _ (by rwa [Hart.caughtUp_timecmp]), Hart.caughtUp_clock .., Hart.caughtUp_cyc ..⟩

/-! ## The obligation -/

/-- Settles O44: shootdowns by the lemmas on their beginning and their acknowledgements, each register write by what it makes of its own
unit. -/
theorem shootdownsAndUnitRegisters : Obligations.ShootdownsAndUnitRegisters := by
  unfold Obligations.ShootdownsAndUnitRegisters
  refine ⟨fun s ctx page count unit v => ⟨fun hidle => ⟨?all, fun hctx => ⟨?context, ?pages, ?root⟩⟩, fun x hx hu hlt hengine hmiller => ?ack⟩,
    fun s ctx idx hd gang unit core v line atF w => ⟨fun hctx hidx => ?l1rtval, fun hctx hhd hl1 hring => ?tqcfg, fun hctx hwanted => ?ldreq,
      ?wdmap, ?rollcmd, fun hunit => ?bankAck, fun hcore => ?external, fun hcore hp ht => exec_timer_due s hcore hp ht⟩⟩
  case all => exact acts_shootBegin (gone := fun _ => True) (P := fun _ => True) (exec_tlbinvAll s) rfl hidle (fun _ => rfl) rfl (fun _ _ => rfl) trivial
  case context =>
    exact acts_shootBegin (exec_tlbinvContext ctx s) (decide_eq_true hctx) hidle (fun _ => rfl) rfl (fun x => (Inval.hits_context ctx x).mpr) trivial
  case pages =>
    exact acts_shootBegin (exec_tlbinvPages ctx page count s) (decide_eq_true hctx) hidle (fun _ => rfl) rfl
      (fun x => (Inval.hits_pages ctx page count x).mpr) trivial
  case root =>
    exact acts_shootBegin (exec_ptrootWrite ctx v s) (decide_eq_true hctx) hidle (fun _ => rfl) rfl (fun x => (Inval.hits_context ctx x).mpr)
      (s.setRoot_ctx ctx v)
  case ack =>
    obtain ⟨hlast, hmore⟩ := s.acknowledged_shoot x unit
    exact acts_of_eventOf (exec_shootdownAck unit s) (decide_eq_true hlt) (s.shootAck_eq hx hu (s.unitDone_of hengine hmiller))
      ⟨fun _ => by rw [State.acknowledged_mem], hlast, hmore, s.acknowledged_utlb x⟩
  case l1rtval =>
    refine acts_of_eventOf (exec_l1rtvalWrite ctx idx v s) (by simp [hctx, hidx]) rfl ⟨?_, fun _ => rfl⟩
    simp [State.setRegion, State.ctx_modCtx, tget_tset]
  case tqcfg =>
    refine acts_of_eventOf (exec_tqcfgWrite ctx hd v s) (by simp [hctx, hhd]) (t := s.setQueue ctx hd v) (by simp [TaskQ.holds, hl1, hring]) ⟨?_, fun _ => rfl⟩
    rw [State.setQueue, State.taskQ_modTaskQ_same]
  case ldreq =>
    exact acts_of_eventOf (exec_ldreqWrite ctx line s) (decide_eq_true hctx) (if_pos hwanted) ⟨⟨_, rfl, rfl, rfl⟩, fun _ => rfl⟩
  case wdmap =>
    exact acts_of_eventOf (exec_wdmapWrite atF w s) rfl rfl
      ⟨fun _ => by rw [State.wdWrite_mem], fun i hi => by rw [State.wdWrite_wd _ _ _ _ hi, wdBit_whole _ _ hi]⟩
  case rollcmd =>
    exact acts_of_eventOf (exec_rollcmdWrite gang s) rfl rfl
      ⟨fun g => s.rollRelaunch_of_notPoisoned, fun g r => s.rollRelaunch_restores, fun g r pa => s.rollRelaunch_discards⟩
  case bankAck =>
    refine acts_of_eventOf (exec_errorBankAck unit v s) (decide_eq_true hunit) rfl ⟨fun _ => rfl, ?_⟩
    rw [State.onMod_m, tget_tmod, if_pos rfl]
    exact ⟨ErrBank.ack_hit _, ErrBank.ack_miss _⟩
  case external =>
    refine acts_of_eventOf (exec_external core s) (decide_eq_true hcore) rfl ⟨?_, fun _ => by rw [State.modHart_m]⟩
    rw [State.hartAt_modHart, if_pos rfl]

end Sys2Proof.Machine

/-! SUPPORT. What the error log, the L2, a channel and the operating points of a Tray leave as it was (16 R384 to R387; 03 R74 to R84; 17 R402). -/

namespace Sys2Proof.Machine

theorem SameMem.of_mem {s t : State} (h : t.m.mem = s.m.mem) : SameMem s t := fun k => by rw [h]

/-! ## Sets of numbers -/

theorem mem_sadd {l : List Nat} {x y : Nat} : y ∈ sadd l x ↔ y = x ∨ y ∈ l := by
  induction l with
  | nil => simp [sadd]
  | cons z r ih =>
    unfold sadd
    split
    · next h => simp [h]
    · split
      · simp
      · simp [ih, or_left_comm]

theorem not_mem_sdel (l : List Nat) (x : Nat) : x ∉ sdel l x := by simp [sdel]

/-! ## The error log -/

/-- Only the error banks, the SRAM copy of the Garnet log and the frames to the host differ. -/
def Mod.LogsTo (m n : Mod) : Prop := ∃ b g h, n = { m with banks := b, garnet := { m.garnet with sram := g }, host := h }

theorem Mod.LogsTo.refl (m : Mod) : m.LogsTo m := ⟨_, _, _, rfl⟩

theorem Mod.LogsTo.trans {m n o : Mod} (h1 : m.LogsTo n) (h2 : n.LogsTo o) : m.LogsTo o := by
  obtain ⟨b, g, h, rfl⟩ := h1
  obtain ⟨b', g', h', rfl⟩ := h2
  exact ⟨b', g', h', rfl⟩

theorem State.logsTo_hostEvent (s : State) (ctx : Nat) (body : List Nat) : s.m.LogsTo (s.hostEvent ctx body).m := ⟨_, _, _, rfl⟩

theorem State.logsTo_modGarnet (s : State) (f : GLog → GLog) : s.m.LogsTo (s.modGarnet f).m := ⟨_, _, _, rfl⟩

/-- A step of the log that is taken or not. -/
theorem State.logsTo_ite {s t : State} (p : Prop) [Decidable p] (h : s.m.LogsTo t.m) : s.m.LogsTo (if p then t else s).m := by
  split
  · exact h
  · exact .refl _

theorem State.logsTo_logErr (s : State) (unit sev site sub addr syn cause : Nat) (inj : Bool) :
    s.m.LogsTo (s.logErr unit sev site sub addr syn cause inj).m := by
  unfold State.logErr
  dsimp only
  refine List.foldlRecOn (motive := fun t : State => s.m.LogsTo t.m) _ _ ?record fun t ht off _ => ?counter
  case record =>
    refine .trans (.trans ?bank (logsTo_ite _ (logsTo_modGarnet _ _))) (logsTo_ite _ (logsTo_hostEvent _ _ _))
    exact ⟨_, _, _, rfl⟩
  case counter => exact ht.trans ((logsTo_modGarnet _ _).trans (logsTo_ite _ (logsTo_hostEvent _ _ _)))

@[simp] theorem State.logErr_mem (s : State) (unit sev site sub addr syn cause : Nat) (inj : Bool) :
    (s.logErr unit sev site sub addr syn cause inj).m.mem = s.m.mem := by
  obtain ⟨_, _, _, h⟩ := s.logsTo_logErr unit sev site sub addr syn cause inj
  rw [h]

@[simp] theorem State.logErr_garnetStore (s : State) (unit sev site sub addr syn cause : Nat) (inj : Bool) :
    (s.logErr unit sev site sub addr syn cause inj).m.garnet.store = s.m.garnet.store := by
  obtain ⟨_, _, _, h⟩ := s.logsTo_logErr unit sev site sub addr syn cause inj
  rw [h]

@[simp] theorem State.logFill_mem (s : State) (k : Nat) : (s.logFill k).m.mem = s.m.mem := State.logErr_mem ..

@[simp] theorem State.logFill_chans (s : State) (k : Nat) : (s.logFill k).m.chans = s.m.chans := by
  obtain ⟨_, _, _, h⟩ := s.logsTo_logErr (0x400 + keyCh k) 1 2 (keyL k / 1024 % 16) (hbmPa k) 0 0xFF (s.m.injS.contains (k / 64))
  rw [State.logFill, h]

/-- A fill that is logged or not changes no byte and no channel. -/
theorem State.logFill_ite_frame (s : State) (p : Prop) [Decidable p] (k : Nat) :
    (if p then s.logFill k else s).m.mem = s.m.mem ∧ (if p then s.logFill k else s).m.chans = s.m.chans := by
  split
  · exact ⟨s.logFill_mem k, s.logFill_chans k⟩
  · exact ⟨rfl, rfl⟩

/-! ## The L2 -/

theorem State.l2Line_eq_some {s t : State} {line : Nat} {alloc : Bool} (h : s.l2Line line alloc = some t) :
    t.m.mem = s.m.mem ∧ t.m.chans = s.m.chans ∧ (tget? t.m.l2 line).isSome = true := by
  unfold State.l2Line at h
  split at h
  · next hline =>
    obtain rfl := Option.some.inj h
    exact ⟨rfl, rfl, hline⟩
  · split at h
    · obtain ⟨way, _, rfl⟩ := Option.map_eq_some_iff.mp h
      exact ⟨rfl, rfl, by simp [State.l2Alloc, tget?_tset]⟩
    · contradiction

/-- An access at a slice bank changes no byte and no channel. -/
theorem State.l2Touch_frame (s : State) (k : Nat) (msk : BitVec 256) (write fill alloc : Bool) :
    (s.l2Touch k msk write fill alloc).1.m.mem = s.m.mem ∧ (s.l2Touch k msk write fill alloc).1.m.chans = s.m.chans := by
  unfold State.l2Touch
  split
  · exact ⟨rfl, rfl⟩
  · dsimp only
    split
    · exact s.logFill_ite_frame ..
    · next t ht =>
      obtain ⟨hmem, hchans, _⟩ := State.l2Line_eq_some ht
      rw [← hmem, ← hchans]
      exact t.logFill_ite_frame ..

@[simp] theorem State.l2Access_mem (s : State) (k n : Nat) (write fill alloc : Bool) : (s.l2Access k n write fill alloc).1.m.mem = s.m.mem :=
  (s.l2Touch_frame ..).1

@[simp] theorem State.l2Access_chan (s : State) (k n : Nat) (write fill alloc : Bool) (ch : Nat) :
    (s.l2Access k n write fill alloc).1.chan ch = s.chan ch := by
  rw [State.chan, State.l2Access, (s.l2Touch_frame ..).2, State.chan]

/-- Whether a line can be had depends on the lines of the L2, their use, and the pending reads alone. -/
theorem State.l2Line_isSome_congr {s t : State} (hl2 : t.m.l2 = s.m.l2) (hplru : t.m.plru = s.m.plru)
    (hreads : ∀ ch, (t.chan ch).reads = (s.chan ch).reads) (line : Nat) (alloc : Bool) :
    (t.l2Line line alloc).isSome = (s.l2Line line alloc).isSome := by
  have hway : t.l2Way line = s.l2Way line := by simp only [State.l2Way, Chan.reading, hl2, hplru, hreads]
  unfold State.l2Line
  rw [hl2, hway]
  split
  · rfl
  · split
    · rw [Option.isSome_map, Option.isSome_map]
    · rfl

/-! ## Channels -/

theorem State.chan_modChan (s : State) (n j : Nat) (f : Chan → Chan) : (s.modChan n f).chan j = if n = j then f (s.chan n) else s.chan j :=
  tget_tmod ..

theorem State.chan_modChan_same (s : State) (n : Nat) (f : Chan → Chan) : (s.modChan n f).chan n = f (s.chan n) := by
  rw [State.chan_modChan, if_pos rfl]

theorem State.modChan_congr (s : State) (n : Nat) {f g : Chan → Chan} (h : f (s.chan n) = g (s.chan n)) : s.modChan n f = s.modChan n g := by
  simp only [State.chan] at h
  simp only [State.modChan, State.onMod, tmod, h]

theorem keyCh_hbmKey {ch l : Nat} (h : l < 0x60000000) : keyCh (hbmKey ch l) = ch := by
  unfold keyCh hbmKey
  omega

/-- A wait that stands at a channel changes no byte, no line of the L2 and no pending read. -/
theorem State.setReaderWait_other_frame (s : State) (k : Nat) (w : Option (Nat × Nat)) :
    (s.setReaderWait .other k w).m.mem = s.m.mem ∧ (s.setReaderWait .other k w).m.l2 = s.m.l2 ∧
      (s.setReaderWait .other k w).m.plru = s.m.plru ∧ ∀ ch, ((s.setReaderWait .other k w).chan ch).reads = (s.chan ch).reads := by
  unfold State.setReaderWait
  split
  · exact ⟨rfl, rfl, rfl, fun _ => rfl⟩
  · refine ⟨rfl, rfl, rfl, fun ch => ?_⟩
    rw [State.chan_modChan]
    split
    · next h => rw [← h]
    · rfl

/-- A read that does not wait at its channel yet begins to wait there, after those that do. -/
theorem State.queueAt_other {s : State} {k : Nat} (h : s.readerWait .other k = none) :
    s.queueAt .other k =
      (s.modChan (keyCh k) fun c => { c with others := c.others ++ [(k / 64, s.m.mxStamp)] }).onMod fun m => { m with mxStamp := m.mxStamp + 1 } := by
  have hnone : (s.chan (keyCh k)).others.filter (·.1 != k / 64) = (s.chan (keyCh k)).others := by
    rw [State.readerWait, Option.map_eq_none_iff, List.find?_eq_none] at h
    exact List.filter_eq_self.mpr fun e he => by simpa using h e he
  have hset : s.setReaderWait .other k (some (bankOf k, s.m.mxStamp)) =
      s.modChan (keyCh k) fun c => { c with others := c.others ++ [(k / 64, s.m.mxStamp)] } := by
    simp only [State.setReaderWait, h, reduceCtorEq, if_false]
    exact s.modChan_congr _ (by simp [hnone])
  simp only [State.queueAt, h, Option.any_none, Bool.false_eq_true, if_false, hset]

theorem State.queueAt_other_frame {s : State} {k : Nat} (h : s.readerWait .other k = none) :
    (s.queueAt .other k).m.mem = s.m.mem ∧ (s.queueAt .other k).m.l2 = s.m.l2 ∧
      (s.queueAt .other k).chan (keyCh k) =
        { s.chan (keyCh k) with others := (s.chan (keyCh k)).others ++ [(k / 64, s.m.mxStamp)] } := by
  rw [State.queueAt_other h]
  exact ⟨rfl, rfl, s.chan_modChan_same (keyCh k) fun c => { c with others := c.others ++ [(k / 64, s.m.mxStamp)] }⟩

/-- A read that begins to wait takes a stamp. -/
theorem State.moved_queueAt {s : State} {k : Nat} (h : s.readerWait .other k = none) :
    moved s (s.queueAt .other k) = some (s.queueAt .other k) := by
  refine if_neg fun heq => ?_
  have hstamp : (s.queueAt .other k).m.mxStamp = s.m.mxStamp + 1 := by rw [State.queueAt_other h]; rfl
  rw [heq] at hstamp
  omega

theorem State.moved_queueAt_stallBegins {s : State} {k : Nat} (h : s.readerWait .other k = none) (ch at0 : Nat) :
    moved s ((s.queueAt .other k).stallBegins ch at0) = some ((s.queueAt .other k).stallBegins ch at0) := by
  refine if_neg fun heq => ?_
  have hstamp : ((s.queueAt .other k).stallBegins ch at0).m.mxStamp = s.m.mxStamp + 1 := by rw [State.queueAt_other h]; rfl
  rw [heq] at hstamp
  omega

end Sys2Proof.Machine

/-! SUPPORT. L2 accesses, fills and refresh (03 R75 to R84). -/

namespace Sys2Proof.Machine

/-! ## L2_ACCESS (03 R75, R77, R83) -/

/-- The state in which a read that needs its sector waits no more and has its line, where it allocates one. -/
def State.lineForRead (s : State) (k : Nat) (far : Bool) : State := ((s.setReaderWait .other k none).l2Line (lineKey k) (!far)).getD s

theorem State.lineForRead_frame (s : State) (k : Nat) (far : Bool) (hline : far = false → (s.l2Line (lineKey k) true).isSome = true) :
    (s.lineForRead k far).m.mem = s.m.mem ∧ (far = false → (tget? (s.lineForRead k far).m.l2 (lineKey k)).isSome = true) := by
  obtain ⟨hmem, hl2, hplru, hreads⟩ := s.setReaderWait_other_frame k none
  cases hu : (s.setReaderWait .other k none).l2Line (lineKey k) (!far) with
  | none =>
    have ht : s.lineForRead k far = s := by simp only [State.lineForRead, hu, Option.getD_none]
    rw [ht]
    refine ⟨rfl, fun hfar => ?_⟩
    have hsome := State.l2Line_isSome_congr hl2 hplru hreads (lineKey k) (!far)
    subst hfar
    rw [hu] at hsome
    exact absurd (hsome.trans (hline rfl)) Bool.false_ne_true
  | some u =>
    have ht : s.lineForRead k far = u := by simp only [State.lineForRead, hu, Option.getD_some]
    obtain ⟨humem, _, huline⟩ := State.l2Line_eq_some hu
    rw [ht]
    exact ⟨humem.trans hmem, fun _ => huline⟩

section
variable {s : State} {ch l n : Nat} {far : Bool} (hn : n ≠ 0) (hfit : l % 64 + n ≤ 64)
include hn hfit

theorem State.l2Event_write (hwait : s.writeWaits (keysFrom (hbmKey ch l) n) false (!far) = false) :
    s.l2Event ch l n true far = some (s.l2Access (hbmKey ch l) n true false (!far)).1 := by
  simp [State.l2Event, hn, Nat.not_lt.mpr hfit, hwait]

theorem State.l2Event_read_hit (hhit : ∀ j < n, s.needsFill (hbmKey ch l + j) false = false) :
    s.l2Event ch l n false far = some (s.l2Access (hbmKey ch l) n false false (!far)).1 := by
  have hall : ((keysFrom (hbmKey ch l) n).all fun i => !s.needsFill i false) = true := by simpa [keysFrom] using hhit
  simp [State.l2Event, hn, Nat.not_lt.mpr hfit, hall]

/-- A read that needs its sector waits for a refresh, or for an earlier read of the bank, or becomes pending. -/
theorem State.l2Event_read_miss (hmiss : ∃ j < n, s.needsFill (hbmKey ch l + j) false = true) :
    s.l2Event ch l n false far =
      if s.bankHeld .other (hbmKey ch l) then moved s ((s.queueAt .other (hbmKey ch l)).stallBegins ch s.m.now)
      else if s.outrun .other (hbmKey ch l) then moved s (s.queueAt .other (hbmKey ch l))
      else if !far && (s.l2Line (lineKey (hbmKey ch l)) true).isNone then none
      else some ((((s.setReaderWait .other (hbmKey ch l) none).l2Line (lineKey (hbmKey ch l)) (!far)).getD s).modChan ch fun c =>
        { c with reads := sadd c.reads (hbmKey ch l / 64) }) := by
  have hall : ((keysFrom (hbmKey ch l) n).all fun i => !s.needsFill i false) = false := by
    obtain ⟨j, hj, hfill⟩ := hmiss
    simpa [keysFrom] using ⟨j, hj, hfill⟩
  simp [State.l2Event, hn, Nat.not_lt.mpr hfit, hall]

section
variable (hmiss : ∃ j < n, s.needsFill (hbmKey ch l + j) false = true)
include hmiss

theorem State.l2Event_read_held (hheld : s.bankHeld .other (hbmKey ch l) = true) (hnew : s.readerWait .other (hbmKey ch l) = none) :
    s.l2Event ch l n false far = some ((s.queueAt .other (hbmKey ch l)).stallBegins ch s.m.now) := by
  rw [State.l2Event_read_miss hn hfit hmiss, if_pos hheld, State.moved_queueAt_stallBegins hnew]

theorem State.l2Event_read_outrun (hheld : s.bankHeld .other (hbmKey ch l) = false) (hout : s.outrun .other (hbmKey ch l) = true)
    (hnew : s.readerWait .other (hbmKey ch l) = none) : s.l2Event ch l n false far = some (s.queueAt .other (hbmKey ch l)) := by
  rw [State.l2Event_read_miss hn hfit hmiss, hheld, if_neg Bool.false_ne_true, if_pos hout, State.moved_queueAt hnew]

theorem State.l2Event_read_pends (hheld : s.bankHeld .other (hbmKey ch l) = false) (hout : s.outrun .other (hbmKey ch l) = false)
    (hline : far = false → (s.l2Line (lineKey (hbmKey ch l)) true).isSome = true) :
    s.l2Event ch l n false far =
      some ((s.lineForRead (hbmKey ch l) far).modChan ch fun c => { c with reads := sadd c.reads (hbmKey ch l / 64) }) := by
  have hway : (!far && (s.l2Line (lineKey (hbmKey ch l)) true).isNone) = false := by
    cases far with
    | true => rfl
    | false => simp [Option.isNone_eq_false_iff, hline rfl]
  rw [State.l2Event_read_miss hn hfit hmiss, hheld, hout, hway]
  rfl

end

end

/-! ## SECTOR_FILL (03 R75, R76) -/

/-- The reads of a sector leave the channel; a fill with an uncorrectable error poisons the sector. -/
def State.fillLeaves (s : State) (ch k : Nat) (bad : Bool) : State :=
  let s := s.modChan ch fun c => { c with reads := sdel c.reads (k / 64), others := c.others.filter (·.1 != k / 64) }
  if bad then s.onMod fun m => { m with poisonS := sadd m.poisonS (k / 64) } else s

theorem State.fillLeaves_frame (s : State) (ch k : Nat) (bad : Bool) :
    (s.fillLeaves ch k bad).m.mem = s.m.mem ∧ (s.fillLeaves ch k bad).m.l2 = s.m.l2 := by
  cases bad <;> exact ⟨rfl, rfl⟩

theorem State.fillLeaves_reads (s : State) (ch k : Nat) (bad : Bool) : ((s.fillLeaves ch k bad).chan ch).reads = sdel (s.chan ch).reads (k / 64) := by
  have hleft := congrArg Chan.reads
    (s.chan_modChan_same ch fun c => { c with reads := sdel c.reads (k / 64), others := c.others.filter (·.1 != k / 64) })
  cases bad <;> exact hleft

theorem State.fillLeaves_poisonS (s : State) (ch k : Nat) : (s.fillLeaves ch k true).m.poisonS.contains (k / 64) = true :=
  List.contains_iff_mem.mpr (mem_sadd.mpr (.inl rfl))

theorem getLsbD_or_two_pow (x : BitVec 4) {i : Nat} (hi : i < 4) : (x ||| BitVec.ofNat 4 (2 ^ i)).getLsbD i = true := by
  rw [BitVec.getLsbD_or, BitVec.getLsbD_ofNat, Nat.testBit_two_pow_self, decide_eq_true hi, Bool.and_true, Bool.or_true]

/-- A sector of a line is filled, and poisoned where its data are. -/
def State.fillLine (s : State) (k sec : Nat) (ln : L2Line) : State :=
  let bad := s.m.poisonS.contains (k / 64)
  (if bad then s.logFill k else s).onMod fun m => { m with l2 := tset m.l2 (lineKey k) { ln with
    v := ln.v ||| BitVec.ofNat 4 (2 ^ sec), poison := if bad then ln.poison ||| BitVec.ofNat 4 (2 ^ sec) else ln.poison } }

theorem State.fillLine_frame (s : State) (k sec : Nat) (ln : L2Line) :
    (s.fillLine k sec ln).m.mem = s.m.mem ∧ (s.fillLine k sec ln).m.chans = s.m.chans :=
  s.logFill_ite_frame (s.m.poisonS.contains (k / 64) = true) k

theorem State.fillLine_line (s : State) (k : Nat) {sec : Nat} (hsec : sec < 4) (ln : L2Line) :
    ∃ y, tget? (s.fillLine k sec ln).m.l2 (lineKey k) = some y ∧ y.v.getLsbD sec = true ∧
      (s.m.poisonS.contains (k / 64) = true → y.poison.getLsbD sec = true) := by
  refine ⟨_, (tget?_tset _ _ _ _).trans (if_pos rfl), getLsbD_or_two_pow _ hsec, fun hbad => ?_⟩
  dsimp only
  rw [if_pos hbad]
  exact getLsbD_or_two_pow _ hsec

section
variable {s : State} {ch l : Nat} (bad : Bool)
  (hreads : hbmKey ch l / 64 ∈ (s.chan ch).reads ∨ s.othersGo ch = some (hbmKey ch l / 64))
include hreads

/-- The data of a read past the L2 stand ready. -/
theorem State.sectorFill_noLine (hline : tget? s.m.l2 (lineKey (hbmKey ch l)) = none) :
    s.sectorFill ch l bad =
      some ((s.fillLeaves ch (hbmKey ch l) bad).modChan ch fun c => { c with served := sadd c.served (hbmKey ch l / 64) }) := by
  have hgo : ((s.chan ch).reads.contains (hbmKey ch l / 64) || s.othersGo ch == some (hbmKey ch l / 64)) = true := by simpa using hreads
  have hleft : tget? (s.fillLeaves ch (hbmKey ch l) bad).m.l2 (lineKey (hbmKey ch l)) = none := by rw [(s.fillLeaves_frame ..).2, hline]
  simp only [State.fillLeaves] at hleft
  simp only [State.sectorFill, hgo, hleft, Bool.not_true, Bool.false_eq_true, if_false]
  rfl

/-- The sector of the line is filled. -/
theorem State.sectorFill_line {ln : L2Line} (hline : tget? s.m.l2 (lineKey (hbmKey ch l)) = some ln) (hv : ln.v.getLsbD (l / 64 % 4) = false) :
    s.sectorFill ch l bad = some ((s.fillLeaves ch (hbmKey ch l) bad).fillLine (hbmKey ch l) (l / 64 % 4) ln) := by
  have hgo : ((s.chan ch).reads.contains (hbmKey ch l / 64) || s.othersGo ch == some (hbmKey ch l / 64)) = true := by simpa using hreads
  have hleft : tget? (s.fillLeaves ch (hbmKey ch l) bad).m.l2 (lineKey (hbmKey ch l)) = some ln := by rw [(s.fillLeaves_frame ..).2, hline]
  simp only [State.fillLeaves] at hleft
  simp only [State.sectorFill, hgo, hleft, hv, Bool.not_true, Bool.false_eq_true, if_false]
  rfl

end

/-! ## REFRESH_SLOT (03 R82, R84) -/

theorem Chan.slot_reads (c : Chan) (waits : Bool) (stamp : Nat) : (c.slot waits stamp).reads = c.reads := by
  simp [Chan.slot, apply_ite Chan.reads]

theorem Chan.slot_underRefresh {c : Chan} (h : c.all = true ∨ c.allWait = true) (waits : Bool) (stamp : Nat) :
    c.slot waits stamp = { c with p := (c.p + 1) % 16 } := by
  simp [Chan.slot, h]

section
variable {c : Chan} (hall : c.all = false) (hwait : c.allWait = false) {waits : Bool} (stamp : Nat)
include hall hwait

/-- While a read is pending the refresh is owed. -/
theorem Chan.slot_owes (hp : c.reads ≠ [] ∨ waits = true) (howed : c.owed < 7) : c.slot waits stamp = { c with owed := c.owed + 1 } := by
  have hpending : (!c.reads.isEmpty || waits) = true := by simpa using hp
  have hne : (c.owed == 7) = false := by simpa using Nat.ne_of_lt howed
  simp [Chan.slot, hall, hwait, hpending, hne]

/-- The eighth owed refresh asks for one of every bank. -/
theorem Chan.slot_forces (hp : c.reads ≠ [] ∨ waits = true) (howed : c.owed = 7) :
    c.slot waits stamp = { c with allWait := true, allAt := stamp, forced := min (c.forced + 1) 255 } := by
  have hpending : (!c.reads.isEmpty || waits) = true := by simpa using hp
  simp [Chan.slot, hall, hwait, hpending, howed]

theorem Chan.slot_refreshes (hp : ¬ (c.reads ≠ [] ∨ waits = true)) (howed : c.owed = 0) :
    c.slot waits stamp = { c with banks := sadd c.banks c.p, p := (c.p + 1) % 16 } := by
  have hidle : (!c.reads.isEmpty || waits) = false := by simpa using hp
  simp [Chan.slot, hall, hwait, hidle, howed]

/-- An owed refresh is made with the one that is due. -/
theorem Chan.slot_repays (hp : ¬ (c.reads ≠ [] ∨ waits = true)) (howed : 0 < c.owed) :
    c.slot waits stamp = { c with banks := sadd (sadd c.banks c.p) ((c.p + 1) % 16), p := (c.p + 2) % 16, owed := c.owed - 1 } := by
  have hidle : (!c.reads.isEmpty || waits) = false := by simpa using hp
  simp [Chan.slot, hall, hwait, hidle, howed]

end

/-! ## ALL_BANK_REFRESH_START and REFRESH_END (03 R82 to R84) -/

theorem State.allBankStart_eq (s : State) {ch : Nat} (hwait : (s.chan ch).allWait = true) (hnone : (s.chan ch).reads = [])
    (hleft : s.waitsAt ch (s.chan ch).allAt = false) :
    s.allBankStart ch = some (s.modChan ch fun c => { c with allWait := false, all := true, owed := 0 }) := by
  simp [State.allBankStart, hwait, hnone, hleft]

theorem State.refreshEnd_eq (s : State) {ch : Nat} (h : (s.chan ch).all = true ∨ (s.chan ch).banks ≠ []) :
    s.refreshEnd ch = some (s.modChan ch fun c => c.refreshed s.m.now) :=
  if_pos (by simpa using h)

theorem Chan.refreshed_banks {c : Chan} (h : c.all = false) (now : Nat) : (c.refreshed now).banks = [] := by
  simp [Chan.refreshed, h]

/-- The end of a refresh adds the time that the first waiting read has waited to STALL. -/
theorem Chan.refreshed_stall {c : Chan} {now t0 : Nat} (h : c.stallFrom = some t0) :
    (c.refreshed now).stall = min (c.stall + (now - t0) / mclkUnits) (2 ^ 48 - 1) := by
  simp only [Chan.refreshed, Chan.stalled, h]

end Sys2Proof.Machine

/-! SUPPORT. Power and heat (17 R402 to R408). -/

namespace Sys2Proof.Machine

/-! ## Operating points (17 R402) -/

theorem State.retarget_cases (s : State) (n : Nat) : s.retarget n = s ∨ ∃ x, s.retarget n = s.modTray n fun t => { t with trans := x } := by
  unfold State.retarget
  split
  · exact .inl rfl
  · exact .inr ⟨_, rfl⟩

@[simp] theorem State.retarget_mem (s : State) (n : Nat) : (s.retarget n).m.mem = s.m.mem := by
  rcases s.retarget_cases n with h | ⟨_, h⟩ <;> rw [h]; rfl

@[simp] theorem State.retarget_power (s : State) (n : Nat) : (s.retarget n).m.power = s.m.power := by
  rcases s.retarget_cases n with h | ⟨_, h⟩ <;> rw [h]; rfl

@[simp] theorem State.retarget_hartAt (s : State) (n j : Nat) : (s.retarget n).hartAt j = s.hartAt j := by
  rcases s.retarget_cases n with h | ⟨_, h⟩ <;> rw [h]; rfl

/-- A new target changes nothing of a Tray but its transition. -/
theorem State.retarget_tray (s : State) (n j : Nat) : (s.retarget n).tray j = { s.tray j with trans := ((s.retarget n).tray j).trans } := by
  rcases s.retarget_cases n with h | ⟨_, h⟩
  · rw [h]
  · rw [h, State.tray_modTray]
    split
    · next hj => rw [hj]
    · rfl

theorem State.retargetAll_frame (s : State) : s.retargetAll.m.mem = s.m.mem ∧ s.retargetAll.m.power = s.m.power :=
  List.foldlRecOn (motive := fun t : State => t.m.mem = s.m.mem ∧ t.m.power = s.m.power) _ State.retarget ⟨rfl, rfl⟩
    fun t ht n _ => by rwa [State.retarget_mem, State.retarget_power]

theorem Mod.reach_eq (m : Mod) (ns : Nat) : m.reach ns = { m with now := (m.reach ns).now } := by
  unfold Mod.reach
  split <;> rfl

@[simp] theorem Mod.reach_mem (m : Mod) (ns : Nat) : (m.reach ns).mem = m.mem := by rw [Mod.reach_eq]

@[simp] theorem Mod.reach_power (m : Mod) (ns : Nat) : (m.reach ns).power = m.power := by rw [Mod.reach_eq]

@[simp] theorem Mod.reach_trays (m : Mod) (ns : Nat) : (m.reach ns).trays = m.trays := by rw [Mod.reach_eq]

theorem Mod.reach_windowEnergy (m : Mod) (ns : Nat) : (m.reach ns).windowEnergy = m.windowEnergy := by
  simp only [Mod.windowEnergy, Mod.reach_trays, Mod.reach_power]

theorem State.transitionEnd_eq (s : State) {tray step at0 : Nat} (h : (s.tray tray).trans = some (step, at0)) :
    s.transitionEnd tray = some (((s.onMod (·.reach at0)).modTray tray fun t => { t with grant := step, trans := none }).retarget tray) := by
  simp only [State.transitionEnd, h]

/-! ## Droop (17 R403) -/

theorem State.droopDetect_frame (s : State) (tray : Nat) : (s.droopDetect tray).m.mem = s.m.mem ∧
    (s.droopDetect tray).m.power = { s.m.power with droops := min (s.m.power.droops + 1) 65535 } := by
  unfold State.droopDetect
  dsimp only
  split <;> exact ⟨rfl, rfl⟩

theorem State.droopDetect_droop (s : State) (tray : Nat) : ((s.droopDetect tray).tray tray).droop =
    if s.m.power.droophold = 0 then (s.tray tray).droop else some (s.m.now + s.m.power.droophold * cycleUnits (s.coreStep (8 * tray))) := by
  unfold State.droopDetect
  dsimp only
  split
  · rfl
  · rw [State.tray_modTray, if_pos rfl]
    rfl

theorem State.droopEnd_eq (s : State) {tray at0 : Nat} (h : (s.tray tray).droop = some at0) :
    s.droopEnd tray = some ((s.onMod fun m => { m with now := max m.now at0 }).modTray tray fun t => { t with droop := none }) := by
  simp only [State.droopEnd, h]

/-! ## The cap (17 R405) -/

@[simp] theorem Mod.capWindow_mem (m : Mod) : m.capWindow.mem = m.mem := rfl

/-- What the end of a window makes of the power block. -/
theorem Mod.capWindow_power (m : Mod) :
    let b := m.power.pcap * mJ
    let e := heldEnergy m.windowEnergy b
    m.capWindow.power.window = m.power.window + 1 ∧ m.capWindow.power.carry = m.windowEnergy - e ∧
      m.capWindow.power.capstep = (if b < e then m.power.capstep - 1 else if 10 * e < 9 * b then min 15 (m.power.capstep + 1) else m.power.capstep) ∧
      m.capWindow.power.wover = (if b < e then min (m.power.wover + 1) 65535 else m.power.wover) ∧
      m.capWindow.power.ovsh = if b < e then max m.power.ovsh (min 65535 ((e - b) * 10000 / b)) else m.power.ovsh :=
  ⟨rfl, rfl, rfl, rfl, rfl⟩

theorem State.capWindowEnd_frame (s : State) : s.capWindowEnd.m.mem = s.m.mem ∧
    s.capWindowEnd.m.power = (s.m.reach ((s.m.power.window + 1) * 1000000)).capWindow.power := by
  obtain ⟨hmem, hpower⟩ := ((s.onMod (·.reach ((s.m.power.window + 1) * 1000000))).onMod Mod.capWindow).retargetAll_frame
  refine ⟨hmem.trans ?_, hpower⟩
  rw [State.onMod_m, State.onMod_m, Mod.capWindow_mem, Mod.reach_mem]

/-- The cap is reckoned with what was charged in the window, wherever the clock stands. -/
theorem State.capWindowEnd_power (s : State) :
    let p := s.capWindowEnd.m.power
    let b := s.m.power.pcap * mJ
    let e := heldEnergy s.m.windowEnergy b
    p.window = s.m.power.window + 1 ∧ p.carry = s.m.windowEnergy - e ∧
      p.capstep = (if b < e then s.m.power.capstep - 1 else if 10 * e < 9 * b then min 15 (s.m.power.capstep + 1) else s.m.power.capstep) ∧
      p.wover = (if b < e then min (s.m.power.wover + 1) 65535 else s.m.power.wover) ∧
      p.ovsh = if b < e then max s.m.power.ovsh (min 65535 ((e - b) * 10000 / b)) else s.m.power.ovsh := by
  have h := (s.m.reach ((s.m.power.window + 1) * 1000000)).capWindow_power
  simp only [Mod.reach_windowEnergy, Mod.reach_power] at h
  rwa [s.capWindowEnd_frame.2]

/-! ## Peers (17 R407) -/

theorem State.peerThrottled_eq (s : State) {port : Nat} (hactive : (tget {} s.m.host.links port).st = .active) (step : Nat) (on : Bool) :
    s.peerThrottled port step on = some (s.onMod fun m => { m with power := { m.power with
      peerFloor := if on then tset m.power.peerFloor port (min step 15) else tdel m.power.peerFloor port } }) :=
  if_neg (by simp [hactive])

/-! ## Temperature (17 R408) -/

/-- The hart with a thermal cause, where it is placed. -/
def Hart.thermal (h : Hart) (tray temp cause : Nat) : Hart :=
  if h.placed then { h with asy := h.asy ++ [{ cause := cause, val := w64 tray, info := w64 (temp % 256) }] } else h

theorem Hart.thermal_asy (h : Hart) (tray temp cause : Nat) :
    (h.thermal tray temp cause).asy = h.asy ++ if h.placed then [{ cause := cause, val := w64 tray, info := w64 (temp % 256) }] else [] := by
  unfold Hart.thermal
  split <;> simp

theorem State.thermalCause_m (s : State) (tray temp cause : Nat) : (s.thermalCause tray temp cause).m = s.m :=
  List.foldlRecOn (motive := fun t : State => t.m = s.m) _ _ rfl fun t ht i _ => by rw [State.modHart_m, ht]

theorem State.thermalCause_tray (s : State) (tray temp cause j : Nat) : (s.thermalCause tray temp cause).tray j = s.tray j := by
  rw [State.tray, State.thermalCause_m, State.tray]

/-- A Tray at a new temperature with its marks changed, once the throttle and its target have been reckoned anew: only a transition is
added. -/
theorem State.tray_retarget_marked (s : State) (tray temp : Nat) (f : Tray → Tray) :
    ∃ x, ((((s.setTemp tray temp).modTray tray f).onMod Mod.rethrottle).retarget tray).tray tray =
      { f { s.tray tray with temp := temp } with trans := x } := by
  have hmarked : (((s.setTemp tray temp).modTray tray f).onMod Mod.rethrottle).tray tray = f { s.tray tray with temp := temp } := by
    change ((s.setTemp tray temp).modTray tray f).tray tray = _
    rw [State.tray_modTray, if_pos rfl, State.setTemp, State.tray_modTray, if_pos rfl]
  rw [State.retarget_tray, hmarked]
  exact ⟨_, rfl⟩

/-- Changing some harts of a Tray, each once, changes each of them. -/
theorem State.hartAt_foldl_modHart (s : State) (base : Nat) (f : Hart → Hart) {l : List Nat} (hl : l.Nodup) (j : Nat) :
    (l.foldl (fun s i => s.modHart (base + i) f) s).hartAt (base + j) = if j ∈ l then f (s.hartAt (base + j)) else s.hartAt (base + j) := by
  induction l generalizing s with
  | nil => rfl
  | cons i l ih =>
    obtain ⟨hi, hl⟩ := List.nodup_cons.mp hl
    rw [List.foldl_cons, ih _ hl, State.hartAt_modHart]
    rcases Decidable.em (i = j) with rfl | hij
    · simp [hi]
    · simp [hij, Ne.symm hij]

theorem State.thermalCause_hartAt (s : State) (tray temp cause : Nat) {j : Nat} (hj : j < 8) :
    (s.thermalCause tray temp cause).hartAt (8 * tray + j) = (s.hartAt (8 * tray + j)).thermal tray temp cause :=
  (s.hartAt_foldl_modHart (8 * tray) (·.thermal tray temp cause) List.nodup_range j).trans (if_pos (List.mem_range.mpr hj))

theorem State.thermalWarn_eq (s : State) {tray temp : Nat} (hhot : (s.tray tray).hot = false) (htemp : 95 ≤ temp) :
    s.thermalWarn tray temp = some (((s.setTemp tray temp).modTray tray fun t => { t with hot := true }).thermalCause tray temp 0x50) := by
  simp [State.thermalWarn, hhot, htemp]

theorem State.thermalCrit_eq (s : State) {tray temp : Nat} (hcrit : (s.tray tray).crit = false) (htemp : 105 ≤ temp) :
    s.thermalCrit tray temp =
      some (((((s.setTemp tray temp).modTray tray fun t => { t with crit := true }).onMod Mod.rethrottle).retarget tray).thermalCause
        tray temp 0x51) := by
  simp [State.thermalCrit, hcrit, htemp]

/-- The trip stops the module, and the non-volatile store then holds the SRAM copy of the Garnet log as it stood. -/
theorem State.thermalTrip_frame (s : State) (tray : Nat) {temp : Nat} (htemp : 115 ≤ temp) :
    ∃ t, s.thermalTrip tray temp = some t ∧ t.m.stopped = true ∧ t.m.garnet.store = s.m.garnet.sram ∧ t.m.mem = s.m.mem :=
  ⟨_, if_neg (Nat.not_lt.mpr htemp), rfl, State.logErr_garnetStore .., State.logErr_mem ..⟩

theorem State.thermalClear_eq (s : State) {tray temp : Nat}
    (h : ((s.tray tray).hot = true ∧ temp < 90) ∨ ((s.tray tray).crit = true ∧ temp < 100)) :
    s.thermalClear tray temp = some ((((s.setTemp tray temp).modTray tray fun t =>
      { t with hot := t.hot && decide (90 ≤ temp), crit := t.crit && decide (100 ≤ temp) }).onMod Mod.rethrottle).retarget tray) :=
  if_pos (by simpa using h)

end Sys2Proof.Machine

/-! SUPPORT. The obligation about channels and power (03 R75 to R84; 17 R402 to R408). -/

namespace Sys2Proof.Machine

/-- Settles O49: each event by the equation that says what it does, and by what that leaves as it was. -/
theorem channelsAndPowerFollowTheirRules : Obligations.ChannelsAndPowerFollowTheirRules := by
  unfold Obligations.ChannelsAndPowerFollowTheirRules
  refine ⟨fun s ch l k bad far hch hend => ?channels, fun s tray temp port st htray hport => ?power⟩
  case channels =>
    intro c chan line sec key pending
    have hmod (u : State) (f : Chan → Chan) : chan (u.modChan ch f) = f (chan u) := u.chan_modChan_same ch f
    have hacc : (decide (ch < 256) && decide (l + k ≤ 0x60000000)) = true := by simp [hch, hend]
    refine ⟨fun hk hfit => ⟨fun hwait => ?write, fun hmiss hheld hout hline => ?pends, fun hmiss hnew => ?waits, fun hhit => ?hit⟩,
      fun hl hreads hline => ?past, fun ln hl hreads hline hv => ?fill, ?slot, fun hwait hnone hleft => ?allBank, fun hall => ?endAll,
      fun hall hbanks => ?endBanks⟩
    case write => exact acts_of_eventOf (exec_l2Access ..) hacc (State.l2Event_write hk hfit hwait) (.of_mem (s.l2Access_mem ..))
    case hit =>
      exact acts_of_eventOf (exec_l2Access ..) hacc (State.l2Event_read_hit hk hfit hhit)
        ⟨congrArg Chan.reads (s.l2Access_chan ..), .of_mem (s.l2Access_mem ..)⟩
    case pends =>
      obtain ⟨hmem, hhas⟩ := s.lineForRead_frame (hbmKey ch l) far hline
      refine acts_of_eventOf (exec_l2Access ..) hacc (State.l2Event_read_pends hk hfit hmiss hheld hout hline) ⟨?_, hhas, .of_mem hmem⟩
      rw [hmod]
      exact mem_sadd.mpr (.inl rfl)
    case waits =>
      obtain ⟨hmem, hl2, hq⟩ := State.queueAt_other_frame hnew
      rw [keyCh_hbmKey (by omega)] at hq
      have hchan : chan (s.queueAt .other (hbmKey ch l)) = { c with others := c.others ++ [(key, s.m.mxStamp)] } := hq
      refine ⟨fun hheld => ?_, fun hheld hout => ?_⟩
      · refine acts_of_eventOf (exec_l2Access ..) hacc (State.l2Event_read_held hk hfit hmiss hheld hnew) ?_
        rw [State.stallBegins, hmod, hchan]
        exact ⟨rfl, rfl, rfl, hl2, .of_mem hmem⟩
      · refine acts_of_eventOf (exec_l2Access ..) hacc (State.l2Event_read_outrun hk hfit hmiss hheld hout hnew) ?_
        rw [hchan]
        exact ⟨rfl, rfl, rfl, hl2, .of_mem hmem⟩
    case past =>
      have hfilled : (chan (s.fillLeaves ch (hbmKey ch l) bad)).reads = sdel c.reads key := s.fillLeaves_reads ..
      refine acts_of_eventOf (exec_sectorFill ..) (by simp [hch, hl]) (State.sectorFill_noLine bad hreads hline) ?_
      rw [hmod]
      exact ⟨hfilled ▸ not_mem_sdel _ _, mem_sadd.mpr (.inl rfl), .of_mem (s.fillLeaves_frame ..).1⟩
    case fill =>
      obtain ⟨hmem, hchans⟩ := (s.fillLeaves ch (hbmKey ch l) bad).fillLine_frame (hbmKey ch l) sec ln
      obtain ⟨y, hy, hvalid, hpoison⟩ := (s.fillLeaves ch (hbmKey ch l) bad).fillLine_line (hbmKey ch l) (Nat.mod_lt (l / 64) (by decide)) ln
      have hfilled : (chan ((s.fillLeaves ch (hbmKey ch l) bad).fillLine (hbmKey ch l) sec ln)).reads = sdel c.reads key := by
        simp only [chan, hchans]
        exact s.fillLeaves_reads ..
      refine acts_of_eventOf (exec_sectorFill ..) (by simp [hch, hl]) (State.sectorFill_line bad hreads hline hv)
        ⟨hfilled ▸ not_mem_sdel _ _, .of_mem (hmem.trans (s.fillLeaves_frame ..).1), y, hy, hvalid, ?_⟩
      rintro rfl
      exact hpoison (s.fillLeaves_poisonS ..)
    case slot =>
      refine acts_of_eventOf (exec_refreshSlot ..) (decide_eq_true hch) rfl ?_
      rw [hmod]
      refine ⟨.of_mem rfl, Chan.slot_reads .., fun hunder => ?underRefresh,
        fun hall hwait => ⟨fun hp howed => ?owes, fun hp howed => ?forces, fun hidle howed => ?refreshes, fun hidle howed => ?repays⟩⟩
      case underRefresh =>
        rw [Chan.slot_underRefresh hunder]
        exact ⟨rfl, rfl⟩
      case owes =>
        rw [Chan.slot_owes hall hwait _ hp howed]
        exact ⟨rfl, rfl, rfl⟩
      case forces =>
        rw [Chan.slot_forces hall hwait _ hp howed]
        exact ⟨rfl, howed, rfl⟩
      case refreshes =>
        rw [Chan.slot_refreshes hall hwait _ hidle howed]
        exact ⟨mem_sadd.mpr (.inl rfl), rfl⟩
      case repays =>
        rw [Chan.slot_repays hall hwait _ hidle howed]
        exact ⟨mem_sadd.mpr (.inr (mem_sadd.mpr (.inl rfl))), mem_sadd.mpr (.inl rfl), rfl, rfl⟩
    case allBank =>
      refine acts_of_eventOf (exec_allBankRefreshStart ..) (decide_eq_true hch) (s.allBankStart_eq hwait hnone hleft) ?_
      rw [hmod]
      exact ⟨rfl, rfl, rfl, .of_mem rfl⟩
    case endAll =>
      refine acts_of_eventOf (exec_refreshEnd ..) (decide_eq_true hch) (s.refreshEnd_eq (.inl hall)) ?_
      rw [hmod]
      exact ⟨rfl, .of_mem rfl, fun t0 => Chan.refreshed_stall⟩
    case endBanks =>
      refine acts_of_eventOf (exec_refreshEnd ..) (decide_eq_true hch) (s.refreshEnd_eq (.inr hbanks)) ?_
      rw [hmod]
      exact ⟨Chan.refreshed_banks hall _, .of_mem rfl⟩
  case power =>
    intro x p told
    have hunit : decide (tray < 512) = true := decide_eq_true htray
    refine ⟨fun step at0 htrans => ?transition, ?droop, fun at0 hdroop => ?droopEnd, ?cap, fun hactive => ?peer, fun hhot htemp => ?warn,
      fun hcrit htemp => ?crit, fun htemp => ?trip, fun hcool => ?clear⟩
    case transition =>
      refine acts_of_eventOf (exec_opTransitionEnd ..) hunit (s.transitionEnd_eq htrans) ⟨?_, .of_mem (by simp)⟩
      rw [State.retarget_tray, State.tray_modTray, if_pos rfl]
    case droop =>
      obtain ⟨hmem, hpower⟩ := s.droopDetect_frame tray
      refine acts_of_eventOf (exec_droopDetect ..) hunit rfl ⟨by rw [hpower], .of_mem hmem, fun hhold => ?_, fun hhold => ?_⟩
      · rw [State.droopDetect_droop, if_neg hhold]
      · rw [State.droopDetect_droop, if_pos hhold]
    case droopEnd =>
      refine acts_of_eventOf (exec_droopHoldEnd ..) hunit (s.droopEnd_eq hdroop) ⟨?_, Nat.le_max_right .., .of_mem rfl⟩
      rw [State.tray_modTray, if_pos rfl]
    case cap =>
      obtain ⟨hwindow, hcarry, hstep, hwover, hovsh⟩ := s.capWindowEnd_power
      refine acts_of_eventOf (exec_capWindowEnd s) rfl rfl ⟨.of_mem s.capWindowEnd_frame.1, hwindow, hcarry, fun hover => ?_, fun hwithin => ?_⟩
      · exact ⟨hstep.trans (if_pos hover), hwover.trans (if_pos hover), hovsh.trans (if_pos hover)⟩
      · have hnot := Nat.not_lt.mpr hwithin
        exact ⟨hwover.trans (if_neg hnot), hovsh.trans (if_neg hnot), hstep.trans (if_neg hnot)⟩
    case peer =>
      have hlink : decide (port < 16) = true := decide_eq_true hport
      refine ⟨acts_of_eventOf (exec_peerThrottled ..) hlink (s.peerThrottled_eq hactive st true) ⟨?_, .of_mem rfl⟩,
        acts_of_eventOf (exec_peerThrottled ..) hlink (s.peerThrottled_eq hactive st false) ⟨?_, .of_mem rfl⟩⟩
      · exact (tget?_tset ..).trans (if_pos rfl)
      · exact (tget?_tdel ..).trans (if_pos rfl)
    case warn =>
      refine acts_of_eventOf (exec_thermalWarn ..) hunit (s.thermalWarn_eq hhot htemp) ⟨?_, fun j hj => ?_, .of_mem ?_⟩
      · rw [State.thermalCause_tray, State.tray_modTray, if_pos rfl]
      · rw [State.thermalCause_hartAt _ _ _ _ hj, Hart.thermal_asy]
        rfl
      · rw [State.thermalCause_m]
        rfl
    case crit =>
      obtain ⟨_, hmarked⟩ := s.tray_retarget_marked tray temp fun t => { t with crit := true }
      refine acts_of_eventOf (exec_thermalCrit ..) hunit (s.thermalCrit_eq hcrit htemp) ⟨?_, ?_, fun j hj => ?_, .of_mem ?_⟩
      · rw [State.thermalCause_tray, hmarked]
      · rw [State.thermalCause_tray, hmarked]
        rfl
      · rw [State.thermalCause_hartAt _ _ _ _ hj, Hart.thermal_asy, State.retarget_hartAt]
        rfl
      · rw [State.thermalCause_m, State.retarget_mem]
        rfl
    case trip =>
      obtain ⟨t, ht, hstop, hstore, hmem⟩ := s.thermalTrip_frame tray htemp
      exact acts_of_eventOf (exec_thermalTrip ..) hunit ht ⟨hstop, hstore, .of_mem hmem⟩
    case clear =>
      obtain ⟨_, hmarked⟩ := s.tray_retarget_marked tray temp fun t =>
        { t with hot := t.hot && decide (90 ≤ temp), crit := t.crit && decide (100 ≤ temp) }
      exact acts_of_eventOf (exec_thermalClear ..) hunit (s.thermalClear_eq hcool)
        ⟨by rw [hmarked], by rw [hmarked], .of_mem (State.retarget_mem ..)⟩

end Sys2Proof.Machine

/-! SUPPORT. Fences (04 R97, R103; 10 R237, R238). -/

namespace Sys2Proof.Machine

/-! ## Instructions that wait and retire -/

/-- Where an operation succeeds, the next goes on from its result. -/
theorem R.ok_bind {α β : Type} (x : α) (f : α → R β) : ((.ok x : R α) >>= f) = f x := rfl

/-- Retiring alone has the frame of an instruction without a destination. -/
theorem retire_frame_self (s : State) (r : Ret) : Frame s (s.retire r) [] [] :=
  retire_frame s id r [] [] rfl (fun _ _ => rfl) fun _ _ => rfl

theorem retire_movesOn_self (s : State) (r : Ret) : MovesOn s (s.retire r) := ⟨State.retire_slot .., State.retire_pc ..⟩

/-- Every frame leaves open which bytes are fixed for later loads. -/
theorem Frame.withEarly {s t : State} {cs : List CReg} {vs : List VReg} (h : Frame s t cs vs) (b : List Host.Cell) (g : Tbl Bool) :
    Frame s (t.onHart fun h => { h with early := b, earlyTags := g }) cs vs where
  c := h.c
  v := h.v
  ctl := h.ctl
  hart := congrArg (fun x : Hart => { x with early := b, earlyTags := g }) h.hart
  trays := h.trays
  mod := h.mod
  mem := h.mem
  rest := h.rest

/-- An instruction that only retires passes. -/
theorem passes_of_retire {s : State} {i : Instr} {r : Ret} (h : exec i s = .next (s.retire r)) : Passes s i :=
  ⟨_, h, retire_frame_self s r, State.retire_arstat s r, retire_movesOn_self s r⟩

/-- So does one that fixes bytes for later loads once it has retired. -/
theorem passes_of_retire_early {s : State} {i : Instr} {r : Ret} {b : List Host.Cell} {g : Tbl Bool}
    (h : exec i s = .next ((s.retire r).onHart fun h => { h with early := b, earlyTags := g })) : Passes s i :=
  ⟨_, h, (retire_frame_self s r).withEarly b g, State.retire_arstat s r, retire_movesOn_self s r⟩

/-- A change of the fetch's lines and micro-TLB entries, once it retires, keeps what an instruction without a destination keeps. -/
theorem forgetFetch_keeps (s : State) (r : Ret) : Keeps s ((s.onHart (·.forgetFetch)).retire r) [] [] where
  c := by simp [Hart.forgetFetch]
  v := by simp [Hart.forgetFetch]
  q := by simp [Hart.forgetFetch]
  lvl := by simp [Hart.forgetFetch]
  banks := by rw [State.retire_hart]; exact ⟨rfl, rfl, rfl⟩
  id := by rw [State.retire_hart]; rfl
  ctl := by rw [State.retire_hart]; rfl

/-! ## What a fence waits for -/

/-- The stores and engine issues that a fence of a scope covers are done (04 R93, R97). -/
theorem Hart.fenced_of {h : Hart} {scope : Nat} (hcpq : ∀ c ∈ h.cpq, c.inL1 = false) (hstores : ∀ e ∈ h.sb ++ h.posted, max 1 scope < e.scope) :
    h.fenced scope = true := by
  have hissued : h.issued = true := List.all_eq_true.mpr fun c hc => by simp [hcpq c hc]
  have hperformed : (h.sb ++ h.posted).all (fun e => decide (max 1 scope < e.scope)) = true :=
    List.all_eq_true.mpr fun e he => decide_eq_true (hstores e he)
  rw [Hart.fenced, hissued, hperformed]
  rfl

/-- The engine operations of the hart are final (04 R103). -/
theorem State.enginesDone_of_idle {s : State} (h : s.EnginesIdle) : s.enginesDone = true := by
  obtain ⟨hcpq, hqueue, hops⟩ := h
  simp only [State.enginesDone, hcpq, hqueue, List.isEmpty_nil, Bool.true_and, List.all_eq_true]
  intro o ho
  by_cases hmine : o.2.cmd.hart = s.cur ∧ o.2.cmd.gang = s.hart.gang
  · rcases hops o ho hmine.1 hmine.2 with ⟨hstream, hread⟩ | habort | hfinal
    · simp [hstream, hread]
    · simp [EngOp.final, habort]
    · have hall : o.2.dels.all (·.final) = true := List.all_eq_true.mpr hfinal
      simp [EngOp.final, hall]
  · rcases Decidable.not_and_iff_or_not.mp hmine with hother | hother <;> simp [hother]

/-- Without a command there is nothing in the window to flush. -/
theorem State.flushWindow_of_noQueue {s : State} (h : s.hart.mx.queue = []) : s.flushWindow s.cur = s := by
  have hflush : s.hart.mx.flush false = s.hart.mx := by simp [MxSt.flush, h]
  simp [State.flushWindow, State.modHart, State.hartAt, State.setHartAt, hflush]

/-! ## FENCE, FENCE.E and FENCE.I -/

/-- FENCE that waits for no store, or for none that is left, passes. -/
theorem fence_passes {s : State} (n : Fin 4) {mask : Fin 16} {scope : Fin 4}
    (h : mask.val % 4 ≠ 0 → s.hart.pair.held = [] ∧ s.hart.fenced scope.val = true) : Passes s (.fence n mask scope) := by
  have hexec : exec (.fence n mask scope) s =
      let t := s.retire { s := n, maj := 0x1E }
      .next (if mask.val / 8 = 1 ∨ mask.val / 2 % 2 = 1 then t else t.onHart fun h => { h with early := s.hart.early, earlyTags := s.hart.earlyTags }) := by
    rw [exec_fence, execFence]
    by_cases hmask : mask.val % 4 = 0
    · simp [hmask, guardWait, R.ok_bind, complete]
    · obtain ⟨hheld, hfenced⟩ := h hmask
      simp [hheld, hfenced, guardWait, R.ok_bind, complete]
  split at hexec
  · exact passes_of_retire hexec
  · exact passes_of_retire_early hexec

/-- Settles O12: what each fence waits for is done, so it retires, and FENCE.I drops the lines and the fetch micro-TLB entries. -/
theorem fencesComplete : Obligations.FencesComplete := by
  unfold Obligations.FencesComplete
  intro s n mask scope
  refine ⟨fun hdone => ?fence, fun hidle => ?fenceE, fun hheld hsb => ?fenceI⟩
  case fence =>
    refine fence_passes n fun hmask => ?_
    obtain ⟨hheld, hcpq, hstores⟩ := hdone hmask
    exact ⟨hheld, Hart.fenced_of hcpq hstores⟩
  case fenceE =>
    have ⟨_, hqueue, _⟩ := hidle
    refine passes_of_retire (r := { s := n, maj := 0x1E }) ?_
    simp [exec_fenceE, execFenceE, State.flushWindow_of_noQueue hqueue, State.enginesDone_of_idle hidle, guardWait, R.ok_bind, complete]
  case fenceI =>
    refine ⟨(s.onHart (·.forgetFetch)).retire { s := n, maj := 0x1E }, ?exec, ?lines, ?utlb, forgetFetch_keeps s _, State.retire_arstat ..,
      retire_movesOn s _ _ ⟨rfl, rfl, rfl⟩, .of_mem (State.retire_mem ..)⟩
    case exec =>
      simp [exec_fenceI, execFenceI, hheld, hsb, guardWait, R.ok_bind, complete]
    case lines => rw [State.retire_hart]; rfl
    case utlb => rw [State.retire_hart]; rfl

end Sys2Proof.Machine

/-! SUPPORT. What goes on beside a write at its home: the error log, the L2, the channels, the undo log and the facets (02 R45; 03 R74 to
R83; 07 R158; 16 R379, R390). -/

namespace Sys2Proof.Machine

/-! ## Steps that leave the harts alone -/

/-- Every hart, whose turn it is, and the choices of pieces of accesses are as before. -/
structure State.SameHarts (s t : State) : Prop where
  hart : t.hart = s.hart
  parked : t.parked = s.parked
  cur : t.cur = s.cur
  splits : t.splits = s.splits

/-- No gang in flight has rollback (16 R389). -/
def State.NoRollback (s : State) : Prop := ∀ g ∈ s.m.gangs, g.2.roll = none

/-- What goes on beside a write: no hart changes, and where no gang has rollback, so that no undo log takes an entry, no byte, no tag
and no gang does. -/
structure State.Aside (s t : State) : Prop extends s.SameHarts t where
  store : s.NoRollback → t.m.mem = s.m.mem ∧ t.m.tags = s.m.tags ∧ t.m.gangs = s.m.gangs

theorem State.SameHarts.refl (s : State) : s.SameHarts s := ⟨rfl, rfl, rfl, rfl⟩

theorem State.SameHarts.trans {s t u : State} (h1 : s.SameHarts t) (h2 : t.SameHarts u) : s.SameHarts u :=
  ⟨h2.hart.trans h1.hart, h2.parked.trans h1.parked, h2.cur.trans h1.cur, h2.splits.trans h1.splits⟩

theorem State.SameHarts.hartAt {s t : State} (h : s.SameHarts t) (n : Nat) : t.hartAt n = s.hartAt n := by
  rw [State.hartAt, State.hartAt, h.hart, h.parked, h.cur]

theorem State.sameHarts_onMod (s : State) (f : Mod → Mod) : s.SameHarts (s.onMod f) := ⟨rfl, rfl, rfl, rfl⟩

theorem State.sameHarts_foldl {α : Type} {f : State → α → State} (hf : ∀ (u : State) x, u.SameHarts (f u x)) (l : List α) (s : State) :
    s.SameHarts (l.foldl f s) :=
  List.foldlRecOn (motive := s.SameHarts) l f (.refl s) fun _ hu x _ => hu.trans (hf _ x)

theorem State.Aside.refl (s : State) : s.Aside s := ⟨.refl s, fun _ => ⟨rfl, rfl, rfl⟩⟩

theorem State.Aside.noRollback {s t : State} (h : s.Aside t) (hs : s.NoRollback) : t.NoRollback := by
  rw [State.NoRollback, (h.store hs).2.2]
  exact hs

theorem State.Aside.trans {s t u : State} (h1 : s.Aside t) (h2 : t.Aside u) : s.Aside u where
  toSameHarts := h1.toSameHarts.trans h2.toSameHarts
  store hs := by
    obtain ⟨hmem, htags, hgangs⟩ := h1.store hs
    obtain ⟨hmem', htags', hgangs'⟩ := h2.store (h1.noRollback hs)
    exact ⟨hmem'.trans hmem, htags'.trans htags, hgangs'.trans hgangs⟩

theorem State.aside_foldl {α : Type} {f : State → α → State} (hf : ∀ (u : State) x, u.Aside (f u x)) (l : List α) (s : State) :
    s.Aside (l.foldl f s) :=
  List.foldlRecOn (motive := s.Aside) l f (.refl s) fun _ hu x _ => hu.trans (hf _ x)

theorem State.aside_ite {s t u : State} (p : Prop) [Decidable p] (ht : s.Aside t) (hu : s.Aside u) : s.Aside (if p then t else u) := by
  split
  · exact ht
  · exact hu

/-- A change of the module that keeps bytes, tags and gangs. -/
theorem State.aside_onMod (s : State) {f : Mod → Mod} (hmem : (f s.m).mem = s.m.mem) (htags : (f s.m).tags = s.m.tags)
    (hgangs : (f s.m).gangs = s.m.gangs) : s.Aside (s.onMod f) :=
  ⟨s.sameHarts_onMod f, fun _ => ⟨hmem, htags, hgangs⟩⟩

theorem State.aside_modHearth (s : State) (n : Nat) {f : Hearth → Hearth} : s.Aside (s.modHearth n f) := s.aside_onMod rfl rfl rfl

theorem State.aside_modChan (s : State) (n : Nat) {f : Chan → Chan} : s.Aside (s.modChan n f) := s.aside_onMod rfl rfl rfl

/-! ## The error log and the storage codes (16 R379, R382) -/

theorem State.aside_hostEvent (s : State) (ctx : Nat) (body : List Nat) : s.Aside (s.hostEvent ctx body) :=
  ⟨⟨rfl, rfl, rfl, rfl⟩, fun _ => ⟨rfl, rfl, rfl⟩⟩

theorem State.aside_modGarnet (s : State) (f : GLog → GLog) : s.Aside (s.modGarnet f) := s.aside_onMod rfl rfl rfl

theorem State.aside_logErr (s : State) (unit sev site sub addr syn cause : Nat) (inj : Bool) :
    s.Aside (s.logErr unit sev site sub addr syn cause inj) := by
  unfold State.logErr
  dsimp only
  refine .trans (.trans (.trans ?bank (State.aside_ite _ ?garnet (.refl _))) (State.aside_ite _ ?event (.refl _))) (State.aside_foldl (fun u off => ?counter) _ _)
  case bank => exact s.aside_onMod rfl rfl rfl
  case garnet => exact State.aside_modGarnet ..
  case event => exact State.aside_hostEvent ..
  case counter => exact .trans (u.aside_modGarnet _) (State.aside_ite _ (State.aside_hostEvent ..) (.refl _))

theorem State.aside_scrubWord (s : State) (w : Nat) : s.Aside (s.scrubWord w) := by
  unfold State.scrubWord
  dsimp only
  split
  · exact .refl s
  · refine .trans (s.aside_onMod (f := fun m => { m with flips := tdel m.flips w }) rfl rfl rfl) ?_
    split
    · exact .refl _
    · split
      · exact State.aside_logErr ..
      · exact .trans (State.aside_onMod _ rfl rfl rfl) (State.aside_logErr ..)

theorem State.aside_scrub (s : State) (keys : List Nat) : s.Aside (s.scrub keys) :=
  State.aside_ite _ (.refl s) (State.aside_foldl State.aside_scrubWord _ _)

theorem State.aside_unpoison (s : State) (keys : List Nat) : s.Aside (s.onMod (·.unpoison keys)) := by
  refine s.aside_onMod ?_ ?_ (s.m.unpoison_gangs keys) <;> (unfold Mod.unpoison; split <;> rfl)

/-- A write leaves records of a task queue undefined at most (08 R184). -/
theorem State.aside_disturb (s : State) (keys : List Nat) : s.Aside (s.disturb keys) :=
  State.aside_ite _ (.refl s) ⟨⟨rfl, rfl, rfl, rfl⟩, fun _ => ⟨rfl, rfl, rfl⟩⟩

/-! ## The undo log (16 R390) -/

theorem State.sameHarts_modGang (s : State) (n : Nat) (f : Gang → Gang) : s.SameHarts (s.modGang n f) := by
  unfold State.modGang
  split
  · exact s.sameHarts_onMod _
  · exact .refl s

theorem State.sameHarts_putUndo (s : State) (pa : Nat) (l : List Byte) : s.SameHarts (s.putUndo pa l) := by
  refine .trans ?_ (State.sameHarts_onMod _ _)
  split
  · exact .refl s
  · exact (s.aside_disturb _).toSameHarts

theorem State.sameHarts_appendUndo (s : State) (gang : Nat) (g : Gang) (r : Roll) (e : Undo) (code : Nat) :
    s.SameHarts (s.appendUndo gang g r e code) := by
  unfold State.appendUndo
  dsimp only
  split
  · exact s.sameHarts_modGang ..
  · refine .trans ?_ (State.sameHarts_putUndo ..)
    obtain ⟨hhart, hparked, hcur, hsplits⟩ := s.sameHarts_modGang gang fun g => { g with roll := some { r with marks := (e.hearth, code) :: r.marks, log := r.log ++ [e] } }
    exact ⟨hhart, hparked, hcur, hsplits⟩

theorem State.aside_logUndo (s : State) (mine : Gang → Bool) (hearth kind index : Nat) (u : State → Undo) :
    s.Aside (s.logUndo mine hearth kind index u) := by
  unfold State.logUndo
  dsimp only
  split
  · exact .refl s
  · next hgs =>
    refine ⟨.trans (.trans ?scrub (State.sameHarts_onMod _ _)) (State.sameHarts_foldl (fun v g => ?append) _ _), fun hs => absurd ?none hgs⟩
    case scrub => exact (State.aside_ite _ (s.aside_scrub _) (.refl s)).toSameHarts
    case append =>
      split
      · exact v.sameHarts_appendUndo ..
      · exact .refl v
    case none =>
      rw [List.isEmpty_iff, List.filter_eq_nil_iff]
      intro g hg
      simp [hs g hg]

/-! ## Facets (07 R158) -/

theorem State.aside_setFacet (s : State) (ctx hearth r : Nat) (x : BitVec 128) : s.Aside (s.setFacet ctx hearth r x) :=
  .trans (s.aside_logUndo ..) (State.aside_modHearth ..)

theorem State.aside_scrubRecord (s : State) (hearth : Nat) (t : Tile) (n : Nat) : s.Aside (s.scrubRecord hearth t n) := by
  unfold State.scrubRecord
  dsimp only
  split
  · exact .refl s
  · refine .trans (s.aside_onMod (f := fun m => { m with flipF := tdel m.flipF (flipKey hearth (t.run + n)) }) rfl rfl rfl) ?_
    split
    · exact .refl _
    · exact State.aside_logErr ..
    · exact .trans (State.aside_setFacet ..) (State.aside_logErr ..)

theorem State.aside_scrubTile (s : State) (hearth : Nat) (t : Tile) : s.Aside (s.scrubTile hearth t) :=
  State.aside_ite _ (.refl s) (State.aside_foldl (fun u _ => u.aside_scrubRecord ..) _ _)

theorem State.aside_facetWrites (s : State) (old : Mod) (hearth : Nat) (offs : List Nat) : s.Aside (s.facetWrites old hearth offs) := by
  refine State.aside_foldl (fun u e => .trans ?scrub (State.aside_foldl (fun v ij => ?element) _ _)) _ _
  case scrub => exact State.aside_ite _ (.refl u) (u.aside_scrubTile ..)
  case element => exact .trans (v.aside_setFacet ..) (State.aside_setFacet ..)

/-! ## The L2 and its channels (03 R74 to R83) -/

theorem State.aside_l2Line {s t : State} {line : Nat} {alloc : Bool} (h : s.l2Line line alloc = some t) : s.Aside t := by
  unfold State.l2Line at h
  split at h
  · exact Option.some.inj h ▸ .refl s
  · split at h
    · obtain ⟨way, _, rfl⟩ := Option.map_eq_some_iff.mp h
      exact s.aside_onMod rfl rfl rfl
    · contradiction

theorem State.aside_l2Line_getD (s : State) (line : Nat) (alloc : Bool) : s.Aside ((s.l2Line line alloc).getD s) := by
  cases h : s.l2Line line alloc with
  | none => exact .refl s
  | some t => exact State.aside_l2Line h

theorem State.aside_l2Touch (s : State) (k : Nat) (msk : BitVec 256) (write fill alloc : Bool) :
    s.Aside (s.l2Touch k msk write fill alloc).1 := by
  unfold State.l2Touch
  split
  · exact .refl s
  · dsimp only
    split
    · exact State.aside_ite _ (State.aside_logErr ..) (.refl _)
    · next t ht =>
      dsimp only
      exact .trans (.trans (State.aside_l2Line ht) (State.aside_ite _ (State.aside_logErr ..) (.refl _))) (State.aside_onMod _ rfl rfl rfl)

theorem State.aside_l2Writes (s : State) (keys : List Nat) (fill alloc : Bool) : s.Aside (s.l2Writes keys fill alloc) :=
  State.aside_foldl (fun u _ => u.aside_l2Touch ..) _ _

theorem State.aside_setReaderWait_other (s : State) (k : Nat) (w : Option (Nat × Nat)) : s.Aside (s.setReaderWait .other k w) :=
  State.aside_ite _ (.refl s) (s.aside_modChan _)

theorem State.aside_queueAt_other (s : State) (k : Nat) : s.Aside (s.queueAt .other k) :=
  State.aside_ite _ (.refl s) (.trans (s.aside_setReaderWait_other ..) (State.aside_onMod _ rfl rfl rfl))

/-- A choice of what a read finds pending is no part of a write either. -/
theorem State.Aside.withPends {s t : State} (h : s.Aside t) (l : List Bool) : s.Aside { t with pends := l } :=
  ⟨⟨h.hart, h.parked, h.cur, h.splits⟩, h.store⟩

theorem State.aside_sectorRead_other (s : State) (at0 : Nat) (alloc : Bool) (k : Nat) : s.Aside (s.sectorRead .other at0 alloc k).1 := by
  have hunwait := s.aside_setReaderWait_other k none
  unfold State.sectorRead
  dsimp only
  split
  · exact .refl s
  · split
    · exact .trans (s.aside_queueAt_other k) (State.aside_modChan ..)
    · split
      · exact s.aside_queueAt_other k
      · split
        · exact .refl s
        · split
          · exact .trans (.trans (hunwait.withPends _) (State.aside_l2Line_getD ..)) (State.aside_modChan ..)
          · exact hunwait.withPends _

theorem State.aside_channelRead_other (s : State) (at0 : Nat) (keys : List Nat) (whole alloc : Bool) :
    s.Aside (s.channelRead .other at0 keys whole alloc).1 := by
  have hreads (l : List Nat) : s.Aside (l.foldl (fun (p : State × Bool) k => if p.2 then p.1.sectorRead .other at0 alloc k else p) (s, true)).1 :=
    List.foldlRecOn (motive := fun p : State × Bool => s.Aside p.1) l _ (.refl s) fun p hp k _ => by
      split
      · exact .trans hp (State.aside_sectorRead_other ..)
      · exact hp
  unfold State.channelRead
  dsimp only
  split
  · exact .trans (hreads _) (State.aside_foldl (fun u _ => u.aside_modChan _) _ _)
  · exact hreads _

end Sys2Proof.Machine

/-! SUPPORT. What a write at its home leaves in memory, in the tags and in the harts (01 R23; 02 R52; 04 R89, R90, R99; 14 R353). -/

namespace Sys2Proof.Machine

/-! ## Bytes with their effects (01 R23) -/

/-- The bytes of some cells are written and the tags of their granules cleared. -/
def Mod.putCells (m : Mod) (cells : List Host.Cell) : Mod :=
  let gran := (cells.map (·.1)).foldl (fun l k => sadd l (k / 16)) []
  { m with mem := msets m.mem cells, tags := if m.tags.isEmpty then [] else m.tags.filter fun g => !(gran.contains g) }

theorem mem_foldl_sadd {keys l : List Nat} {f : Nat → Nat} {g : Nat} : g ∈ keys.foldl (fun l k => sadd l (f k)) l ↔ (∃ k ∈ keys, f k = g) ∨ g ∈ l := by
  induction keys generalizing l with
  | nil => simp
  | cons k r ih =>
    have hsplit : (∃ j ∈ k :: r, f j = g) ↔ f k = g ∨ ∃ j ∈ r, f j = g := by
      simp only [List.mem_cons, or_and_right, exists_or, exists_eq_left]
    rw [List.foldl_cons, ih, mem_sadd, hsplit, eq_comm (a := g), or_left_comm, or_assoc]

theorem State.tagAt_congr {s t : State} (h : t.m.tags = s.m.tags) (k : Nat) : t.tagAt k = s.tagAt k := by rw [State.tagAt, State.tagAt, h]

theorem State.clearsTags_putCells (s : State) (cells : List Host.Cell) : ClearsTags s (s.onMod (·.putCells cells)) (cells.map (·.1)) := by
  intro k
  have htags (g : Nat) : g ∈ (s.m.putCells cells).tags ↔ g ∈ s.m.tags ∧ ¬ ∃ j ∈ cells.map (·.1), j / 16 = g := by
    simp only [Mod.putCells]
    split
    · next h => simp [List.isEmpty_iff.mp h]
    · simp only [List.mem_filter, Bool.not_eq_true', List.contains_eq_mem, decide_eq_false_iff_not, mem_foldl_sadd, List.not_mem_nil, or_false]
  rw [Bool.eq_iff_iff]
  simp only [State.tagAt, State.onMod_m, List.contains_eq_mem, Bool.and_eq_true, decide_eq_true_eq, htags]
  split
  · next h => simp only [h, not_true_eq_false, and_false, Bool.false_eq_true]
  · next h => simp only [h, not_false_eq_true, and_true, Bool.and_eq_true, decide_eq_true_eq]

/-- The state in which the bytes at some locations are written: task queues disturbed, flipped words of which some bytes stay read, the
undo log filled. -/
def State.readied (s : State) (keys : List Nat) : State :=
  let s := s.disturb keys
  let s := if s.m.flips.isEmpty then s else s.scrub (keys.filter fun k => !((keysFrom (k / 8 * 8) 8).all keys.contains))
  (keys.foldl (fun l k => if isL1 k then sadd l (k / 256) else l) []).foldl (fun s b => s.logL1 (256 * b)) s

theorem State.aside_readied (s : State) (keys : List Nat) : s.Aside (s.readied keys) :=
  .trans (.trans (s.aside_disturb keys) (State.aside_ite _ (.refl _) (State.aside_scrub ..)))
    (State.aside_foldl (fun u _ => u.aside_logUndo ..) _ _)

/-- A write of cells is their bytes and tags between what goes on beside it. -/
theorem State.writeCells_aside (s : State) (cells : List Host.Cell) :
    ∃ u, s.Aside u ∧ (u.onMod (·.putCells (cells.filter fun c => c.1 != noKey))).Aside (s.writeCells cells) := by
  let keys := (cells.filter fun c => c.1 != noKey).map (·.1)
  refine ⟨s.readied keys, s.aside_readied keys, .trans (State.aside_unpoison _ keys) ?_⟩
  exact State.aside_ite _ (.refl _) (State.aside_foldl (fun v _ => State.aside_ite _ (.refl v) (v.aside_facetWrites ..)) _ _)

theorem State.sameHarts_writeCells (s : State) (cells : List Host.Cell) : s.SameHarts (s.writeCells cells) := by
  obtain ⟨u, hbefore, hafter⟩ := s.writeCells_aside cells
  exact hbefore.toSameHarts.trans (.trans (u.sameHarts_onMod _) hafter.toSameHarts)

/-- A location of L1 or HBM is no device register, answers, and lies below all others. -/
theorem home_bounds {k : Nat} (h : isL1 k = true ∨ isHbm k = true) : isDev k = false ∧ k ≠ noKey ∧ k < 0x10000000000 := by
  simp only [isL1, isHbm, Bool.and_eq_true, decide_eq_true_eq] at h
  have hbelow : k < 0x10000000000 := by omega
  have hdev : ¬ devBase ≤ k := by
    unfold devBase
    omega
  have hkey : k ≠ noKey := by
    unfold noKey
    omega
  exact ⟨by simp [isDev, hdev], hkey, hbelow⟩

section
variable {cells : List Host.Cell}

/-- Where nothing is written to a device register, a write is one of cells. -/
theorem State.writeAny_notDev (s : State) (full : Bool) (hdev : ∀ c ∈ cells, isDev c.1 = false) : s.writeAny full cells = s.writeCells cells := by
  have hnone : cells.filter (fun c => isDev c.1) = [] := List.filter_eq_nil_iff.mpr fun c hc => by simp [hdev c hc]
  have hall : cells.filter (fun c => !isDev c.1) = cells := List.filter_eq_self.mpr fun c hc => by simp [hdev c hc]
  simp only [State.writeAny, hnone, hall, List.isEmpty_nil, if_true]

/-- A write to L1 and HBM where no gang has rollback. -/
theorem State.writeAny_home (s : State) (full : Bool) (hroll : s.NoRollback) (hhome : ∀ c ∈ cells, isL1 c.1 = true ∨ isHbm c.1 = true) :
    s.SameHarts (s.writeAny full cells) ∧ (s.writeAny full cells).m.mem = msets s.m.mem cells ∧
      ClearsTags s (s.writeAny full cells) (cells.map (·.1)) := by
  have hall : cells.filter (fun c => c.1 != noKey) = cells := List.filter_eq_self.mpr fun c hc => bne_iff_ne.mpr (home_bounds (hhome c hc)).2.1
  rw [s.writeAny_notDev full fun c hc => (home_bounds (hhome c hc)).1]
  obtain ⟨u, hbefore, hafter⟩ := s.writeCells_aside cells
  rw [hall] at hafter
  obtain ⟨hmem, htags, _⟩ := hbefore.store hroll
  obtain ⟨hmem', htags', _⟩ := hafter.store (hbefore.noRollback hroll)
  refine ⟨s.sameHarts_writeCells cells, hmem'.trans (congrArg (msets · cells) hmem), fun k => ?_⟩
  rw [State.tagAt_congr htags', u.clearsTags_putCells cells k, State.tagAt_congr htags]

end

/-- A tag written at a location of L1 or HBM is that of its granule (01 R22). -/
theorem State.tagAt_writeTag (s : State) {j : Nat} (hhome : isL1 j = true ∨ isHbm j = true) (t : Bool) (k : Nat) :
    (s.writeTag j t).tagAt k = if j / 16 = k / 16 then t else s.tagAt k := by
  obtain ⟨_, _, hlt⟩ := home_bounds hhome
  have hw : s.writeTag j t = s.onMod fun m => { m with tags := if t then sadd m.tags (j / 16) else sdel m.tags (j / 16) } :=
    if_pos (by simpa using hhome)
  rw [hw, Bool.eq_iff_iff]
  simp only [State.tagAt, State.onMod_m, List.contains_eq_mem, Bool.and_eq_true, decide_eq_true_eq]
  by_cases hjk : j / 16 = k / 16
  · have hk : k < 0x10000000000 := by omega
    cases t
    · simp [hjk, not_mem_sdel]
    · simp [hjk, hk, mem_sadd]
  · cases t
    · simp [hjk, Ne.symm hjk, sdel]
    · simp [hjk, Ne.symm hjk, mem_sadd]

theorem State.writeTag_frame (s : State) (j : Nat) (t : Bool) : s.SameHarts (s.writeTag j t) ∧ (s.writeTag j t).m.mem = s.m.mem := by
  unfold State.writeTag
  split
  · exact ⟨s.sameHarts_onMod _, rfl⟩
  · exact ⟨.refl s, rfl⟩

/-! ## Cells of a store-buffer entry (04 R89, R90; 14 R353) -/

/-- A page captured for a hart changes nothing else of that hart. -/
theorem State.capture_hartAt (s : State) (n : Nat) (own : Bool) (page : Nat) : ∃ r, (s.capture n own page).hartAt n = { s.hartAt n with rep := r } := by
  unfold State.capture
  dsimp only
  split
  · exact ⟨_, rfl⟩
  · split
    · rw [State.hartAt_modHart, if_pos rfl]
      exact ⟨_, rfl⟩
    · rw [State.hartAt_modHart, if_pos rfl, State.onMod_hartAt, (State.aside_scrub _ _).hartAt, (s.aside_disturb _).hartAt]
      exact ⟨_, rfl⟩

/-- Cells that are no device registers, performed for a hart, change of that hart at most what its replay pass holds. -/
theorem State.performCells_hartAt (s : State) (n : Nat) (e : SbEntry) {cells : List Host.Cell} (hdev : ∀ c ∈ cells, isDev c.1 = false) :
    ∃ r, (s.performCells n e cells).hartAt n = { s.hartAt n with rep := r } := by
  have hcapture : ∃ r, (if e.done ≠ 0 then s else if (e.cells.headD (noKey, 0)).1 = noKey then s else s.capture n e.pass e.page).hartAt n =
      { s.hartAt n with rep := r } := by
    split
    · exact ⟨_, rfl⟩
    · split
      · exact ⟨_, rfl⟩
      · exact s.capture_hartAt ..
  have hwrite (u : State) : ((u.l2Writes (cells.map (·.1)) e.cap (e.mt == 0)).writeAny (e.lvl == .f) cells).hartAt n = u.hartAt n := by
    rw [State.writeAny_notDev _ _ hdev, (State.sameHarts_writeCells ..).hartAt, (u.aside_l2Writes ..).hartAt]
  unfold State.performCells
  dsimp only
  split
  · rwa [(State.writeTag_frame ..).1.hartAt, hwrite]
  · rwa [hwrite]

/-- What a store performed whole leaves: its bytes are in memory, and all others as they were; the tags of its granules are clear, but for
that of a capability store. -/
def SbEntry.WrittenIn (e : SbEntry) (s t : State) : Prop :=
  (∀ c ∈ e.cells, mget t.m.mem c.1 = c.2) ∧ (∀ k, (∀ c ∈ e.cells, c.1 ≠ k) → mget t.m.mem k = mget s.m.mem k) ∧
  ∀ k, t.tagAt k = if (∃ c ∈ e.cells, c.1 / 16 = k / 16) then e.cap && e.tag && k / 16 == (e.cells.headD (noKey, 0)).1 / 16 else s.tagAt k

/-- What is written depends on the bytes and tags alone. -/
theorem SbEntry.WrittenIn.congr {e : SbEntry} {s s' t t' : State} (h : e.WrittenIn s t) (hmem : s.m.mem = s'.m.mem) (htags : s.m.tags = s'.m.tags)
    (ht : t'.m = t.m) : e.WrittenIn s' t' := by
  obtain ⟨hin, hout, htag⟩ := h
  refine ⟨fun c hc => by rw [ht, hin c hc], fun k hk => by rw [ht, ← hmem, hout k hk], fun k => ?_⟩
  rw [State.tagAt_congr (congrArg Mod.tags ht), htag, State.tagAt_congr htags]

/-- An entry is performed whole at its home in the present turn: it is a store of distinct bytes of L1 and HBM outside a replay pass, of
which nothing is performed yet, no choice of pieces splits it and its channel does not keep it waiting; and no gang has rollback. -/
structure State.PerformsWhole (s : State) (e : SbEntry) : Prop where
  distinct : (e.cells.map (·.1)).Nodup
  home : ∀ c ∈ e.cells, isL1 c.1 = true ∨ isHbm c.1 = true
  noPass : e.pass = false
  begins : e.done = 0
  noSplits : s.splits = []
  notHeld : s.entryWaits e = false
  filled : (s.entryFills e).2 = true
  noRollback : s.NoRollback

/-- The tag of a capability store follows its bytes (01 R23); any other store writes none. -/
theorem SbEntry.tag_frame (e : SbEntry) (u : State) {c : Host.Cell} {r : List Host.Cell} (hcells : e.cells = c :: r)
    (hhome : isL1 c.1 = true ∨ isHbm c.1 = true) :
    let t := if e.cap then u.writeTag (e.cells.headD (noKey, 0)).1 e.tag else u
    u.SameHarts t ∧ t.m.mem = u.m.mem ∧ ∀ k, t.tagAt k = if e.cap = true ∧ c.1 / 16 = k / 16 then e.tag else u.tagAt k := by
  rw [hcells, List.headD_cons]
  cases e.cap with
  | false => exact ⟨.refl u, rfl, fun k => by simp⟩
  | true =>
    obtain ⟨hharts, hmem⟩ := u.writeTag_frame c.1 e.tag
    exact ⟨hharts, hmem, fun k => by simp [u.tagAt_writeTag hhome]⟩

/-- All cells of an entry, performed at once. -/
theorem State.performCells_whole {s : State} (n : Nat) {e : SbEntry} (hwf : s.MemWf) (hdistinct : (e.cells.map (·.1)).Nodup)
    (hhome : ∀ c ∈ e.cells, isL1 c.1 = true ∨ isHbm c.1 = true) (hpass : e.pass = false) (hroll : s.NoRollback) (hcells : e.cells ≠ []) :
    s.SameHarts (s.performCells n e e.cells) ∧ e.WrittenIn s (s.performCells n e e.cells) := by
  have hcapture : (if e.done ≠ 0 then s else if (e.cells.headD (noKey, 0)).1 = noKey then s else s.capture n e.pass e.page) = s := by
    simp [State.capture, hpass]
  obtain ⟨c, r, hc⟩ := List.exists_cons_of_ne_nil hcells
  have hhead : c ∈ e.cells := by simp [hc]
  have hl2 := s.aside_l2Writes (e.cells.map (·.1)) e.cap (e.mt == 0)
  obtain ⟨hl2mem, hl2tags, _⟩ := hl2.store hroll
  obtain ⟨hharts, hmem, htags⟩ := State.writeAny_home _ (e.lvl == .f) (hl2.noRollback hroll) hhome
  obtain ⟨hharts', hmem', htags'⟩ := e.tag_frame ((s.l2Writes (e.cells.map (·.1)) e.cap (e.mt == 0)).writeAny (e.lvl == .f) e.cells) hc (hhome c hhead)
  unfold State.performCells
  simp only [hcapture]
  refine ⟨hl2.toSameHarts.trans (hharts.trans hharts'), fun d hd => ?bytes, fun k hk => ?others, fun k => ?tags⟩
  case bytes => rw [hmem', hmem, hl2mem, mget_msets_mem _ _ d hwf hdistinct hd]
  case others => rw [hmem', hmem, hl2mem, mget_msets_not _ _ k hwf hk]
  case tags =>
    have hmap : (∃ j ∈ e.cells.map (·.1), j / 16 = k / 16) ↔ ∃ d ∈ e.cells, d.1 / 16 = k / 16 := by
      constructor
      · rintro ⟨_, hj, hjk⟩
        obtain ⟨d, hd, rfl⟩ := List.mem_map.mp hj
        exact ⟨d, hd, hjk⟩
      · rintro ⟨d, hd, hdk⟩
        exact ⟨d.1, List.mem_map_of_mem hd, hdk⟩
    rw [htags', htags, State.tagAt_congr hl2tags, hc, List.headD_cons, ← hc]
    simp only [hmap]
    by_cases hk : c.1 / 16 = k / 16
    · have hin : ∃ d ∈ e.cells, d.1 / 16 = k / 16 := ⟨c, hhead, hk⟩
      cases e.cap <;> simp [hk, hin]
    · have hne : (k / 16 == c.1 / 16) = false := by simpa using Ne.symm hk
      simp only [hk, hne, and_false, if_false, Bool.and_false]

/-! ## Pieces of an entry (02 R52; 04 R99) -/

/-- Runs to which each location adds one hold as many as there are. -/
theorem sum_runs_foldl {f : List (Nat × Nat) → Nat → List (Nat × Nat)} (hf : ∀ l k, ((f l k).map (·.2)).sum = (l.map (·.2)).sum + 1)
    (keys : List Nat) (l : List (Nat × Nat)) : ((keys.foldl f l).map (·.2)).sum = (l.map (·.2)).sum + keys.length := by
  induction keys generalizing l with
  | nil => rfl
  | cons k r ih =>
    rw [List.foldl_cons, ih, hf, List.length_cons]
    omega

/-- The pieces of some locations hold all of them. -/
theorem pieceRuns_total (core : Nat) (whole : Bool) (keys : List Nat) :
    (pieceRuns core whole keys).foldl (fun (n : Nat) (e : Nat × Nat) => n + e.2) 0 = keys.length := by
  have hsum (l : List (Nat × Nat)) : l.foldl (fun (n : Nat) (e : Nat × Nat) => n + e.2) 0 = (l.map (·.2)).sum := by
    rw [List.sum_eq_foldl, List.foldl_map]
  rw [hsum, pieceRuns, List.map_reverse, List.sum_reverse]
  refine (sum_runs_foldl (fun l k => ?_) keys []).trans (Nat.zero_add _)
  rcases l with _ | ⟨⟨q, n⟩, l⟩
  · rfl
  · dsimp only
    split <;> simp <;> omega

/-- Where no choice of pieces splits it, a turn performs an entry of which nothing is performed yet whole. -/
theorem State.performNext_whole {s : State} (n : Nat) {e : SbEntry} (hsplits : s.splits = []) (hbegins : e.done = 0) :
    s.performNext n e = ((if e.cells = [] then s else s.performCells n e e.cells).splitUsed (pieceRuns n e.cap (e.cells.map (·.1))),
      { e with done := e.cells.length }) := by
  have hall : s.leading (pieceRuns n e.cap (e.cells.map (·.1))) = e.cells.length := by
    rw [State.leading, hsplits]
    exact (pieceRuns_total ..).trans (List.length_map ..)
  simp [State.performNext, hbegins, hall]

theorem State.splitUsed_m {α : Type} (s : State) (l : List α) : (s.splitUsed l).m = s.m := by
  unfold State.splitUsed
  split <;> rfl

theorem State.splitUsed_hartAt {α : Type} (s : State) (l : List α) (n : Nat) : (s.splitUsed l).hartAt n = s.hartAt n := by
  unfold State.splitUsed
  split <;> rfl

theorem State.aside_entryFills (s : State) (e : SbEntry) : s.Aside (s.entryFills e).1 := by
  unfold State.entryFills
  split
  · exact s.aside_channelRead_other ..
  · exact .refl s

/-- A turn that performs an entry whole writes it, leaves the hart as it was, and then puts back the entry that is over. -/
theorem State.entryTurn_whole {s : State} (n : Nat) {e : SbEntry} (put : SbEntry → Hart → Hart) (hwf : s.MemWf) (h : s.PerformsWhole e) :
    ∃ t, s.entryTurn n e put = some (t.modHart n (put { e with done := e.cells.length })) ∧ t.hartAt n = s.hartAt n ∧ e.WrittenIn s t := by
  have hfill := s.aside_entryFills e
  obtain ⟨hmem, htags, _⟩ := hfill.store h.noRollback
  have hpair : s.entryFills e = ((s.entryFills e).1, true) := Prod.ext rfl h.filled
  generalize (s.entryFills e).1 = f at hfill hmem htags hpair
  have hturn : s.entryTurn n e put = some ((f.performNext n e).1.modHart n (put (f.performNext n e).2)) := by
    rw [State.entryTurn, h.notHeld, hpair]
    rfl
  rw [State.performNext_whole n (hfill.splits.trans h.noSplits) h.begins] at hturn
  have hperformed : ∀ u, u = (if e.cells = [] then f else f.performCells n e e.cells) → f.SameHarts u ∧ e.WrittenIn f u := by
    rintro u rfl
    split
    · next hnone => exact ⟨.refl f, by simp [SbEntry.WrittenIn, hnone]⟩
    · next hcells => exact State.performCells_whole n (by rwa [State.MemWf, hmem]) h.distinct h.home h.noPass (hfill.noRollback h.noRollback) hcells
  obtain ⟨hharts, hwritten⟩ := hperformed _ rfl
  refine ⟨_, hturn, ?_, hwritten.congr hmem htags (State.splitUsed_m ..)⟩
  rw [State.splitUsed_hartAt, hharts.hartAt, hfill.hartAt]

end Sys2Proof.Machine

/-! SUPPORT. The store buffer and posted stores (02 R60; 04 R89, R90, R95), and the obligation about them. -/

namespace Sys2Proof.Machine

/-! ## The range-lock check and harts (02 R62; 15 R371) -/

theorem tget_eq_default {α : Type} (d : α) {t : Tbl α} {k : Nat} (h : k ∉ t.map (·.1)) : tget d t k = d := by
  induction t with
  | nil => rfl
  | cons e r ih =>
    rw [List.map_cons, List.mem_cons, not_or] at h
    rw [tget, if_neg (Ne.symm h.1), ih h.2]

/-- A hart that the state does not list is as after reset. -/
theorem State.hartAt_of_not_mem_cores {s : State} {n : Nat} (h : n ∉ s.cores) : s.hartAt n = {} := by
  rw [State.cores, mem_sadd, not_or] at h
  rw [State.hartAt, if_neg h.1, tget_eq_default _ h.2]

/-- The near windows that a migration moves are those of the harts that it moves, listed or not. -/
theorem State.mem_windowsOf_moving {s : State} {w : Nat × Nat × Nat} : w ∈ s.windowsOf (·.moving) ↔
    ∃ c, (s.hartAt c).moving = true ∧ (s.hartAt c).nearOn = true ∧ c < 4096 ∧ w = (dieOf c, trayOf c % 128, (s.hartAt c).slab) := by
  simp only [State.windowsOf, List.mem_filterMap, Option.ite_none_right_eq_some, Option.some.injEq, Bool.and_eq_true, decide_eq_true_eq, and_assoc,
    eq_comm (b := w)]
  refine ⟨fun ⟨c, _, hc⟩ => ⟨c, hc⟩, fun ⟨c, hmoving, hc⟩ => ⟨c, ?_, hmoving, hc⟩⟩
  refine Decidable.byContradiction fun hnot => ?_
  rw [State.hartAt_of_not_mem_cores hnot] at hmoving
  contradiction

/-- A change of harts that moves none of them and keeps their NEARCTL leaves the range-lock check as it was. -/
theorem State.lockHit_congr {s t : State} (hm : t.m = s.m) (hmoving : ∀ c, (t.hartAt c).moving = (s.hartAt c).moving)
    (hctl : ∀ c, (t.hartAt c).ctl = (s.hartAt c).ctl) (keys : List Nat) : t.lockHit keys = s.lockHit keys := by
  have hwindows (w : Nat × Nat × Nat) : w ∈ t.windowsOf (·.moving) ↔ w ∈ s.windowsOf (·.moving) := by
    simp only [State.mem_windowsOf_moving, hmoving, Hart.nearOn, Hart.slab, hctl]
  have hat (k : Nat) : t.movingAt k = s.movingAt k := by
    rw [Bool.eq_iff_iff]
    simp only [State.movingAt, Bool.and_eq_true, List.any_eq_true, hwindows]
  simp only [State.lockHit, State.hearth, hm, hat]

theorem State.lockHit_modHart (s : State) (n : Nat) {f : Hart → Hart} (hf : ∀ h, (f h).moving = h.moving ∧ (f h).ctl = h.ctl) (keys : List Nat) :
    (s.modHart n f).lockHit keys = s.lockHit keys := by
  have hkept (c : Nat) : ((s.modHart n f).hartAt c).moving = (s.hartAt c).moving ∧ ((s.modHart n f).hartAt c).ctl = (s.hartAt c).ctl := by
    rw [State.hartAt_modHart]
    split
    · next h => exact h ▸ hf _
    · exact ⟨rfl, rfl⟩
  exact State.lockHit_congr (s.modHart_m ..) (fun c => (hkept c).1) (fun c => (hkept c).2) keys

/-! ## The oldest entry of a store buffer (04 R89, R90, R95; 18 R409) -/

section
variable {s : State} {n : Nat} {e : SbEntry} {rest : List SbEntry}

theorem Hart.canDrain_cons {h : Hart} (hsb : h.sb = e :: rest) :
    h.canDrain = (e.scope != 1 || ((!e.rel || h.posted.isEmpty) && (!e.device || !h.posted.any SbEntry.device))) := by
  rw [Hart.canDrain, hsb]

/-- A release leaves once every earlier store is acknowledged, a store to a device register once every earlier one of those is. -/
theorem Hart.canDrain_near {h : Hart} (hsb : h.sb = e :: rest) (hrel : e.rel = true → h.posted = [])
    (hdevice : e.device = true → h.posted.any SbEntry.device = false) : h.canDrain = true := by
  have hacknowledged : (!e.rel || h.posted.isEmpty) = true := by
    cases hr : e.rel
    · rfl
    · simp [hrel hr]
  have hordered : (!e.device || !h.posted.any SbEntry.device) = true := by
    cases hd : e.device
    · rfl
    · simp only [hdevice hd, Bool.not_false, Bool.or_true]
  rw [Hart.canDrain_cons hsb, hacknowledged, hordered]
  exact Bool.or_true _

/-- An entry that is not performed on its die leaves in its turn. -/
theorem Hart.canDrain_far {h : Hart} (hsb : h.sb = e :: rest) (hscope : e.scope ≠ 1) : h.canDrain = true := by
  simp [Hart.canDrain_cons hsb, hscope]

/-- What the event does where the oldest entry may leave. -/
theorem State.drainEvent_eq {t : State} (hcan : (s.hartAt n).canDrain = true) (hdrain : s.drain? n = some t) :
    (if (s.hartAt n).canDrain then some (s.drainOne n) else none) = some t := by
  rw [if_pos hcan, State.drainOne, hdrain, Option.getD_some]

theorem State.drain?_here (hsb : (s.hartAt n).sb = e :: rest) (hcan : (s.hartAt n).canDrain = true) (hscope : e.scope = 1) :
    s.drain? n = s.entryTurn n e fun e h => { h with sb := if e.over then rest else e :: rest } := by
  simp only [State.drain?, hsb, hcan, hscope, if_true, Bool.not_true, Bool.false_eq_true, if_false]

theorem State.answers_congr {s t : State} (hm : t.m = s.m) (e : SbEntry) : t.answers e = s.answers e := by
  rw [State.answers, State.answers, hm]

theorem State.drain?_posts (hsb : (s.hartAt n).sb = e :: rest) (hscope : e.scope ≠ 1) (hanswers : s.answers e = true) :
    s.drain? n = some ((s.setHartAt n { s.hartAt n with sb := rest }).modHart n fun h => { h with posted := h.posted ++ [e] }) := by
  simp [State.drain?, hsb, Hart.canDrain_far hsb hscope, hscope, State.answers_congr (s.setHartAt_m ..), hanswers]

theorem State.drain?_lost (hsb : (s.hartAt n).sb = e :: rest) (hscope : e.scope ≠ 1) (hanswers : s.answers e = false) :
    s.drain? n = some ((s.setHartAt n { s.hartAt n with sb := rest }).modHart n fun h => { h with asy := h.asy ++ [e.report 0x1A 3 0 0] }) := by
  simp [State.drain?, hsb, Hart.canDrain_far hsb hscope, hscope, State.answers_congr (s.setHartAt_m ..), hanswers]

/-! ## Posted stores (02 R60; 04 R87, R95) -/

variable {i : Nat}

/-- A posted store that no older one overlaps, a release as the oldest, may be performed. -/
theorem State.postedAt_eq (hposted : (s.hartAt n).posted[i]? = some e) (hrel : e.rel = true → i = 0)
    (holder : ∀ o ∈ (s.hartAt n).posted.take i, o.overlaps (e.cells.map (·.1)) = false ∧ (o.device && e.device) = false) :
    s.postedAt n i = some e := by
  have hnone : ((s.hartAt n).posted.take i).any (fun o => o.overlaps (e.cells.map (·.1)) || (o.device && e.device)) = false :=
    List.any_eq_false.mpr fun o ho => by simp [holder o ho]
  have hfirst : (e.rel && i != 0) = false := by
    cases hr : e.rel
    · rfl
    · simp [hrel hr]
  simp only [State.postedAt, hposted, Option.bind_some, hfirst, hnone, Bool.or_self, Bool.false_eq_true, if_false]

theorem State.remoteResponse_eq (hat : s.postedAt n i = some e) (hdue : s.overdue e = false) (hfree : s.lockHit (e.cells.map (·.1)) = none)
    (hanswers : s.answers e = true) : s.remoteResponse n i = s.entryTurn n e fun e h => h.putPosted i e := by
  simp [State.remoteResponse, hat, hdue, State.postedLocked, hfree, hanswers]

theorem State.remoteRefused_eq {entry reason hearth : Nat} (hat : s.postedAt n i = some e) (hdue : s.overdue e = false) (hbegins : e.done = 0)
    (hlocked : s.lockHit (e.cells.map (·.1)) = some (entry, reason, hearth)) :
    s.remoteRefused n i = some ((s.dropPosted n i).modHart n fun h => { h with asy := h.asy ++ [e.report 0x19 reason entry hearth] }) := by
  have hlocked' : (s.dropPosted n i).lockHit (e.cells.map (·.1)) = some (entry, reason, hearth) :=
    (s.lockHit_modHart n (f := fun h => { h with posted := h.posted.eraseIdx i }) (fun _ => ⟨rfl, rfl⟩) _).trans hlocked
  simp [State.remoteRefused, hat, hdue, State.postedLocked, hbegins, hlocked, State.arrive, hlocked']

theorem State.dropPosted_hartAt (s : State) (n i : Nat) :
    (s.dropPosted n i).hartAt n = { s.hartAt n with posted := (s.hartAt n).posted.eraseIdx i } := by
  rw [State.dropPosted, State.hartAt_modHart, if_pos rfl]

/-- A posted store past its limit leaves with a report, performed or not; what it writes is no device register. -/
theorem State.remoteTimeout_frame (hposted : (s.hartAt n).posted[i]? = some e) (hdue : s.overdue e = true) (hdev : ∀ c ∈ e.cells, isDev c.1 = false) :
    ∃ t, s.remoteTimeout n i = some t ∧ (t.hartAt n).posted = (s.hartAt n).posted.eraseIdx i ∧
      (t.hartAt n).asy = (s.hartAt n).asy ++ [e.report 0x1A 2 0 e.hearth] := by
  have hleft : ({ s.dropPosted n i with tick := (s.dropPosted n i).tick + 1 } : State).hartAt n =
      { s.hartAt n with posted := (s.hartAt n).posted.eraseIdx i } := s.dropPosted_hartAt n i
  rw [State.remoteTimeout, hposted, Option.bind_some, if_neg (by simp [hdue])]
  refine ⟨_, rfl, ?_⟩
  rw [State.hartAt_modHart, if_pos rfl]
  split
  · obtain ⟨r, hr⟩ := ({ s.dropPosted n i with tick := (s.dropPosted n i).tick + 1 } : State).performCells_hartAt n e
      fun c hc => hdev c (List.mem_of_mem_drop hc)
    rw [State.perform, hr, hleft]
    exact ⟨rfl, rfl⟩
  · rw [hleft]
    exact ⟨rfl, rfl⟩

end

/-- Settles O45: the oldest entry is performed whole, posted or lost as its scope and its target say; so is a posted store performed, refused
or timed out. -/
theorem storesLeaveAndArrive : Obligations.StoresLeaveAndArrive := by
  unfold Obligations.StoresLeaveAndArrive
  intro s core i e hcore hwf h written plain
  have hunit : hartExists core = true := decide_eq_true hcore
  have hwhole : plain → s.PerformsWhole e := fun ⟨hdistinct, hhome, hpass, hbegins, hsplits, hheld, hfilled, hroll⟩ =>
    ⟨hdistinct, hhome, hpass, hbegins, hsplits, hheld, hfilled, hroll⟩
  have hover : SbEntry.over { e with done := e.cells.length } = true := decide_eq_true (Nat.le_refl _)
  refine ⟨fun rest hsb => ⟨fun hscope hrel hdevice hplain => ?here, fun hscope hanswers => ?posts, fun hscope hanswers => ?lost⟩,
    fun hposted hrel holder hdue => ⟨fun hfree hanswers hplain => ?arrives, fun entry reason hearth hbegins hlocked => ?refused⟩,
    fun hposted hlimit hpast hdev => ?late⟩
  case here =>
    have hcan : h.canDrain = true := Hart.canDrain_near hsb hrel hdevice
    obtain ⟨t, hturn, hhart, hwritten⟩ :=
      State.entryTurn_whole core (fun e h => { h with sb := if e.over then rest else e :: rest }) hwf (hwhole hplain)
    refine acts_of_eventOf (exec_storeBufferDrain ..) hunit (State.drainEvent_eq hcan ((State.drain?_here hsb hcan hscope).trans hturn)) ?_
    rw [State.hartAt_modHart, if_pos rfl, hhart, if_pos hover]
    exact ⟨hwritten.congr rfl rfl (State.modHart_m ..), rfl, rfl⟩
  case posts =>
    refine acts_of_eventOf (exec_storeBufferDrain ..) hunit
      (State.drainEvent_eq (Hart.canDrain_far hsb hscope) (State.drain?_posts hsb hscope hanswers)) ⟨.of_mem (by simp), ?_⟩
    rw [State.hartAt_modHart, if_pos rfl, State.hartAt_setHartAt, if_pos rfl]
    exact ⟨rfl, rfl⟩
  case lost =>
    refine acts_of_eventOf (exec_storeBufferDrain ..) hunit
      (State.drainEvent_eq (Hart.canDrain_far hsb hscope) (State.drain?_lost hsb hscope hanswers)) ⟨.of_mem (by simp), ?_⟩
    rw [State.hartAt_modHart, if_pos rfl, State.hartAt_setHartAt, if_pos rfl]
    exact ⟨rfl, rfl, _, rfl, rfl, rfl⟩
  case arrives =>
    have hat := State.postedAt_eq hposted hrel holder
    obtain ⟨t, hturn, hhart, hwritten⟩ := State.entryTurn_whole core (fun e h => h.putPosted i e) hwf (hwhole hplain)
    refine acts_of_eventOf (exec_remoteResponse ..) hunit ((State.remoteResponse_eq hat hdue hfree hanswers).trans hturn)
      ⟨hwritten.congr rfl rfl (State.modHart_m ..), ?_⟩
    rw [State.hartAt_modHart, if_pos rfl, hhart]
    exact if_pos hover
  case refused =>
    have hat := State.postedAt_eq hposted hrel holder
    refine acts_of_eventOf (exec_remoteStoreRefused ..) hunit (State.remoteRefused_eq hat hdue hbegins hlocked)
      ⟨.of_mem (by simp [State.dropPosted]), ?_⟩
    rw [State.hartAt_modHart, if_pos rfl, State.dropPosted_hartAt]
    exact ⟨rfl, _, rfl, rfl, rfl⟩
  case late =>
    have hdue : s.overdue e = true := by simp [State.overdue, hlimit, hpast]
    obtain ⟨t, ht, hleft, hreport⟩ := State.remoteTimeout_frame hposted hdue hdev
    exact acts_of_eventOf (exec_remoteTimeout ..) hunit ht ⟨hleft, _, hreport, rfl, rfl⟩

end Sys2Proof.Machine

/-! SUPPORT. What a superstep boundary writes into the undo area (08 R178, R179; 16 R388, R389), and the obligation about barriers and
placement, which leaves it out. -/

namespace Sys2Proof.Machine

/-! ## Writes of zeros -/

/-- A location among those to which only zeros are written holds 0. -/
theorem mget_msets_zeros {cells : List Host.Cell} {k : Nat} (l : List Host.Cell) (hwf : Memory.wf l = true) (hzero : ∀ c ∈ cells, c.2 = 0)
    (hk : k ∈ cells.map (·.1)) : mget (msets l cells) k = 0 := by
  induction cells generalizing l with
  | nil => simp at hk
  | cons c r ih =>
    obtain ⟨hc, hr⟩ := List.forall_mem_cons.mp hzero
    change mget (msets (mset l c.1 c.2) r) k = 0
    by_cases htail : k ∈ r.map (·.1)
    · exact ih _ (mset_wf l c.1 c.2 hwf) hr htail
    · have hhead : k = c.1 := (List.mem_cons.mp hk).resolve_right htail
      have hnot : ∀ d ∈ r, d.1 ≠ k := fun d hd hdk => htail (hdk ▸ List.mem_map_of_mem hd)
      rw [mget_msets_not _ r k (mset_wf l c.1 c.2 hwf) hnot, mget_mset l c.1 k c.2 hwf, if_pos hhead, hc]

/-! ## The undo area (16 R388, R389) -/

/-- The location of a physical address depends on the bindings and links of the host alone. -/
theorem paKey_congr {m n : Mod} (h : n.host = m.host) (pa : Nat) : paKey n pa = paKey m pa := by simp only [paKey, h]

/-- The cells that bytes written at a physical address are, those in HBM. -/
def Mod.undoCells (m : Mod) (pa : Nat) (l : List Byte) : List Host.Cell :=
  (l.zipIdx.map fun e => (paKey m (pa + e.2), e.1)).filter fun c => isHbm c.1

theorem State.disturb_frame (s : State) (keys : List Nat) : (s.disturb keys).m.mem = s.m.mem ∧ (s.disturb keys).m.host = s.m.host := by
  unfold State.disturb
  split <;> exact ⟨rfl, rfl⟩

theorem Mod.putPa_frame (m : Mod) (pa : Nat) (l : List Byte) :
    (m.putPa pa l).mem = msets m.mem (m.undoCells pa l) ∧ (m.putPa pa l).host = m.host := by
  have hunpoison (n : Mod) (keys : List Nat) : (n.unpoison keys).mem = n.mem ∧ (n.unpoison keys).host = n.host := by
    unfold Mod.unpoison
    split <;> exact ⟨rfl, rfl⟩
  exact hunpoison _ _

/-- A write into the undo area writes its bytes and changes no address. -/
theorem State.putUndo_frame (s : State) (pa : Nat) (l : List Byte) :
    (s.putUndo pa l).m.mem = msets s.m.mem (s.m.undoCells pa l) ∧ (s.putUndo pa l).m.host = s.m.host := by
  have hput (u : State) (hmem : u.m.mem = s.m.mem) (hhost : u.m.host = s.m.host) :
      (u.m.putPa pa l).mem = msets s.m.mem (s.m.undoCells pa l) ∧ (u.m.putPa pa l).host = s.m.host := by
    obtain ⟨hwritten, hsame⟩ := u.m.putPa_frame pa l
    have hcells : u.m.undoCells pa l = s.m.undoCells pa l := by simp only [Mod.undoCells, paKey_congr hhost]
    exact ⟨by rw [hwritten, hmem, hcells], hsame.trans hhost⟩
  unfold State.putUndo
  split
  · exact hput s rfl rfl
  · obtain ⟨hmem, hhost⟩ := s.disturb_frame ((List.range l.length).map fun i => paKey s.m (pa + i))
    exact hput _ hmem hhost

theorem State.putUndo_memWf {s : State} (pa : Nat) (l : List Byte) (hwf : s.MemWf) : (s.putUndo pa l).MemWf := by
  rw [State.MemWf, (s.putUndo_frame pa l).1]
  exact msets_wf _ _ hwf

/-- A write of zeros into the undo area begins with a byte 0, where that lies in HBM. -/
theorem State.putUndo_zeros {s : State} {pa n : Nat} (hwf : s.MemWf) (hhbm : isHbm (paKey s.m pa) = true) :
    mget (s.putUndo pa (List.replicate (n + 1) 0)).m.mem (paKey s.m pa) = 0 := by
  rw [(s.putUndo_frame ..).1]
  refine mget_msets_zeros _ hwf (fun c hc => ?zero) ?first
  case zero =>
    obtain ⟨e, he, rfl⟩ := List.mem_map.mp (List.mem_filter.mp hc).1
    exact List.eq_of_mem_replicate (List.fst_mem_of_mem_zipIdx he)
  case first =>
    have hhead : ((0 : Byte), 0) ∈ (List.replicate (n + 1) (0 : Byte)).zipIdx := by simp [List.replicate_succ]
    exact List.mem_map.mpr ⟨_, List.mem_filter.mpr ⟨List.mem_map.mpr ⟨_, hhead, rfl⟩, hhbm⟩, rfl⟩

/-- The set that becomes current is written before the retry count, which is 0. -/
theorem State.writeSet_eq (s : State) (g : Gang) (r : Roll) (harts : Tbl Hart) (hearths : List Nat) :
    ∃ pa l, s.writeSet g r harts hearths = (({ s with tick := s.tick + 1 }.putUndo pa l).putUndo (g.retryPa r) (List.replicate 8 0)) :=
  ⟨_, _, rfl⟩

theorem State.writeSet_retry {s : State} (g : Gang) (r : Roll) (harts : Tbl Hart) (hearths : List Nat) (hwf : s.MemWf)
    (hhbm : isHbm (paKey s.m (g.retryPa r)) = true) : mget (s.writeSet g r harts hearths).m.mem (paKey s.m (g.retryPa r)) = 0 := by
  obtain ⟨pa, l, heq⟩ := s.writeSet_eq g r harts hearths
  have hkey := paKey_congr (State.putUndo_frame { s with tick := s.tick + 1 } pa l).2 (g.retryPa r)
  change _ = paKey s.m (g.retryPa r) at hkey
  rw [heq, ← hkey]
  exact State.putUndo_zeros (State.putUndo_memWf pa l hwf) (hkey ▸ hhbm)

/-! ## Superstep boundaries (08 R178, R179; 16 R389) -/

theorem State.modGang_mem (s : State) (n : Nat) (f : Gang → Gang) : (s.modGang n f).m.mem = s.m.mem := by
  unfold State.modGang
  split <;> rfl

/-- A new superstep writes no byte. -/
theorem State.newSuperstep_mem (s : State) (n : Nat) : (s.newSuperstep n).m.mem = s.m.mem := by
  rw [State.newSuperstep, State.modGang_mem, State.unmark]
  split
  · rfl
  · rw [State.modGang_mem]
    exact List.foldlRecOn (motive := fun t : State => t.m.mem = s.m.mem) _ _ rfl fun _ ht _ _ => ht

/-- A boundary of a gang with rollback sets the retry count in its undo area to 0. -/
theorem State.boundary0_retry {s : State} {gang : Nat} {g : Gang} {r : Roll} (snap : Tbl Hart) (hwf : s.MemWf) (hg : s.gang? gang = some g)
    (hr : g.roll = some r) (hhbm : isHbm (paKey s.m (g.retryPa r)) = true) :
    mget (s.boundary0 gang snap).m.mem (paKey s.m (g.retryPa r)) = 0 := by
  simp only [State.boundary0, hg, hr]
  rw [State.modGang_mem, State.newSuperstep_mem]
  exact State.writeSet_retry g r snap _ hwf hhbm

/-- A collective barrier changes SLKSTEP and what follows from it. -/
theorem State.collective_mem (s : State) (i : Nat) : (s.collective i).m.mem = s.m.mem := by
  unfold State.collective
  dsimp only
  split
  · rfl
  · rw [(State.retargetAll_frame _).1]
    exact List.foldlRecOn (motive := fun t : State => t.m.mem = s.m.mem) _ _ rfl fun _ ht _ _ => ht

/-- A completion of level 3 that enters a computation phase is a boundary of a gang with rollback. -/
theorem State.barrierComplete_boundary {s : State} {gang dom i : Nat} {g : Gang} {r : Roll} {x y : Barrier}
    (hbar : s.gangBar gang 3 dom = some (.bar i)) (hx : s.barAt (.bar i) = some x) (hdone : x.complete? = some y) (hphase : y.phase = false)
    (hg : s.gang? gang = some g) (hr : g.roll = some r) :
    s.barrierComplete gang 3 dom = some (((s.setBar (.bar i) y).boundary0 gang r.next).collective i) := by
  have hcomplete : s.barComplete (.bar i) = some (s.setBar (.bar i) y) := by
    rw [State.barComplete, hx, Option.bind_some, hdone, Option.map_some]
  have hgang : (s.setBar (.bar i) y).gang? gang = some g := hg
  have hbarAt : (s.setBar (.bar i) y).barAt (.bar i) = some y := (tget?_tset ..).trans (if_pos rfl)
  simp only [State.barrierComplete, hbar, hcomplete, Option.map_some, State.superstep, hgang, hbarAt, Option.bind_some, hr, hphase,
    Bool.not_false, and_self, if_true]

/-- So it sets the retry count of that gang to 0. -/
theorem State.barrierComplete_retry {s : State} {gang dom i : Nat} {g : Gang} {r : Roll} {x y : Barrier} (hwf : s.MemWf)
    (hbar : s.gangBar gang 3 dom = some (.bar i)) (hx : s.barAt (.bar i) = some x) (hdone : x.complete? = some y) (hphase : y.phase = false)
    (hg : s.gang? gang = some g) (hr : g.roll = some r) (hhbm : isHbm (paKey s.m (g.retryPa r)) = true) :
    ∃ t, s.barrierComplete gang 3 dom = some t ∧ mget t.m.mem (paKey s.m (g.retryPa r)) = 0 := by
  refine ⟨_, State.barrierComplete_boundary hbar hx hdone hphase hg hr, ?_⟩
  rw [State.collective_mem]
  exact State.boundary0_retry (s := s.setBar (.bar i) y) r.next hwf hg hr hhbm

/-- An event that its unit enables leaves in memory what the unit's step leaves there. -/
theorem Acts.mem_eq {s u : State} {i : Instr} {ok : Bool} {o : Option State} {P : State → Prop} (h : Acts s i P)
    (hexec : exec i s = eventOf ok o s) (hok : ok = true) (ho : o = some u) : ∃ t, P t ∧ t.m.mem = u.m.mem := by
  obtain ⟨t, ht, hP⟩ := h
  rw [hexec, hok, ho] at ht
  injection ht with htick
  exact ⟨t, hP, congrArg (·.m.mem) htick.symm⟩

/-! ## The obligation -/

/-- Gang 0 on the harts of Tray 0, with rollback and its undo area from 0x10000, has rolled back once since its last boundary, so that the
retry count at 0x10000 + 2 * 0x2C000 is 1. It is in a communication phase, and every hart has arrived at the barrier of level 3. -/
def boundaryState : State :=
  let member (n : Nat) : Hart :=
    { place := .placed
      id := { lcore := BitVec.ofNat 13 n, gangsz := 8, physcore := BitVec.ofNat 13 n, dom := #v[0, 0, 0, mkDom 0 0 true true false 8 7] } }
  let harts : Tbl Hart := (List.range 8).map fun n => (n, member n)
  { hart := member 0, parked := harts.tail
    m := {
      bars := [(7, { members := List.range 8, gen := 1, arrived := List.range 8, phase := true })]
      gangs := [(0, {
        ctx := 0, lrec := 0, size := 8, cores := List.range 8, roll := some { cfg := 0x10001, retry := 1, cur := harts, next := harts } })]
      mem := [(paKey {} 0x68000, 1)] } }

/-- Refutes O50: the completion at level 3 that begins a computation phase is a superstep boundary of a gang with rollback (R389), which writes
the snapshot set and the retry count in its undo area; so memory is not the same after it. In `boundaryState` the retry count goes from 1
to 0. -/
theorem not_unitsScheduleAndPlaceGangs : ¬ Obligations.UnitsScheduleAndPlaceGangs := by
  unfold Obligations.UnitsScheduleAndPlaceGangs
  rintro ⟨hunits, -⟩
  obtain ⟨hbarrier, -⟩ := hunits boundaryState 0 3 0 0 0 (by decide) (by decide) (by decide) (by decide)
  have hacts := hbarrier (.bar 7) { members := List.range 8, gen := 1, arrived := List.range 8, phase := true } rfl rfl (by decide) fun _ hm => hm
  obtain ⟨u, hu, hretry⟩ := State.barrierComplete_retry (s := boundaryState) (gang := 0) (dom := 0) rfl rfl rfl rfl rfl rfl rfl (by decide)
  obtain ⟨t, ⟨-, hsame⟩, hmem⟩ := hacts.mem_eq (exec_barrierComplete ..) rfl hu
  have hnew : mget t.m.mem (paKey boundaryState.m 0x68000) = 0 := hmem ▸ hretry
  have hold : mget boundaryState.m.mem (paKey boundaryState.m 0x68000) = 1 := rfl
  rw [hsame, hold] at hnew
  exact absurd hnew (by decide)

end Sys2Proof.Machine
